-- ==== Sys2Proof/Word.lean ====
section
/-! DEFINITION. The word types, the fixed-number containers and the stage names that every layer uses. -/

namespace Sys2Proof

/-- One byte of a frame or of the configuration image. -/
abbrev Byte := BitVec 8

/-- A 16-bit word: a sample as the sampler delivers it (00_scope 0.7). -/
abbrev Word := BitVec 16

/-- The stage numbers 1..4 (00_scope Table 0-2). -/
inductive StageId
  | s1 | s2 | s3 | s4
  deriving DecidableEq, Repr, Inhabited

namespace StageId

def num : StageId → Nat
  | s1 => 1 | s2 => 2 | s3 => 3 | s4 => 4

def all : List StageId := [s1, s2, s3, s4]

end StageId

/-- One value for each of the stages 1..4. -/
structure Four (α : Type) where
  k1 : α
  k2 : α
  k3 : α
  k4 : α
  deriving DecidableEq, Repr, Inhabited

namespace Four
variable {α β : Type}

def get (f : Four α) : StageId → α
  | .s1 => f.k1 | .s2 => f.k2 | .s3 => f.k3 | .s4 => f.k4

def set (f : Four α) (k : StageId) (x : α) : Four α :=
  match k with
  | .s1 => { f with k1 := x } | .s2 => { f with k2 := x }
  | .s3 => { f with k3 := x } | .s4 => { f with k4 := x }

def all (x : α) : Four α := ⟨x, x, x, x⟩

def ofFn (f : StageId → α) : Four α := ⟨f .s1, f .s2, f .s3, f .s4⟩

def toList (f : Four α) : List α := [f.k1, f.k2, f.k3, f.k4]

@[simp] theorem get_set_same (f : Four α) (k : StageId) (x : α) : (f.set k x).get k = x := by
  cases k <;> rfl

theorem get_set_ne (f : Four α) {k j : StageId} (x : α) (h : j ≠ k) :
    (f.set k x).get j = f.get j := by
  cases k <;> cases j <;> first | rfl | exact absurd rfl h

theorem get_set (f : Four α) (k j : StageId) (x : α) :
    (f.set k x).get j = if j = k then x else f.get j := by
  cases k <;> cases j <;> rfl

@[simp] theorem get_ofFn (f : StageId → α) (k : StageId) : (ofFn f).get k = f k := by
  cases k <;> rfl

@[simp] theorem get_all (x : α) (k : StageId) : (Four.all x).get k = x := by
  cases k <;> rfl

@[simp] theorem set_get_same (f : Four α) (k : StageId) : f.set k (f.get k) = f := by
  cases k <;> rfl

@[simp] theorem set_set (f : Four α) (k : StageId) (x y : α) : (f.set k x).set k y = f.set k y := by
  cases k <;> rfl

end Four

/-- One value for each of the phases A, B and C. -/
structure Three (α : Type) where
  a : α
  b : α
  c : α
  deriving DecidableEq, Repr, Inhabited

namespace Three
variable {α β γ : Type}

def map (f : α → β) (t : Three α) : Three β := ⟨f t.a, f t.b, f t.c⟩

def zipWith (f : α → β → γ) (t : Three α) (u : Three β) : Three γ := ⟨f t.a u.a, f t.b u.b, f t.c u.c⟩

def toList (t : Three α) : List α := [t.a, t.b, t.c]

/-- The greatest of three figures. -/
def greatest (t : Three Nat) : Nat := max t.a (max t.b t.c)

end Three

/-- One value for each of the six monitored-order slots (R98). -/
structure Six (α : Type) where
  m1 : α
  m2 : α
  m3 : α
  m4 : α
  m5 : α
  m6 : α
  deriving DecidableEq, Repr, Inhabited

namespace Six
variable {α β γ : Type}

def map (f : α → β) (t : Six α) : Six β := ⟨f t.m1, f t.m2, f t.m3, f t.m4, f t.m5, f t.m6⟩

def zipWith (f : α → β → γ) (t : Six α) (u : Six β) : Six γ :=
  ⟨f t.m1 u.m1, f t.m2 u.m2, f t.m3 u.m3, f t.m4 u.m4, f t.m5 u.m5, f t.m6 u.m6⟩

def all (x : α) : Six α := ⟨x, x, x, x, x, x⟩

def toList (t : Six α) : List α := [t.m1, t.m2, t.m3, t.m4, t.m5, t.m6]

end Six

end Sys2Proof
end

