-- ==== Sys2Proof/Syntax.lean ====
section
/-! DEFINITION. The commands of the block: one constructor of Instr for each row of spec/opcode_table.json. -/

namespace Sys2Proof

/-- The frequency strap, latched at each start (R195). -/
inductive Strap
  | hz50 | hz60
  deriving DecidableEq, Repr, Inhabited

/-- One sample set: one word for each of the eight sampler channels, in channel order (Section 1.1). -/
structure SampleSet where
  c0 : Word
  c1 : Word
  c2 : Word
  c3 : Word
  c4 : Word
  c5 : Word
  c6 : Word
  c7 : Word
  deriving DecidableEq, Repr, Inhabited

def SampleSet.toList (w : SampleSet) : List Word := [w.c0, w.c1, w.c2, w.c3, w.c4, w.c5, w.c6, w.c7]

/-- The three blocks that take an evaluated cycle (R12). -/
inductive CycleBlock
  | voltage | harmonic | unbalance
  deriving DecidableEq, Repr, Inhabited

/-- The order in which the world lets the three blocks take a cycle completion. R12: they may take it
in any order. DESIGN CHOICE (log 4): the order is an operand, so a statement holds for all six. -/
inductive CycleOrder
  | vhu | vuh | hvu | huv | uvh | uhv
  deriving DecidableEq, Repr, Inhabited

def CycleOrder.blocks : CycleOrder → List CycleBlock
  | .vhu => [.voltage, .harmonic, .unbalance]
  | .vuh => [.voltage, .unbalance, .harmonic]
  | .hvu => [.harmonic, .voltage, .unbalance]
  | .huv => [.harmonic, .unbalance, .voltage]
  | .uvh => [.unbalance, .voltage, .harmonic]
  | .uhv => [.unbalance, .harmonic, .voltage]

/-- The commands: the events of spec/opcode_table.json, in the table's order. The table gives no operands;
an event carries what the world brings with it and nothing that State already holds (log 1, log 7). -/
inductive Instr
  | powerOn (strap : Strap)
  | externalReset
  | resetRelease (strap : Strap)
  /-- The bytes the image memory delivered, in order. -/
  | imageCheck (image : List Byte)
  | imageReadTimeout
  | fallbackPulseEnd
  | presenceProbeEnd
  /-- An unmarked sample set. -/
  | sampleSet (words : SampleSet)
  /-- A marked sample set. -/
  | cycleCompletion (words : SampleSet) (order : CycleOrder)
  | markTimeout
  /-- The inputs whose run count reaches 10 at one tick, by the bits of the image's contact sense flags:
  bit 3(k-1) closed, 3(k-1)+1 open, 3(k-1)+2 attention of stage k; bit 12 BLOCK (log 6). -/
  | contactChange (changed : BitVec 13)
  | pulseEnd (k : StageId)
  | closeWindowExpiry (k : StageId)
  | openWindowExpiry (k : StageId)
  | discrepancyExpiry (k : StageId)
  | dischargeEnd (k : StageId)
  | minutePruning
  | listenInExpiry
  | stationSettleExpiry
  | peerSettleExpiry
  | frameCompletion
  | bulletinArrival
  | outcomeArrival
  | intentArrival
  | detailArrival
  | formatDiscard
  /-- The peer's station number. -/
  | peerStale (station : Byte)
  | peerRemoval (station : Byte)
  /-- The sender of the heard-intent record. -/
  | heardIntentExpiry (sender : Byte)
  | numberClashExpiry
  | holdOffExpiry
  | queueTimeExpiry
  | mediumIdle
  /-- The new level of carrier detect. -/
  | carrierDetectChange (active : Bool)
  | transmissionStart
  | transmissionEnd
  | bulletinPeriodExpiry
  | triggerDelayExpiry
  | bulletinSpacingExpiry
  | orderClose
  | orderOpen
  | orderMode
  | orderBlockSet
  | orderBlockClear
  | orderResetStage
  | orderCaptureNull
  | orderSequence
  | orderStopSequence
  | orderReport
  | chainStep
  | startEdge
  /-- The line's sub-samples that follow the start edge (true is mark), up to the reading that ends
  the character (R172); after a stop bit read as space further ones at space may follow, up to the line's return to
  mark (R173; log 8). -/
  | characterEnd (samples : List Bool)
  | frameArrival
  | badOrder
  deriving DecidableEq, Repr, Inhabited

end Sys2Proof
end

