-- ==== Sys2Proof/Machine/Codes.lean ====
section
/-! DEFINITION. The named codes of the tables: causes, reasons, directions, results, outcome codes. -/

namespace Sys2Proof.Machine

inductive Direction
  | close | opening
  deriving DecidableEq, Repr, Inhabited

/-- R186: direction 0 is CLOSE and 1 is OPEN. -/
def Direction.code : Direction → Nat
  | .close => 0 | .opening => 1

/-- The cause codes of Table 2-6 (R54). -/
inductive Cause
  | start | autoRaise | autoLower | fastOv | harmShed | order | sequence | unbTrip | unbHighset
  | deadLine | lockoutEnforce | extOpen | extClose | extCloseCharged
  deriving DecidableEq, Repr, Inhabited

def Cause.code : Cause → Nat
  | .start => 0 | .autoRaise => 1 | .autoLower => 2 | .fastOv => 3 | .harmShed => 4 | .order => 5
  | .sequence => 6 | .unbTrip => 7 | .unbHighset => 8 | .deadLine => 9 | .lockoutEnforce => 10
  | .extOpen => 11 | .extClose => 12 | .extCloseCharged => 13

/-- Section 2.4: the protective opens. -/
def Cause.protective : Cause → Bool
  | .unbTrip | .unbHighset | .deadLine | .lockoutEnforce => true
  | _ => false

/-- R47: a trip request is an open with cause UNB_TRIP or UNB_HIGHSET. -/
def Cause.trip : Cause → Bool
  | .unbTrip | .unbHighset => true
  | _ => false

/-- Table 3-4, A1 and A2: the automatic opens. -/
def Cause.automaticOpen : Cause → Bool
  | .autoLower | .fastOv | .harmShed => true
  | _ => false

/-- The reason codes of Table 3-5 (R71). -/
inductive Reason
  | none | badStage | absent | already | discharging | lockout | fault | attention | busy | deadLine
  | measLost | duty | resonance | blocked | harmBlock | noneReady | noneClosed | peerIntent
  | peerSwitched | precedence | channelBusy | stageChanged | order | suspended | overvoltage
  | notClosed | notPermitted | badOrder
  deriving DecidableEq, Repr, Inhabited

def Reason.code : Reason → Nat
  | .none => 0 | .badStage => 1 | .absent => 2 | .already => 3 | .discharging => 4 | .lockout => 5
  | .fault => 6 | .attention => 7 | .busy => 8 | .deadLine => 9 | .measLost => 10 | .duty => 11
  | .resonance => 12 | .blocked => 13 | .harmBlock => 14 | .noneReady => 15 | .noneClosed => 16
  | .peerIntent => 17 | .peerSwitched => 18 | .precedence => 19 | .channelBusy => 20
  | .stageChanged => 21 | .order => 22 | .suspended => 23 | .overvoltage => 24 | .notClosed => 25
  | .notPermitted => 26 | .badOrder => 27

/-- The result of a switching report (Table 2-5). -/
inductive Result
  | executed | cut | failed
  deriving DecidableEq, Repr, Inhabited

/-- The OUTCOME result codes of Table 8-4. -/
inductive OutcomeResult
  | executed | cut | failed | withdrawn
  deriving DecidableEq, Repr, Inhabited

def OutcomeResult.code : OutcomeResult → Nat
  | .executed => 1 | .cut => 2 | .failed => 3 | .withdrawn => 4

def Result.toOutcome : Result → OutcomeResult
  | .executed => .executed | .cut => .cut | .failed => .failed

/-- The last-order outcomes of Table 10-1. FAILED stands twice: the detail byte of a FAILED order is a reason code, that of a chain
whose step FAILED is the step index. -/
inductive OrderOutcome
  | none | done | inProgress | refused | failed | stepFailed | stopped
  deriving DecidableEq, Repr, Inhabited

def OrderOutcome.code : OrderOutcome → Nat
  | .none => 0 | .done => 1 | .inProgress => 2 | .refused => 3 | .failed => 4 | .stepFailed => 4 | .stopped => 5

/-- The derived positions of Table 2-3. -/
inductive Position
  | opened | closed | transit | bad
  deriving DecidableEq, Repr, Inhabited

/-- Table 9-10, stage part byte 1. -/
def Position.code : Position → Nat
  | .opened => 0 | .closed => 1 | .transit => 2 | .bad => 3

end Sys2Proof.Machine
end

