-- ==== Sys2Proof/Config.lean ====
section
/-! DEFINITION. What the spec leaves open: constants without a body, of which nothing can be proved. -/

namespace Sys2Proof

/-- Free value (log 17). R191 gives the failure detail of an ordered close that ended in CUT for the cut
causes DEAD_LINE, UNB_TRIP and UNB_HIGHSET alone. For any other cut cause the detail is this unknown one. -/
opaque Config.cutDetail : Machine.Cause → Machine.Reason

/-- Free value (log 35). R71 says that the reason codes that are reported are recorded in DETAIL too, and does not say which,
where several stand and a page has room for one: at a tick, the one at this unknown place of their list, counted modulo its
length. -/
opaque Config.detailChoice : (tick : Nat) → (codes : List Nat) → Nat

end Sys2Proof
end

