-- ==== Sys2Proof/Machine/State.lean ====
section
/-! DEFINITION. The state of the part as plain data, and its value before the first start.
A running timer is held as the milliseconds left, `some n`; a stopped one is `none`. -/

namespace Sys2Proof.Machine

/-! ### Settings: the working copy of the image (Tables 4-1, 5-1, 6-1, 11-1) -/

/-- A signal that a sampler channel may carry (Section 1.2). -/
inductive Signal
  | va | vb | vc
  | n (k : StageId)
  deriving DecidableEq, Repr, Inhabited

/-- One channel of the channel map: its function, `none` for UNUSED, and its invert flag. -/
structure Channel where
  signal : Option Signal
  invert : Bool
  deriving DecidableEq, Repr, Inhabited

/-- The settings of one stage (Table 11-2, the stage blocks). -/
structure StageSettings where
  size : Nat
  dischargeTime : Nat
  dutyLimit : Nat
  pulseWidth : Nat
  operateWindow : Nat
  discrepancyTime : Nat
  alarmLevel : Nat
  alarmDelay : Nat
  tripLevel : Nat
  tripDelay : Nat
  blanking : Nat
  nullRe : Int
  nullIm : Int
  deriving DecidableEq, Repr, Inhabited

/-- One monitored-order slot; `order` is `none` for an unused slot (R98). -/
structure Slot where
  order : Option Nat
  limit : Nat
  watch : Nat
  deriving DecidableEq, Repr, Inhabited

structure Settings where
  station : Nat
  group : Option Nat
  stageCount : Nat
  panelMask : Byte
  initialManual : Bool
  blockSet : Four Bool
  position : Nat
  bitRateCode : Nat
  keyUp : Nat
  period : Nat
  holdOff : Nat
  channels : List Channel
  sense : BitVec 13
  nominal : Three Nat
  vset : Nat
  halfBand : Nat
  decay : Nat
  threshold : Nat
  stationSettle : Nat
  peerSettle : Nat
  fastOv : Nat
  restoreTime : Nat
  nearReach : Nat
  farReach : Nat
  slots : Six Slot
  thdLimit : Nat
  persistence : Nat
  hysteresis : Nat
  shedDelay : Nat
  guard : Nat
  ssc : Nat
  stages : Four StageSettings
  deriving DecidableEq, Repr, Inhabited

/-! ### Start -/

/-- Where the part stands in its start (R195, R196, R199, R200). `held`: no start has begun, or the
reset input is active. The timers of `reading` and `probing` are the 200 ms and the 500 ms. -/
inductive Phase
  | held
  | reading (left : Nat)
  | probing (left : Nat)
  | running
  | fallback
  deriving DecidableEq, Repr, Inhabited

/-! ### Contact Input Unit -/

/-- One input: debounced state and run count (R27). -/
structure Debounced where
  active : Bool
  run : Nat
  deriving DecidableEq, Repr, Inhabited

structure StageInputs where
  closed : Debounced
  opened : Debounced
  attention : Debounced
  /-- A position contact has been active during the presence probe (R200). -/
  seen : Bool
  deriving DecidableEq, Repr, Inhabited

/-! ### Sampler Port and Measurement Store -/

/-- One value for each signal of the channel map. -/
structure Signals (α : Type) where
  va : α
  vb : α
  vc : α
  n : Four α
  deriving DecidableEq, Repr, Inhabited

/-- The run in progress (R1): set count, the first 32 mapped sets in order, clipped flags (R5). -/
structure Run where
  count : Nat
  sets : List (Signals Int)
  clipped : Signals Bool
  deriving DecidableEq, Repr, Inhabited

structure Port where
  working : Bool
  run : Option Run
  lost : Bool
  discards : Nat
  recovery : Nat
  markTimer : Option Nat
  deriving DecidableEq, Repr, Inhabited

structure Phasor where
  re : Int
  im : Int
  deriving DecidableEq, Repr, Inhabited

/-- The figures of one monitored slot on one phase (R14, R15, R19, R21). -/
structure SlotFigures where
  phasor : Phasor
  magnitude : Nat
  h : Nat
  d : Nat
  deriving DecidableEq, Repr, Inhabited

structure PhaseFigures where
  phasor : Phasor
  magnitude : Nat
  v : Nat
  slots : Six SlotFigures
  thd : Nat
  deriving DecidableEq, Repr, Inhabited

/-- The Measurement Store (R12). Its validity mark is the port's `lost`. -/
structure Store where
  phases : Three PhaseFigures
  h : Six Nat
  thd : Nat
  vctl : Nat
  vhi : Nat
  weak : Bool
  neutral : Four Phasor
  clipped : Signals Bool
  deriving DecidableEq, Repr, Inhabited

/-! ### Stage Supervisor -/

/-- The fault kinds of R25; DISCREPANCY keeps whether its timer's origin was CLOSED (R26). -/
inductive FaultKind
  | failToClose
  | failToOpen
  | discrepancy (fromClosed : Bool)
  deriving DecidableEq, Repr, Inhabited

/-- The stage states of Table 2-2. -/
inductive StageState
  | absent | ready | discharging | closing | closed | opening | lockout
  | fault (kind : FaultKind)
  deriving DecidableEq, Repr, Inhabited

structure Operation where
  dir : Direction
  cause : Cause
  intent : Nat
  start : Nat
  cut : Option Cause
  deriving DecidableEq, Repr, Inhabited

/-- A running discrepancy timer (R25): origin state and elapsed milliseconds. -/
structure Discrepancy where
  origin : StageState
  elapsed : Nat
  deriving DecidableEq, Repr, Inhabited

/-- The stage record (Table 2-1), less number and size (settings), connected (a view of `state`, R26),
and the blanking and null phasor (held by the Unbalance Relay). -/
structure Stage where
  state : StageState
  tripLatch : Bool
  /-- Discharge remaining, with its tenth-second phase, in milliseconds (R56). -/
  discharge : Nat
  lastCause : Cause
  op : Option Operation
  disc : Option Discrepancy
  lastClose : Nat
  lastOpen : Nat
  duty : List Nat
  closeOut : Bool
  openOut : Bool
  pulse : Option Nat
  window : Option Nat
  deriving DecidableEq, Repr, Inhabited

/-! ### Voltage Controller -/

/-- The controller states of Table 4-3. -/
inductive CtlState
  | suspended | quiet | watching | proposing | executing
  deriving DecidableEq, Repr, Inhabited

/-- The suspension causes of Table 4-4. -/
inductive Suspension
  | manual | blockInput | chainActive | measLost | deadLine | listenIn | fallback
  deriving DecidableEq, Repr, Inhabited

structure CauseSet where
  manual : Bool
  blockInput : Bool
  chainActive : Bool
  measLost : Bool
  deadLine : Bool
  listenIn : Bool
  fallback : Bool
  deriving DecidableEq, Repr, Inhabited

structure OwnOp where
  stage : StageId
  dir : Direction
  intent : Nat
  deriving DecidableEq, Repr, Inhabited

/-- The controller record (Table 4-2). -/
structure Controller where
  manual : Bool
  state : CtlState
  causes : CauseSet
  low : Nat
  high : Nat
  stationSettle : Option Nat
  peerSettle : Option Nat
  listenIn : Option Nat
  deadLine : Bool
  deadRun : Nat
  restore : Nat
  fovRun : Nat
  fovRep : Nat
  unserved : Reason
  ownOp : Option OwnOp
  deriving DecidableEq, Repr, Inhabited

/-! ### Harmonic Monitor and Unbalance Relay -/

structure SlotAlarm where
  alarm : Bool
  run : Nat
  shed : Nat
  deriving DecidableEq, Repr, Inhabited

/-- The monitor's record (R99). -/
structure Monitor where
  slots : Six SlotAlarm
  thdAlarm : Bool
  thdRun : Nat
  deriving DecidableEq, Repr, Inhabited

/-- One stage entry of the relay (Table 6-2). -/
structure RelayEntry where
  inService : Bool
  blanking : Nat
  latestU : Nat
  null : Phasor
  alarmCount : Nat
  alarm : Bool
  tripCount : Nat
  highCount : Nat
  tripSent : Bool
  deriving DecidableEq, Repr, Inhabited

structure Capture where
  stage : StageId
  count : Nat
  reSum : Int
  imSum : Int
  panel : Nat
  tag : Nat
  deriving DecidableEq, Repr, Inhabited

structure Relay where
  entries : Four RelayEntry
  capture : Option Capture
  deriving DecidableEq, Repr, Inhabited

/-! ### Peer View -/

/-- A peer entry (Table 7-1); `ageMs` is the age with its tenth-second phase. -/
structure Peer where
  station : Nat
  position : Nat
  period : Nat
  figure : Option Nat
  lastSeq : Nat
  missed : Nat
  ageMs : Nat
  stale : Bool
  deriving DecidableEq, Repr, Inhabited

/-- A heard-intent record (R146); `left` is what remains of its lifetime. -/
structure Heard where
  sender : Nat
  position : Nat
  dir : Direction
  number : Nat
  holdOff : Nat
  arrival : Nat
  left : Nat
  deriving DecidableEq, Repr, Inhabited

structure PanelRecord where
  valid : Bool
  lastSeq : Nat
  deriving DecidableEq, Repr, Inhabited

structure PeerView where
  entries : List Peer
  heard : List Heard
  /-- Eight records, of the panels 0x40..0x47 in order. -/
  panels : List PanelRecord
  viewFull : Bool
  /-- NUMBER_CLASH with its expiry second (R135). -/
  clash : Option Nat
  deriving DecidableEq, Repr, Inhabited

/-! ### Intent Exchange -/

inductive IntentPhase
  | queued (sent : Bool) (queueMs : Nat)
  | holding (left : Nat)
  | committed
  deriving DecidableEq, Repr, Inhabited

/-- The own intent record (Table 8-1); the hold-off is in tenth-seconds. -/
structure Intent where
  number : Nat
  dir : Direction
  stage : StageId
  size : Nat
  holdOff : Nat
  phase : IntentPhase
  deriving DecidableEq, Repr, Inhabited

structure Exchange where
  own : Option Intent
  nextNumber : Nat
  busyCount : Nat
  isolated : Bool
  deriving DecidableEq, Repr, Inhabited

/-! ### Line Channel -/

/-- INTENT content, fixed at the intent's creation (R155). -/
structure IntentContent where
  number : Nat
  dir : Direction
  stage : StageId
  size : Nat
  position : Nat
  holdOff : Nat
  deriving DecidableEq, Repr, Inhabited

/-- OUTCOME content (Table 8-3); figure and position are read at the transmission start. -/
structure OutcomeContent where
  number : Nat
  result : OutcomeResult
  dir : Direction
  stage : StageId
  cause : Cause
  reason : Reason
  deriving DecidableEq, Repr, Inhabited

/-- A frame being assembled (R173). -/
structure Assembly where
  bytes : List Byte
  count : Nat
  noisy : Bool
  framing : Bool
  deriving DecidableEq, Repr, Inhabited

/-- The receiver. `idle` is the unbroken mark in fifths of a bit period, 0..75, so that the idle count
of Table 9-1 is `idle / 5`. `character`: a character is in progress. `mark`: the last sub-sample taken was at
mark (R172, R173). -/
structure Receiver where
  frame : Option Assembly
  character : Bool
  idle : Nat
  mark : Bool
  deriving DecidableEq, Repr, Inhabited

/-- A record of the receive ring (R175). -/
structure Record where
  arrival : Nat
  count : Nat
  bytes : List Byte
  deriving DecidableEq, Repr, Inhabited

/-- Channel access (Table 9-1). `left` is counted in fifths of a bit period; the modem is keyed while
transmitting. -/
inductive Access
  | noAttempt
  | waiting
  | deferring (r : Nat) (left : Nat)
  | transmitting (frame : List Byte) (left : Nat)
  deriving DecidableEq, Repr, Inhabited

/-- The line statistics of Table 9-4. -/
structure Stats where
  good : Nat
  crc : Nat
  format : Nat
  noise : Nat
  framing : Nat
  long : Nat
  overrun : Nat
  clash : Nat
  deriving DecidableEq, Repr, Inhabited

structure LineChannel where
  working : Bool
  rx : Receiver
  ring : List Record
  intentSlot : Option IntentContent
  outcomeSlot : Option OutcomeContent
  /-- Page and requesting panel. -/
  detailSlot : Option (Nat × Nat)
  armed : Bool
  access : Access
  lfsr : BitVec 16
  seq : Nat
  framesSent : Nat
  periodTimer : Option Nat
  triggerDelay : Option Nat
  lastBulletin : Option Nat
  spacing : Option Nat
  stats : Stats
  deriving DecidableEq, Repr, Inhabited

/-! ### Order Interpreter -/

structure LastOrder where
  panel : Nat
  tag : Nat
  outcome : OrderOutcome
  detail : Nat
  deriving DecidableEq, Repr, Inhabited

/-- What the settling mark awaits (R189). -/
inductive SettleMark
  | none
  | report (k : StageId)
  | capture
  | chain
  deriving DecidableEq, Repr, Inhabited

/-- A chain step; the stage number is judged when the step is served (R192). -/
structure Step where
  dir : Direction
  stage : Nat
  delay : Nat
  deriving DecidableEq, Repr, Inhabited

structure Chain where
  steps : List Step
  index : Nat
  operating : Bool
  delay : Nat
  panel : Nat
  tag : Nat
  deriving DecidableEq, Repr, Inhabited

structure Interpreter where
  last : LastOrder
  mark : SettleMark
  chain : Option Chain
  /-- The index of the step at which the last chain ended (R194). -/
  stepIndex : Nat
  /-- The reason with which it ended, when it ended REFUSED; kept with the index for DETAIL (R71; log 35). -/
  stepReason : Reason
  deriving DecidableEq, Repr, Inhabited

/-! ### The machine -/

structure State where
  /-- The waiting commands, first in first out (the model's own). -/
  pending : List Instr
  resetInput : Bool
  phase : Phase
  strap : Strap
  /-- The millisecond tick count since the start (00_scope 0.6). -/
  ms : Nat
  settings : Settings
  fallbackPulse : Option Nat
  /-- The raw levels at the thirteen contact inputs. -/
  pins : BitVec 13
  carrier : Bool
  inputs : Four StageInputs
  block : Debounced
  port : Port
  store : Store
  stages : Four Stage
  ready : List StageId
  inService : List StageId
  blockSet : Four Bool
  vc : Controller
  hm : Monitor
  ur : Relay
  pv : PeerView
  ix : Exchange
  lc : LineChannel
  oi : Interpreter
  alarm : Bool
  healthy : Bool
  deriving DecidableEq, Repr, Inhabited

/-- Why a command faults. The spec gives no event that stops the part (a failed image check enters
FALLBACK, R199, and a breaker failure the stage state FAULT, R35: both are next states), so no
constructor stands here and no meaning answers with a fault. -/
inductive Fault
  deriving DecidableEq, Repr

/-- Why a command is refused. -/
inductive Refusal
  /-- Raised by exec for a command that has no meaning yet. Safe: nothing can be proved past it. -/
  | notModelled (mnemonic : String)
  deriving DecidableEq, Repr

/-! ### Starting values -/

def StageSettings.zero : StageSettings := ⟨0, 0, 0, 0, 0, 0, 0, 0, 0, 0, 0, 0, 0⟩

/-- The working copy before an image has been read: every field 0 or absent (DESIGN CHOICE, log 9). -/
def Settings.none : Settings where
  station := 0
  group := .none
  stageCount := 0
  panelMask := 0
  initialManual := false
  blockSet := .all false
  position := 0
  bitRateCode := 0
  keyUp := 0
  period := 0
  holdOff := 0
  channels := []
  sense := 0
  nominal := ⟨0, 0, 0⟩
  vset := 0
  halfBand := 0
  decay := 0
  threshold := 0
  stationSettle := 0
  peerSettle := 0
  fastOv := 0
  restoreTime := 0
  nearReach := 0
  farReach := 0
  slots := .all ⟨.none, 0, 0⟩
  thdLimit := 0
  persistence := 0
  hysteresis := 0
  shedDelay := 0
  guard := 0
  ssc := 0
  stages := .all .zero

/-- R27: inactive with run count 0. -/
def Debounced.start : Debounced := ⟨false, 0⟩

def StageInputs.start : StageInputs := ⟨.start, .start, .start, false⟩

def Signals.all {α : Type} (x : α) : Signals α := ⟨x, x, x, .all x⟩

/-- R11. -/
def Port.start : Port := ⟨false, none, true, 0, 0, none⟩

def SlotFigures.zero : SlotFigures := ⟨⟨0, 0⟩, 0, 0, 0⟩

def PhaseFigures.zero : PhaseFigures := ⟨⟨0, 0⟩, 0, 0, .all .zero, 0⟩

/-- R11. -/
def Store.start : Store where
  phases := ⟨.zero, .zero, .zero⟩
  h := .all 0
  thd := 0
  vctl := 0
  vhi := 0
  weak := false
  neutral := .all ⟨0, 0⟩
  clipped := .all false

/-- R25, with the state of a stage before the probe at code 0 (DESIGN CHOICE, log 9). -/
def Stage.start : Stage where
  state := .absent
  tripLatch := false
  discharge := 0
  lastCause := .start
  op := none
  disc := none
  lastClose := 0
  lastOpen := 0
  duty := []
  closeOut := false
  openOut := false
  pulse := none
  window := none

/-- R72: the causes present after power-on and after the external reset. -/
def CauseSet.start : CauseSet where
  manual := false
  blockInput := false
  chainActive := false
  measLost := true
  deadLine := false
  listenIn := true
  fallback := false

/-- R72. -/
def Controller.start : Controller where
  manual := false
  state := .suspended
  causes := .start
  low := 0
  high := 0
  stationSettle := none
  peerSettle := none
  listenIn := none
  deadLine := false
  deadRun := 0
  restore := 0
  fovRun := 0
  fovRep := 0
  unserved := .none
  ownOp := none

/-- R99. -/
def Monitor.start : Monitor := ⟨.all ⟨false, 0, 0⟩, false, 0⟩

/-- R117. -/
def RelayEntry.start : RelayEntry := ⟨false, 0, 0, ⟨0, 0⟩, 0, false, 0, 0, false⟩

def Relay.start : Relay := ⟨.all .start, none⟩

/-- R133. -/
def PeerView.start : PeerView where
  entries := []
  heard := []
  panels := List.replicate 8 ⟨false, 0⟩
  viewFull := false
  clash := none

/-- R152, R97. -/
def Exchange.start : Exchange := ⟨none, 1, 0, false⟩

/-- R173: idle with an idle count of 0; the line at mark (R172; log 18). -/
def Receiver.start : Receiver := ⟨none, false, 0, true⟩

def Stats.zero : Stats := ⟨0, 0, 0, 0, 0, 0, 0, 0⟩

/-- R171. The LFSR takes its seed when the station number is known. -/
def LineChannel.start : LineChannel where
  working := false
  rx := .start
  ring := []
  intentSlot := none
  outcomeSlot := none
  detailSlot := none
  armed := false
  access := .noAttempt
  lfsr := 0
  seq := 0
  framesSent := 0
  periodTimer := none
  triggerDelay := none
  lastBulletin := none
  spacing := none
  stats := .zero

/-- R189. -/
def Interpreter.start : Interpreter := ⟨⟨0, 0, .none, 0⟩, .none, none, 0, .none⟩

/-- The part before its first power-on: every block at its starting state (R195), the queue empty. -/
def State.reset : State where
  pending := []
  resetInput := false
  phase := .held
  strap := .hz50
  ms := 0
  settings := .none
  fallbackPulse := none
  pins := 0
  carrier := false
  inputs := .all .start
  block := .start
  port := .start
  store := .start
  stages := .all .start
  ready := []
  inService := []
  blockSet := .all false
  vc := .start
  hm := .start
  ur := .start
  pv := .start
  ix := .start
  lc := .start
  oi := .start
  alarm := false
  healthy := false

end Sys2Proof.Machine
end

