-- ==== Sys2Proof/Machine/Arithmetic.lean ====
section
/-! DEFINITION. The integer arithmetic of the figures (01_measurement_arithmetic.md, and R106 to R108 for the
resonance index). -/

namespace Sys2Proof.Machine

/-- 00_scope 0.7: a clamped figure is set to the nearest end of its range. -/
def clamp (lo hi x : Nat) : Nat := max lo (min hi x)

def clampInt (lo hi x : Int) : Int := max lo (min hi x)

/-- The absolute difference of two positions (00_scope 0.7). -/
def distance (a b : Nat) : Nat := (a - b) + (b - a)

/-- 00_scope 0.7: a saturating count stops at its maximum. -/
def satInc (hi n : Nat) : Nat := min hi (n + 1)

/-- The root found so far, `acc`, refined by the bits `b - 1` down to 0. -/
def isqrtFrom (n : Nat) : Nat → Nat → Nat
  | 0, acc => acc
  | b + 1, acc =>
    if (acc + 2 ^ b) * (acc + 2 ^ b) ≤ n then isqrtFrom n b (acc + 2 ^ b) else isqrtFrom n b acc

/-- 00_scope 0.7: the greatest integer whose square does not exceed the operand. Exact for operands below
2^40; the greatest operand of any rule is 2·131070² (R23). -/
def isqrt (n : Nat) : Nat := isqrtFrom n 20 0

/-- Round to nearest, ties away from zero (R14). -/
def roundDiv (n : Int) (d : Nat) : Int :=
  let q : Int := (2 * n.natAbs + d) / (2 * d)
  if n < 0 then -q else q

/-- Table 1-2 and its continuation (R13). -/
def cosTable : List Int :=
  [16384, 16069, 15137, 13623, 11585, 9102, 6270, 3196,
   0, -3196, -6270, -9102, -11585, -13623, -15137, -16069] ++
  [-16384, -16069, -15137, -13623, -11585, -9102, -6270, -3196,
   0, 3196, 6270, 9102, 11585, 13623, 15137, 16069]

def sinTable : List Int :=
  [0, 3196, 6270, 9102, 11585, 13623, 15137, 16069,
   16384, 16069, 15137, 13623, 11585, 9102, 6270, 3196] ++
  [0, -3196, -6270, -9102, -11585, -13623, -15137, -16069,
   -16384, -16069, -15137, -13623, -11585, -9102, -6270, -3196]

/-- The sum over the samples from number `k` on, of x_k times the table entry at (h·k) mod 32 (R14). -/
def correlate (table : List Int) (h : Nat) : Nat → List Int → Int
  | _, [] => 0
  | k, x :: xs => x * table.getD ((h * k) % 32) 0 + correlate table h (k + 1) xs

/-- R14. -/
def phasorOf (h : Nat) (xs : List Int) : Phasor where
  re := clampInt (-65535) 65535 (roundDiv (correlate cosTable h 0 xs) (2 ^ 18))
  im := clampInt (-65535) 65535 (-(roundDiv (correlate sinTable h 0 xs) (2 ^ 18)))

def sumSquares (p : Phasor) : Nat := p.re.natAbs * p.re.natAbs + p.im.natAbs * p.im.natAbs

/-- R15. -/
def magnitudeOf (p : Phasor) : Nat := min 65535 (isqrt (sumSquares p))

/-- Round half up of 1000·m / nominal (R17, R19), before the clamp. -/
def perMille (m nominal : Nat) : Nat := (2000 * m + nominal) / (2 * nominal)

/-- R17. -/
def phaseVoltage (m nominal : Nat) : Nat := min 2000 (perMille m nominal)

/-- R19. -/
def harmonicMagnitude (m nominal : Nat) : Nat := min 1000 (perMille m nominal)

/-- R21. -/
def distortion (m m1 : Nat) : Nat := min 1000 (1000 * m / m1)

/-- R21. -/
def thdOf (ds : List Nat) : Nat := min 1000 (isqrt ((ds.map fun d => d * d).sum))

/-- R23. -/
def unbalance (p null : Phasor) : Nat := magnitudeOf ⟨p.re - null.re, p.im - null.im⟩

/-- R24: each sum divided by 16 and truncated toward zero. -/
def captureNull (reSum imSum : Int) : Phasor := ⟨reSum.tdiv 16, imSum.tdiv 16⟩

/-! ### The figures of a cycle -/

/-- R16, R19: one slot on one phase; an unused slot is not computed. The distortion ratio is set by
`distortPhase`. -/
def slotFigures (xs : List Int) (nominal : Nat) (slot : Slot) : SlotFigures :=
  match slot.order with
  | none => .zero
  | some h =>
    let p := phasorOf h xs
    let m := magnitudeOf p
    ⟨p, m, harmonicMagnitude m nominal, 0⟩

def phaseFigures (slots : Six Slot) (xs : List Int) (nominal : Nat) : PhaseFigures :=
  let p := phasorOf 1 xs
  let m := magnitudeOf p
  { phasor := p, magnitude := m, v := phaseVoltage m nominal
    slots := slots.map (slotFigures xs nominal), thd := 0 }

/-- R20: the fundamental of one phase is below a tenth of its nominal. -/
def weakPhase (f : PhaseFigures) (nominal : Nat) : Bool := f.magnitude < nominal / 10

/-- R21: distortion ratios and THD of one phase, when the weak-fundamental flag is clear. -/
def distortPhase (f : PhaseFigures) : PhaseFigures :=
  let sl := f.slots.map fun g => { g with d := distortion g.magnitude f.magnitude }
  { f with slots := sl, thd := thdOf (sl.toList.map SlotFigures.d) }

/-- R19: the station magnitude of each slot. -/
def stationH (ph : Three PhaseFigures) : Six Nat :=
  Six.zipWith (fun a bc => max a bc) (ph.a.slots.map SlotFigures.h)
    (Six.zipWith max (ph.b.slots.map SlotFigures.h) (ph.c.slots.map SlotFigures.h))

/-- The whole store of an accepted cycle (R12), from its 32 mapped sets. -/
def computeStore (c : Settings) (sets : List (Signals Int)) (clipped : Signals Bool) : Store :=
  let raw : Three PhaseFigures :=
    ⟨phaseFigures c.slots (sets.map Signals.va) c.nominal.a,
     phaseFigures c.slots (sets.map Signals.vb) c.nominal.b,
     phaseFigures c.slots (sets.map Signals.vc) c.nominal.c⟩
  let weak := weakPhase raw.a c.nominal.a || weakPhase raw.b c.nominal.b || weakPhase raw.c c.nominal.c
  let ph := if weak then raw else raw.map distortPhase
  { phases := ph
    h := stationH ph
    thd := (ph.map PhaseFigures.thd).greatest
    vctl := (ph.a.v + ph.b.v + ph.c.v) / 3
    vhi := (ph.map PhaseFigures.v).greatest
    weak := weak
    neutral := .ofFn fun k =>
      if k.num ≤ c.stageCount then phasorOf 1 (sets.map fun x => x.n.get k) else ⟨0, 0⟩
    clipped := clipped }

/-! ### The resonance index -/

/-- R107. -/
def resonanceIndex (ssc q : Nat) : Nat :=
  if q = 0 then 255 else min 255 (isqrt (1000 * ssc / q))

/-- R106, the contribution of a peer at a distance. -/
def contribution (near far dist figure : Nat) : Nat :=
  if dist ≤ near then figure else if dist ≤ far then figure / 2 else 0

/-- |index − 10·h| ≤ guard (R109, R113). -/
def inBand (index h guard : Nat) : Bool := distance index (10 * h) ≤ guard

end Sys2Proof.Machine
end

