-- ==== Sys2Proof/Machine/Ops.lean ====
section
/-! DEFINITION. The named operations over the registers: views, field updates of the stage records, the time
bases. Nothing here acts on another block. -/

namespace Sys2Proof.Machine

/-! ### Time bases (00_scope 0.6) -/

/-- The 32-bit count of whole seconds since the start (log 11). -/
def State.seconds (s : State) : Nat := (s.ms / 1000) % 2 ^ 32

/-- The tenth-second tick. -/
def State.tenths (s : State) : Nat := s.ms / 100

/-- A timer of milliseconds as its tenth-seconds, a begun one counted whole (R56, R58). -/
def tenthsLeft (ms : Nat) : Nat := (ms + 99) / 100

/-- R58: whole seconds, rounded up. -/
def secondsUp (tenths : Nat) : Nat := (tenths + 9) / 10

/-- Milliseconds of a time in tenth-seconds, and in seconds. -/
def ofTenths (n : Nat) : Nat := 100 * n

def ofSeconds (n : Nat) : Nat := 1000 * n

/-! ### Stages -/

/-- The configured stage with a number, if there is one (R25). -/
def stageOf (count n : Nat) : Option StageId := StageId.all.find? fun k => k.num == n && n ≤ count

/-- The configured stages in order. -/
def State.stageIds (s : State) : List StageId := StageId.all.filter fun k => k.num ≤ s.settings.stageCount

def State.configured (s : State) (k : StageId) : Bool := k.num ≤ s.settings.stageCount

def State.stage (s : State) (k : StageId) : Stage := s.stages.get k

def State.cfg (s : State) (k : StageId) : StageSettings := s.settings.stages.get k

/-- Change one stage record and nothing else. -/
def State.modStage (s : State) (k : StageId) (f : Stage → Stage) : State :=
  { s with stages := s.stages.set k (f (s.stages.get k)) }

/-- R26: the connected field follows the state. -/
def StageState.connected : StageState → Bool
  | .closed | .opening => true
  | .fault .failToOpen => true
  | .fault (.discrepancy fromClosed) => fromClosed
  | _ => false

def Stage.connected (r : Stage) : Bool := r.state.connected

/-- Table 2-2. -/
def StageState.code : StageState → Nat
  | .absent => 0 | .ready => 1 | .discharging => 2 | .closing => 3 | .closed => 4 | .opening => 5
  | .lockout => 6 | .fault _ => 7

def StageState.isFault : StageState → Bool
  | .fault _ => true
  | _ => false

/-- The states of R45 in which a running discrepancy timer goes on from one to another. -/
def StageState.resting : StageState → Bool
  | .ready | .discharging | .lockout => true
  | _ => false

/-- R53: the in-service figure, computed when it is read. -/
def State.figure (s : State) : Nat :=
  (s.stageIds.map fun k => if (s.stage k).connected then (s.cfg k).size else 0).sum

/-- The full discharge time (R55). -/
def State.fullDischarge (s : State) (k : StageId) : Nat := ofSeconds (s.cfg k).dischargeTime

/-- Condition 8 of Table 3-2, the part about breakers. -/
def State.anyMoving (s : State) : Bool :=
  s.stageIds.any fun k => (s.stage k).state == .closing || (s.stage k).state == .opening

def State.anyClosing (s : State) : Bool := s.stageIds.any fun k => (s.stage k).state == .closing

/-! ### Positions (R28) -/

/-- Table 2-3. -/
def derivePosition (closed opened : Bool) : Position :=
  match closed, opened with
  | false, true => .opened
  | true, false => .closed
  | false, false => .transit
  | true, true => .bad

def StageInputs.position (i : StageInputs) : Position := derivePosition i.closed.active i.opened.active

def State.position (s : State) (k : StageId) : Position := (s.inputs.get k).position

/-! ### Ready list and in-service list (R48) -/

/-- A list after a stage's change from one state to another: it leaves the list of the old state and joins
the tail of the list of the new. -/
def relist (here : StageState) (k : StageId) (old new : StageState) (l : List StageId) : List StageId :=
  let l := if old = here then l.filter (· ≠ k) else l
  if new = here then l ++ [k] else l

/-- R45: what a discrepancy timer does at a change of state. -/
def rediscrepancy (old new : StageState) (d : Option Discrepancy) : Option Discrepancy :=
  if old.resting && new.resting then d.map fun x => { x with origin := new } else none

/-- A change of a stage's state: the record, the discrepancy timer (R45), the lists (R48). An operation is
present in CLOSING and OPENING only (Table 2-1). -/
def State.moveStage (s : State) (k : StageId) (new : StageState) : State :=
  let old := (s.stage k).state
  { s.modStage k (fun r => { r with
        state := new
        disc := rediscrepancy old new r.disc
        op := if new = .closing ∨ new = .opening then r.op else none }) with
    ready := relist .ready k old new s.ready
    inService := relist .closed k old new s.inService }

/-! ### Duty lists (R59 to R62) -/

/-- R62: older than the horizon. -/
def pastHorizon (now t : Nat) : Bool := now - t > 86400

/-- R62: entries older than the horizon leave from the head. -/
def pruneDuty (now : Nat) (l : List Nat) : List Nat := l.dropWhile (pastHorizon now)

def State.prune (s : State) (k : StageId) : State :=
  s.modStage k fun r => { r with duty := pruneDuty s.seconds r.duty }

/-- R59: an issued close. -/
def State.addDuty (s : State) (k : StageId) : State :=
  s.modStage k fun r => { r with duty := r.duty ++ [s.seconds] }

/-- R60: an external close: prune, remove the oldest of a full list, add. -/
def recordDuty (limit now : Nat) (l : List Nat) : List Nat :=
  let l := pruneDuty now l
  (if limit ≤ l.length then l.drop 1 else l) ++ [now]

def State.addExternalDuty (s : State) (k : StageId) : State :=
  s.modStage k fun r => { r with duty := recordDuty (s.cfg k).dutyLimit s.seconds r.duty }

/-! ### Discrepancy timer -/

/-- R41 to R46: starts with an origin unless it is running. -/
def State.startDiscrepancy (s : State) (k : StageId) (origin : StageState) : State :=
  s.modStage k fun r => { r with disc := if r.disc.isNone then some ⟨origin, 0⟩ else r.disc }

def State.stopDiscrepancy (s : State) (k : StageId) : State :=
  s.modStage k fun r => { r with disc := none }

/-! ### Phases of the start -/

/-- The Stage Supervisor and the blocks of R195 step 5 are at work. -/
def State.running (s : State) : Bool := s.phase == .running

/-- R196: the fallback flag. -/
def State.fallback (s : State) : Bool := s.phase == .fallback

/-- R27, R200: the Contact Input Unit watches the inputs. -/
def State.watchingInputs (s : State) : Bool :=
  match s.phase with
  | .probing _ | .running => true
  | _ => false

end Sys2Proof.Machine
end

