-- ==== Sys2Proof/Machine/Flags.lean ====
section
/-! DEFINITION. Every flag the part computes: suspension causes, station alarms, the watch set, the status
outputs, the bulletin flags. -/

namespace Sys2Proof.Machine

/-! ### Suspension causes (R74) -/

def CauseSet.put (c : CauseSet) (x : Suspension) (b : Bool) : CauseSet :=
  match x with
  | .manual => { c with manual := b }
  | .blockInput => { c with blockInput := b }
  | .chainActive => { c with chainActive := b }
  | .measLost => { c with measLost := b }
  | .deadLine => { c with deadLine := b }
  | .listenIn => { c with listenIn := b }
  | .fallback => { c with fallback := b }

def CauseSet.has (c : CauseSet) : Suspension → Bool
  | .manual => c.manual
  | .blockInput => c.blockInput
  | .chainActive => c.chainActive
  | .measLost => c.measLost
  | .deadLine => c.deadLine
  | .listenIn => c.listenIn
  | .fallback => c.fallback

def CauseSet.isEmpty (c : CauseSet) : Bool :=
  !(c.manual || c.blockInput || c.chainActive || c.measLost || c.deadLine || c.listenIn || c.fallback)

/-- R76: automatic control is permitted while the suspension-cause set is empty. -/
def State.permitted (s : State) : Bool := s.vc.causes.isEmpty

/-- R75: the withdrawal reason that a suspension cause gives. -/
def Suspension.reason : Suspension → Reason
  | .deadLine => .deadLine
  | .measLost => .measLost
  | _ => .suspended

/-- Table 4-3. -/
def CtlState.code : CtlState → Nat
  | .suspended => 0 | .quiet => 1 | .watching => 2 | .proposing => 3 | .executing => 4

/-! ### Station alarms (R99, R117) -/

/-- R99: set while any slot's alarm flag or the THD alarm flag is set. -/
def Monitor.alarm (m : Monitor) : Bool := m.thdAlarm || m.slots.toList.any SlotAlarm.alarm

def State.harmAlarm (s : State) : Bool := s.hm.alarm

/-- R117: set while the alarm flag of any configured stage is set. -/
def State.unbAlarm (s : State) : Bool := s.stageIds.any fun k => (s.ur.entries.get k).alarm

/-! ### Watch set, resonance (R105, R106, R108) -/

/-- R105: a used slot is under watch when its station magnitude is at or above its watch level. -/
def underWatch (slot : Slot) (h : Nat) : Bool := slot.order.isSome && slot.watch ≤ h

/-- R105, by slot. -/
def State.watch (s : State) : Six Bool := Six.zipWith underWatch s.settings.slots s.store.h

/-- R105: the orders under watch. -/
def State.watchSet (s : State) : List Nat :=
  (Six.zipWith (fun slot h => if underWatch slot h then slot.order else none)
    s.settings.slots s.store.h).toList.filterMap id

/-- R106. -/
def State.qEff (s : State) : Nat :=
  s.figure + (s.pv.entries.map fun e =>
    match e.figure with
    | some q => contribution s.settings.nearReach s.settings.farReach (distance e.position s.settings.position) q
    | none => 0).sum

/-- R108: the present index, and the candidate index of a close. -/
def State.presentIndex (s : State) : Nat := resonanceIndex s.settings.ssc s.qEff

def State.candidateIndex (s : State) (k : StageId) : Nat :=
  resonanceIndex s.settings.ssc (s.qEff + (s.cfg k).size)

/-- R81, R84, R160: within far reach of the own position. -/
def State.withinFar (s : State) (position : Nat) : Bool :=
  distance position s.settings.position ≤ s.settings.farReach

/-! ### Status outputs (R201) -/

def State.alarmDue (s : State) : Bool :=
  s.harmAlarm || s.unbAlarm ||
  (s.stageIds.any fun k => (s.stage k).state == .lockout || (s.stage k).state.isFault) ||
  s.port.lost || s.fallback

def State.healthyDue (s : State) : Bool := !s.fallback && !s.port.lost

/-- R201: the Image Loader re-judges both outputs. -/
def rejudge (s : State) : State := { s with alarm := s.alarmDue, healthy := s.healthyDue }

/-! ### Bulletin flags (Table 9-7) -/

/-- A flag as the value of its bit. -/
def bit (n : Nat) (b : Bool) : Nat := if b then 2 ^ n else 0

/-- R178: the START marker is set when fewer than 8 frames have been sent since start. -/
def State.startMarker (s : State) : Bool := s.lc.framesSent < 8

/-- Table 9-7. -/
def State.bulletinFlags (s : State) : Nat :=
  bit 0 s.startMarker + bit 1 false + bit 2 s.vc.manual + bit 3 (s.vc.state == .suspended) +
  bit 4 s.pv.viewFull + bit 5 s.harmAlarm + bit 6 s.unbAlarm + bit 7 s.port.lost +
  bit 8 s.ix.isolated + bit 9 s.pv.clash.isSome + bit 10 s.block.active +
  bit 11 s.oi.chain.isSome + bit 12 s.vc.deadLine

end Sys2Proof.Machine
end

