-- ==== Sys2Proof/Machine/Operands.lean ====
section
/-! DEFINITION. Every operand form: fields of bytes, frames as they are read (Section 9.8) and the kinds of
records that the frame interpreter tells apart (R176). -/

namespace Sys2Proof.Machine

/-! ### Numbers in bytes -/

/-- The byte at an offset, 0 beyond the end. -/
def byteAt (l : List Byte) (i : Nat) : Nat := (l.getD i 0).toNat

/-- `n` bytes from an offset, high byte first (R184, R198). -/
def field (l : List Byte) (i : Nat) : Nat → Nat
  | 0 => 0
  | n + 1 => byteAt l i * 256 ^ n + field l (i + 1) n

/-- A number of `n` bytes, high byte first. -/
def toBytes (x : Nat) : Nat → List Byte
  | 0 => []
  | n + 1 => BitVec.ofNat 8 (x / 256 ^ n) :: toBytes x n

/-- Two's complement of 24 bits (R187, R198). -/
def signed24 (x : Nat) : Int := if x < 2 ^ 23 then x else (x : Int) - 2 ^ 24

def unsigned24 (x : Int) : Nat := (x % 2 ^ 24).toNat

/-- One bit of a number. -/
def testBit (x i : Nat) : Bool := x / 2 ^ i % 2 = 1

/-! ### Headers (Table 9-5) -/

def isYard (a : Nat) : Bool := 1 ≤ a && a ≤ 0x3E

def isPanel (a : Nat) : Bool := 0x40 ≤ a && a ≤ 0x47

inductive Kind
  | bulletin | intent | outcome | order | detail
  deriving DecidableEq, Repr, Inhabited

def Kind.code : Kind → Nat
  | .bulletin => 0x31 | .intent => 0x32 | .outcome => 0x33 | .order => 0x34 | .detail => 0x35

def kindOf : Nat → Option Kind
  | 0x31 => some .bulletin
  | 0x32 => some .intent
  | 0x33 => some .outcome
  | 0x34 => some .order
  | 0x35 => some .detail
  | _ => none

/-- R176: the permitted body lengths. -/
def lengthFits : Kind → Nat → Bool
  | .bulletin, n => n == 24 || n == 28 || n == 32 || n == 36
  | .intent, n => n == 8
  | .outcome, n => n == 8
  | .order, n => 4 ≤ n && n ≤ 28
  | .detail, n => 20 ≤ n && n ≤ 84

/-- A record that passes R176: its header and its body. -/
structure Frame where
  kind : Kind
  sender : Nat
  dest : Nat
  seq : Nat
  body : List Byte
  deriving DecidableEq, Repr, Inhabited

/-- R176: the judgement of a record by kind, sender and body length; `none` is a format discard. -/
def decodeFrame (bytes : List Byte) : Option Frame :=
  let sender := byteAt bytes 1
  let len := byteAt bytes 4
  match kindOf (byteAt bytes 0) with
  | none => none
  | some kind =>
    if (isYard sender || isPanel sender) && lengthFits kind len then
      some ⟨kind, sender, byteAt bytes 2, byteAt bytes 3, (bytes.drop 5).take len⟩
    else none

/-- R184: where each kind carries the START marker. -/
def Frame.start (f : Frame) : Bool :=
  match f.kind with
  | .bulletin => testBit (field f.body 0 2) 0
  | .intent | .outcome | .order => testBit (byteAt f.body 1) 7
  | .detail => testBit (byteAt f.body 0) 7

/-- R186: direction, bit 3 of the byte. -/
def directionOf (b : Nat) : Direction := if testBit b 3 then .opening else .close

/-- R186: the OUTCOME result, bits 6..4. -/
def resultOf (b : Nat) : Nat := b / 16 % 8

/-! ### Orders (Tables 9-8, 9-9) -/

/-- An ORDER frame's fields. -/
structure Order where
  panel : Nat
  dest : Nat
  tag : Nat
  code : Nat
  stage : Nat
  argLen : Nat
  arg : List Byte
  bodyLen : Nat
  deriving DecidableEq, Repr, Inhabited

def Frame.order (f : Frame) : Order where
  panel := f.sender
  dest := f.dest
  tag := byteAt f.body 0
  code := byteAt f.body 1 % 128
  stage := byteAt f.body 2
  argLen := byteAt f.body 3
  arg := f.body.drop 4
  bodyLen := f.body.length

/-- The steps of a SEQUENCE argument: action, stage, delay in two bytes. -/
def stepsOf : List Byte → List Step
  | a :: k :: d1 :: d0 :: rest =>
    ⟨if a = 0 then .close else .opening, k.toNat, d1.toNat * 256 + d0.toNat⟩ :: stepsOf rest
  | _ => []

/-- R188 step 3: every step has an action of 0 or 1 and a delay of at most 600 s. -/
def stepsFit : List Byte → Bool
  | a :: _ :: d1 :: d0 :: rest => a.toNat ≤ 1 && d1.toNat * 256 + d0.toNat ≤ 600 && stepsFit rest
  | _ => true

/-- R188 step 3: the argument length fits the code. -/
def argLenFits (code a : Nat) : Bool :=
  match code with
  | 1 | 2 | 6 | 7 | 9 => a == 0
  | 3 | 4 | 5 => a == 1
  | 8 => a == 4 || a == 8 || a == 12 || a == 16 || a == 20 || a == 24
  | 10 => a ≤ 1
  | _ => false

/-- R188 step 3: the argument itself. -/
def argFits (code : Nat) (arg : List Byte) : Bool :=
  match code with
  | 3 => byteAt arg 0 ≤ 1
  | 8 => stepsFit arg
  | 10 => byteAt arg 0 ≤ 2
  | _ => true

/-- R188 step 3. A code outside 1..10 fits no argument length. -/
def Order.formOk (o : Order) : Bool :=
  o.bodyLen == 4 + o.argLen && argLenFits o.code o.argLen && argFits o.code o.arg

/-! ### The kinds of records (the rows that take a frame) -/

/-- The row that a record at the head of the ring belongs to. -/
inductive Taken
  | bulletin | outcome | intent | detail | format | frame
  | order (code : Nat)
  | badOrder
  deriving DecidableEq, Repr, Inhabited

def classify (bytes : List Byte) : Taken :=
  match decodeFrame bytes with
  | none => .format
  | some f =>
    if isYard f.sender then
      match f.kind with
      | .bulletin => .bulletin
      | .outcome => .outcome
      | .intent => .intent
      | .detail => .detail
      | .order => .frame
    else
      match f.kind with
      | .order => if 1 ≤ f.order.code && f.order.code ≤ 10 then .order f.order.code else .badOrder
      | _ => .frame

end Sys2Proof.Machine
end

