-- ==== Sys2Proof/Machine/Line.lean ====
section
/-! DEFINITION. The Line Channel (09_the_line_channel.md): CRC, LFSR, slots and their eligibility, access, the
bulletin schedule, frame checks. -/

namespace Sys2Proof.Machine

/-! ### CRC (R174) -/

def crcBit (r : BitVec 16) : BitVec 16 := if r.msb then (r <<< 1) ^^^ 0x1021#16 else r <<< 1

def crcByte (r : BitVec 16) (b : Byte) : BitVec 16 :=
  Nat.repeat crcBit 8 (r ^^^ ((b.setWidth 16) <<< 8))

/-- R174: polynomial x^16 + x^12 + x^5 + 1, preset to ones, most significant bit first, no final inversion. -/
def crc16 (bytes : List Byte) : Nat := (bytes.foldl crcByte 0xFFFF#16).toNat

/-! ### LFSR (R179) -/

def lfsrStep (r : BitVec 16) : BitVec 16 := if r.getLsbD 0 then (r >>> 1) ^^^ 0xB400#16 else r >>> 1

/-- A draw takes four steps. -/
def lfsrDraw (r : BitVec 16) : BitVec 16 := lfsrStep (lfsrStep (lfsrStep (lfsrStep r)))

/-- The deferral drawn: the lowest four bits after the steps. -/
def deferralOf (r : BitVec 16) : Nat := r.toNat % 16

/-- The seed: the station number times 257 (R171). -/
def lfsrSeed (station : Nat) : BitVec 16 := BitVec.ofNat 16 (station * 257)

/-! ### The line clock, in fifths of a bit period (log 18) -/

/-- Fifths of a bit period in one millisecond: 600, 1200, 2400 or 4800 bit/s. -/
def fifthsPerMs (code : Nat) : Nat := 3 * 2 ^ code

/-- R179: r slot times of 12 bit periods. -/
def deferralTime (r : Nat) : Nat := r * 12 * 5

/-- R180: the key-up time plus 10·L + 2 bit periods. -/
def frameTime (c : Settings) (length : Nat) : Nat :=
  c.keyUp * fifthsPerMs c.bitRateCode + (10 * length + 2) * 5

/-- The idle count of 15 bit periods (R173). -/
def idleFull : Nat := 75

/-! ### Slots (R177) -/

/-- R177: eligible while armed, and once 1000 ms have passed since the last bulletin start. -/
def LineChannel.bulletinEligible (l : LineChannel) : Bool := l.armed && l.spacing.isNone

/-- Some slot is eligible. -/
def LineChannel.eligible (l : LineChannel) : Bool :=
  l.intentSlot.isSome || l.outcomeSlot.isSome || l.detailSlot.isSome || l.bulletinEligible

/-! ### Access (R179) -/

/-- R179: carrier detect inactive, no character in progress, the idle count at 15. -/
def State.mediumIdle (s : State) : Bool := !s.carrier && !s.lc.rx.character && s.lc.rx.idle == idleFull

/-- Draw a deferral. -/
def LineChannel.draw (l : LineChannel) : LineChannel :=
  let r := deferralOf (lfsrDraw l.lfsr)
  { l with lfsr := lfsrDraw l.lfsr, access := .deferring r (deferralTime r) }

/-- R179: an attempt begins when a slot is eligible while there is none (drawing at once when the medium is
idle already, a frame that awaits its completion or not, log 38), and ends when no slot is eligible. A deferral that has ended
has won access: what is then sent is judged at the transmission start (R156, R178 step 1; log 21). -/
def refreshAccess (s : State) : State :=
  match s.lc.access with
  | .transmitting _ _ | .deferring _ 0 => s
  | .noAttempt =>
    if s.lc.eligible then
      (if s.mediumIdle then { s with lc := s.lc.draw } else { s with lc.access := .waiting })
    else s
  | .waiting | .deferring _ _ => if s.lc.eligible then s else { s with lc.access := .noAttempt }

/-- R179: a deferral is stopped, and the attempt waits again; one that has ended too, as long as its transmission start has not
been taken (log 43). -/
def LineChannel.stopDeferral (l : LineChannel) : LineChannel :=
  match l.access with
  | .deferring _ _ => { l with access := .waiting }
  | _ => l

/-! ### The bulletin schedule (R181, R182) -/

/-- R181: arming sets the armed mark. -/
def arm (s : State) : State := refreshAccess { s with lc.armed := true }

/-- R182: 100 + 50·(station number mod 8) ms. -/
def triggerTime (station : Nat) : Nat := 100 + 50 * (station % 8)

/-- R182: a bulletin trigger. A Line Channel that has not begun work takes none (R171). -/
def trigger (s : State) : State :=
  if s.lc.working && s.lc.triggerDelay.isNone && !s.lc.armed then
    { s with lc.triggerDelay := some (triggerTime s.settings.station) }
  else s

/-- A trigger when a condition holds. -/
def triggerIf (b : Bool) (s : State) : State := if b then trigger s else s

/-! ### Filling slots -/

/-- R154. -/
def placeIntent (x : IntentContent) (s : State) : State := refreshAccess { s with lc.intentSlot := some x }

/-- R166: a content placed while one waits replaces it. -/
def placeOutcome (x : OutcomeContent) (s : State) : State := refreshAccess { s with lc.outcomeSlot := some x }

/-- R177. -/
def placeDetail (page panel : Nat) (s : State) : State :=
  refreshAccess { s with lc.detailSlot := some (page, panel) }

/-! ### Frame checks (R174, R175) -/

inductive Check
  | noise | framing | long | format | crc | good
  deriving DecidableEq, Repr, Inhabited

/-- Table 9-2, in order. -/
def checkFrame (a : Assembly) : Check :=
  if a.noisy then .noise
  else if a.framing then .framing
  else if 103 < a.count then .long
  else if a.count < 7 then .format
  else if byteAt a.bytes 4 ≠ a.count - 7 then .format
  else if crc16 (a.bytes.take (a.count - 2)) ≠ field a.bytes (a.count - 2) 2 then .crc
  else .good

/-- Table 9-4: each count saturates at its maximum. -/
def Stats.countCheck (st : Stats) : Check → Stats
  | .noise => { st with noise := satInc 255 st.noise }
  | .framing => { st with framing := satInc 255 st.framing }
  | .long => { st with long := satInc 255 st.long }
  | .format => { st with format := satInc 255 st.format }
  | .crc => { st with crc := satInc 65535 st.crc }
  | .good => { st with good := satInc 65535 st.good }

/-- R174, R175: a frame completion. -/
def completeFrame (now : Nat) (a : Assembly) (l : LineChannel) : LineChannel :=
  let st := l.stats.countCheck (checkFrame a)
  let l := { l with rx.frame := none, stats := st }
  if checkFrame a = .good then
    if l.ring.length < 4 then { l with ring := l.ring ++ [⟨now, a.count, a.bytes⟩] }
    else { l with stats.overrun := satInc 255 st.overrun }
  else l

/-- R173: a byte joins the frame, stored up to the 103rd, counted up to 255. -/
def Assembly.addByte (a : Assembly) (b : Byte) : Assembly :=
  { a with bytes := if a.bytes.length < 103 then a.bytes ++ [b] else a.bytes
           count := satInc 255 a.count }

def Assembly.empty : Assembly := ⟨[], 0, false, false⟩

/-- R176: the record at the head is freed. -/
def freeHead (s : State) : State := { s with lc.ring := s.lc.ring.tail }

end Sys2Proof.Machine
end

