-- ==== Sys2Proof/Machine/Control.lean ====
section
/-! DEFINITION. What the Voltage Controller, the Intent Exchange, the Order Interpreter and the Unbalance Relay
do on their own state when another block hands them something: withdrawals, suspension, settles, the
last-order record, stage notices and switching reports. -/

namespace Sys2Proof.Machine

/-! ### Controller states -/

/-- R80: the station settle starts afresh at each entry to QUIET; R79, R87: LOW, HIGH and the unserved
reason are cleared. -/
def enterQuiet (s : State) : State :=
  { s with vc := { s.vc with
      state := .quiet, low := 0, high := 0, unserved := .none
      stationSettle := some (ofSeconds s.settings.stationSettle) } }

/-- R75, R90, R91: entry to SUSPENDED stops the station settle (R80) and is a bulletin trigger. -/
def enterSuspended (s : State) : State :=
  trigger { s with vc := { s.vc with
      state := .suspended, low := 0, high := 0, unserved := .none, stationSettle := none } }

/-- R90: a return to WATCHING keeps the accumulators and holds the withdrawal reason. -/
def returnWatching (reason : Reason) (s : State) : State :=
  { s with vc := { s.vc with state := .watching, unserved := reason } }

/-- Table 4-5 (R90). -/
def afterWithdrawal (reason : Reason) (s : State) : State :=
  match reason with
  | .precedence | .peerSwitched | .channelBusy | .overvoltage => enterQuiet s
  | .deadLine | .measLost | .suspended => enterSuspended s
  | _ => returnWatching reason s

/-! ### The own intent -/

/-- R165: the content from a withdrawal. -/
def withdrawalContent (i : Intent) (reason : Reason) : OutcomeContent where
  number := i.number
  result := .withdrawn
  dir := i.dir
  stage := i.stage
  cause := match i.dir with
    | .close => .autoRaise
    | .opening => .autoLower
  reason := reason

/-- R162 step 1: the INTENT slot is emptied only for an intent QUEUED with its sent mark clear. -/
def unsent (i : Intent) : Bool :=
  match i.phase with
  | .queued false _ => true
  | _ => false

/-- R162, steps 1 to 3: the slot, the intent, the OUTCOME. An attempt for which nothing else waits ends with the
slot's emptying, and the OUTCOME begins a new one with a new draw (R179; log 21). -/
def dropIntent (i : Intent) (reason : Reason) (s : State) : State :=
  placeOutcome (withdrawalContent i reason)
    (refreshAccess { s with
      lc.intentSlot := if unsent i then none else s.lc.intentSlot
      ix.own := none })

/-- R162: a withdrawal of an own intent in QUEUED or HOLDING; it finds nothing otherwise. -/
def withdraw (reason : Reason) (s : State) : State :=
  match s.ix.own with
  | none => s
  | some i =>
    match i.phase with
    | .committed => s
    | _ => afterWithdrawal reason (dropIntent i reason s)

/-- R158: the refusal of the commitment withdraws the intent from COMMITTED. -/
def withdrawCommitted (reason : Reason) (s : State) : State :=
  match s.ix.own with
  | none => s
  | some i => afterWithdrawal reason (dropIntent i reason s)

/-! ### Suspension (R75, R76) -/

/-- R75. -/
def addCause (c : Suspension) (s : State) : State :=
  let s1 := { s with vc.causes := s.vc.causes.put c true }
  if s.vc.causes.isEmpty then
    match s.vc.state with
    | .executing => s1
    | .proposing => enterSuspended (withdraw c.reason s1)
    | _ => enterSuspended s1
  else s1

/-- R76. -/
def removeCause (c : Suspension) (s : State) : State :=
  let s1 := { s with vc.causes := s.vc.causes.put c false }
  if s.vc.causes.has c && s1.vc.causes.isEmpty && s.vc.state == .suspended then trigger (enterQuiet s1) else s1

/-- R74, R190: a MODE that names the mode already set changes nothing. -/
def setMode (manual : Bool) (s : State) : State :=
  if s.vc.manual = manual then s
  else if manual then addCause .manual { s with vc.manual := true }
  else removeCause .manual { s with vc.manual := false }

/-! ### The last-order record (R189) -/

/-- Every write is a bulletin trigger; the settling mark takes what the write gives. -/
def writeOrder (panel tag : Nat) (outcome : OrderOutcome) (detail : Nat) (mark : SettleMark) (s : State) : State :=
  trigger { s with oi.last := ⟨panel, tag, outcome, detail⟩, oi.mark := mark }

/-- R129, R130: the end of a null capture settles the order while the mark awaits it. -/
def captureEnded (c : Capture) (outcome : OrderOutcome) (detail : Nat) (s : State) : State :=
  if s.oi.mark = .capture then writeOrder c.panel c.tag outcome detail .none s else s

/-- The endings of a chain (Table 10-2). -/
inductive ChainEnd
  | done
  | refused (r : Reason)
  | failed
  | stopped
  deriving DecidableEq, Repr, Inhabited

/-- Table 10-2, the outcome. -/
def ChainEnd.outcome : ChainEnd → OrderOutcome
  | .done => .done | .refused _ => .refused | .failed => .stepFailed | .stopped => .stopped

/-- Table 10-2, the detail byte, for a chain at the step of an index. -/
def ChainEnd.detail (index : Nat) : ChainEnd → Nat
  | .done => 0 | .refused r => r.code | .failed | .stopped => index

/-- R71: the reason of a refusal, which DETAIL records with the step index (log 35). -/
def ChainEnd.reason : ChainEnd → Reason
  | .refused r => r
  | _ => .none

/-- R194: a chain ends; the index of its last step is kept for DETAIL, and with it the reason of a refusal (R71). -/
def endChain (c : Chain) (e : ChainEnd) (s : State) : State :=
  removeCause .chainActive
    (writeOrder c.panel c.tag e.outcome (e.detail c.index) .none
      { s with oi.chain := none, oi.stepIndex := c.index, oi.stepReason := e.reason })

/-- The step a chain stands at (R192). -/
def Chain.current (c : Chain) : Option Step := c.steps[c.index - 1]?

/-! ### Switching reports (R51) -/

structure SwitchReport where
  stage : StageId
  dir : Direction
  result : Result
  cause : Cause
  intent : Nat
  deriving DecidableEq, Repr, Inhabited

/-- R165: the content from a switching report. -/
def reportContent (r : SwitchReport) : OutcomeContent where
  number := r.intent
  result := r.result.toOutcome
  dir := r.dir
  stage := r.stage
  cause := r.cause
  reason := .none

/-- R159, R165: the Intent Exchange drops a COMMITTED intent of the stage and composes the OUTCOME. -/
def exchangeReport (r : SwitchReport) (s : State) : State :=
  let own := match s.ix.own with
    | some i => if i.phase = .committed ∧ i.stage = r.stage then none else some i
    | none => none
  placeOutcome (reportContent r) { s with ix.own := own }

/-- R91, R83: the Voltage Controller. -/
def controllerReport (r : SwitchReport) (s : State) : State :=
  match s.vc.state with
  | .executing =>
    match s.vc.ownOp with
    | some o =>
      if o.stage = r.stage then
        let s1 := { s with vc.ownOp := none }
        if s.vc.causes.isEmpty then enterQuiet s1 else enterSuspended s1
      else s
    | none => s
  | .watching => enterQuiet s
  | .quiet => { s with vc.stationSettle := some (ofSeconds s.settings.stationSettle) }
  | _ => s

/-- R191: what a CUT report of an ordered close gives as detail. -/
def cutDetail : Cause → Reason
  | .deadLine => .deadLine
  | .unbTrip | .unbHighset => .lockout
  | c => Config.cutDetail c

/-- R191: the first report naming the stage settles the order. -/
def settleOrder (r : SwitchReport) (s : State) : State :=
  if s.oi.mark = .report r.stage then
    match r.result with
    | .executed => writeOrder s.oi.last.panel s.oi.last.tag .done 0 .none s
    | .failed => writeOrder s.oi.last.panel s.oi.last.tag .failed Reason.fault.code .none s
    | .cut => writeOrder s.oi.last.panel s.oi.last.tag .failed (cutDetail r.cause).code .none s
  else s

/-- R193: a done step that was not the last; the next step's delay starts. -/
def advanceChain (c : Chain) (s : State) : State :=
  let next := c.index + 1
  let delay := match c.steps[c.index]? with
    | some st => st.delay
    | none => 0
  let s1 := { s with oi.chain := some { c with index := next, operating := false, delay := delay } }
  if s.oi.mark = .chain then writeOrder c.panel c.tag .inProgress next .chain s1 else s1

/-- R193: the report of the step in flight. -/
def settleChain (r : SwitchReport) (s : State) : State :=
  match s.oi.chain with
  | none => s
  | some c =>
    match c.current with
    | none => s
    | some st =>
      if c.operating && st.stage == r.stage.num then
        match r.result with
        | .failed => endChain c .failed s
        | _ => if c.index < c.steps.length then advanceChain c s else endChain c .done s
      else s

/-- R51: a report goes to the Intent Exchange, the Voltage Controller and the Order Interpreter. A step whose
delay is 0 is served at the end of the event (log 14). -/
def report (r : SwitchReport) (s : State) : State :=
  settleChain r (settleOrder r (controllerReport r (exchangeReport r s)))

/-! ### The Unbalance Relay -/

def State.modEntry (s : State) (k : StageId) (f : RelayEntry → RelayEntry) : State :=
  { s with ur.entries := s.ur.entries.set k (f (s.ur.entries.get k)) }

/-- R122: an unbalance-alarm notice when the station unbalance alarm has changed since `before`; one that
has changed and changed back hands none (log 41). -/
def unbalanceNotice (before : Bool) (s : State) : State :=
  if s.unbAlarm = before then s else rejudge (trigger s)

/-- R118, entry to CLOSED. -/
def RelayEntry.enterService (blanking : Nat) (e : RelayEntry) : RelayEntry :=
  { e with inService := true, blanking := blanking, alarmCount := 0, tripCount := 0, highCount := 0, tripSent := false }

/-- R118, exit from CLOSED. -/
def RelayEntry.leaveService (e : RelayEntry) : RelayEntry :=
  { e with inService := false, blanking := 0, alarmCount := 0, tripCount := 0, highCount := 0, alarm := false }

/-- R130: a capture record that names the stage is abandoned. -/
def abandonCapture (k : StageId) (s : State) : State :=
  match s.ur.capture with
  | some c =>
    if c.stage = k then captureEnded c .failed Reason.stageChanged.code { s with ur.capture := none } else s
  | none => s

/-- R118: the relay takes a stage notice. -/
def relayNotice (k : StageId) (old new : StageState) (s : State) : State :=
  if old = new then s
  else if new = .closed then s.modEntry k (RelayEntry.enterService (s.cfg k).blanking)
  else if old = .closed then
    unbalanceNotice s.unbAlarm (abandonCapture k (s.modEntry k RelayEntry.leaveService))
  else s

/-! ### Stage notices (R52) -/

/-- R164. -/
def exchangeNotice (k : StageId) (s : State) : State :=
  match s.ix.own with
  | some i => if i.stage = k then withdraw .stageChanged s else s
  | none => s

/-- R52: the Line Channel, the Unbalance Relay, the Intent Exchange, the Image Loader. What the Voltage
Controller does with a notice (R95) follows the Supervisor's own work of the event (log 15). -/
def stageNotice (k : StageId) (old new : StageState) (s : State) : State :=
  rejudge (exchangeNotice k (relayNotice k old new (trigger s)))

/-- A change of a stage's state with its notice. -/
def changeStage (k : StageId) (new : StageState) (s : State) : State :=
  stageNotice k (s.stage k).state new (s.moveStage k new)

end Sys2Proof.Machine
end

