-- ==== Sys2Proof/Machine/Supervisor.lean ====
section
/-! DEFINITION. The Stage Supervisor (02, 03): the close test, the open conditions, issuing, completing and
cutting operations, external position changes, the trip latch, stage reset. -/

namespace Sys2Proof.Machine

/-! ### Close test (R63 to R66) and open conditions (R68) -/

/-- R65: the Voltage Controller's own commitment, by its cause and intent number. -/
def State.ownCommitment (s : State) (cause : Cause) (intent : Nat) : Bool :=
  cause == .autoRaise &&
  (match s.ix.own with
   | some i => i.number == intent
   | none => s.ix.isolated && intent == 0)

/-- R109: the verdict on the resonance guard. -/
def guardVerdict (s : State) (k : StageId) : Option Reason :=
  if s.port.lost then some .measLost
  else if s.watchSet.any fun h => inBand (s.candidateIndex k) h s.settings.guard then some .resonance
  else none

/-- Table 3-2, conditions 2 to 12, on a configured stage. -/
def stageCloseTest (s : State) (k : StageId) (cause : Cause) (intent : Nat) : Option Reason :=
  let r := s.stage k
  match r.state with
  | .absent => some .absent
  | .closed | .closing | .opening => some .already
  | .discharging => some .discharging
  | st =>
    if st = .lockout ∨ r.tripLatch = true then some .lockout
    else if st.isFault then some .fault
    else if (s.inputs.get k).attention.active then some .attention
    else if s.anyMoving || (s.vc.state == .executing && !s.ownCommitment cause intent) then some .busy
    else if s.vc.deadLine then some .deadLine
    else if s.port.lost then some .measLost
    else if (s.cfg k).dutyLimit ≤ r.duty.length then some .duty
    else guardVerdict s k

/-- The close test of Table 3-2 in its order, on a state whose duty list of the stage has been pruned;
`none` is a pass. -/
def closeTest (s : State) (n : Nat) (cause : Cause) (intent : Nat) : Option Reason :=
  match stageOf s.settings.stageCount n with
  | none => if cause = .autoRaise ∧ s.harmAlarm = true then some .harmBlock else some .badStage
  | some k =>
    if cause = .autoRaise ∧ s.blockSet.get k = true then some .blocked
    else if cause = .autoRaise ∧ s.harmAlarm = true then some .harmBlock
    else stageCloseTest s k cause intent

/-- R63: both forms of the test prune the stage's duty list first. -/
def pruneFor (s : State) (n : Nat) : State :=
  match stageOf s.settings.stageCount n with
  | some k => s.prune k
  | none => s

/-- Table 3-4 in its order; `none` is an acceptance. -/
def openRefusal (s : State) (n : Nat) (cause : Cause) : Option Reason :=
  match stageOf s.settings.stageCount n with
  | none => some .badStage
  | some k =>
    let r := s.stage k
    if cause.automaticOpen && s.blockSet.get k then some .blocked
    else if cause.automaticOpen && r.state != .closed then some .stageChanged
    else if r.state = .absent then some .absent
    else if r.state.resting || (r.state.isFault && !r.connected) then some .already
    else none

/-! ### Opens: issue, completion, cut, absorption (R31, R34, R37, R39) -/

/-- R34: the open completes. `timed` is false for a completion at the issue itself (R32). -/
def completeOpen (k : StageId) (op : Operation) (timed : Bool) (s : State) : State :=
  let s1 := s.modStage k fun r => { r with
    openOut := false, pulse := none, window := none
    lastOpen := if timed then max 1 (s.ms - op.start) else r.lastOpen
    discharge := s.fullDischarge k }
  report ⟨k, .opening, .executed, op.cause, op.intent⟩
    (changeStage k (if (s.stage k).tripLatch then .lockout else .discharging) s1)

/-- R31, R32, R40, R43, R57: an open is issued. It completes at once when the breaker already stands open. -/
def issueOpen (k : StageId) (cause : Cause) (intent : Nat) (s : State) : State :=
  let op : Operation := ⟨.opening, cause, intent, s.ms, none⟩
  let there := s.position k == .opened
  let s1 := s.modStage k fun r => { r with
    op := some op, lastCause := cause, disc := none, openOut := !there
    pulse := if there then none else some (s.cfg k).pulseWidth
    window := if there then none else some (s.cfg k).operateWindow
    discharge := if r.state = .lockout then 0 else r.discharge }
  let s2 := changeStage k .opening s1
  if there then completeOpen k op false s2 else s2

/-- R37: the request's number is taken when the operation has none. -/
def takeNumber (op : Operation) (intent : Nat) : Operation :=
  if intent ≠ 0 ∧ op.intent = 0 then { op with intent := intent } else op

/-- R37: an open request cuts a close in flight. -/
def cutClose (k : StageId) (op : Operation) (cause : Cause) (intent : Nat) (s : State) : State :=
  let replaces := op.cut.isNone || cause.protective
  s.modStage k fun r => { r with
    closeOut := false, pulse := none
    op := some (takeNumber (if replaces then { op with cut := some cause } else op) intent)
    lastCause := if replaces then cause else r.lastCause }

/-- R39: an open request on a stage in OPENING is absorbed. -/
def absorbOpen (k : StageId) (op : Operation) (cause : Cause) (intent : Nat) (s : State) : State :=
  s.modStage k fun r => { r with
    op := some (takeNumber (if cause.protective then { op with cause := cause } else op) intent)
    lastCause := if cause.protective then cause else r.lastCause }

/-- What an accepted open does by state (R31, R37, R39, R40). -/
def actOpen (k : StageId) (cause : Cause) (intent : Nat) (s : State) : State :=
  match (s.stage k).state with
  | .closed => issueOpen k cause intent s
  | .closing =>
    match (s.stage k).op with
    | some op => cutClose k op cause intent s
    | none => s
  | .opening =>
    match (s.stage k).op with
    | some op => absorbOpen k op cause intent s
    | none => s
  | .fault _ => if (s.stage k).connected then issueOpen k cause intent s else s
  | _ => s

/-- An open request that is no trip: judged (R68) and acted on. -/
def requestOpen (k : StageId) (cause : Cause) (intent : Nat) (s : State) : State :=
  match openRefusal s k.num cause with
  | some _ => s
  | none => actOpen k cause intent s

/-- R95: a stage has entered CLOSED while a dead line is DECLARED. -/
def deadLineNotice (k : StageId) (s : State) : State :=
  if s.vc.deadLine then requestOpen k .deadLine 0 s else s

/-! ### Closes (R30, R33) -/

/-- R33: the close completes; a cut cause carried opens the stage at once. -/
def completeClose (k : StageId) (op : Operation) (timed : Bool) (s : State) : State :=
  let s1 := s.modStage k fun r => { r with
    closeOut := false, pulse := none, window := none
    lastClose := if timed then max 1 (s.ms - op.start) else r.lastClose
    discharge := 0 }
  let s2 := report ⟨k, .close, .executed, op.cause, op.intent⟩ (changeStage k .closed s1)
  let s3 := match op.cut with
    | some c => issueOpen k c 0 s2
    | none => s2
  deadLineNotice k s3

/-- R30, R32, R59: a close is issued on a READY stage. -/
def issueClose (k : StageId) (cause : Cause) (intent : Nat) (s : State) : State :=
  let op : Operation := ⟨.close, cause, intent, s.ms, none⟩
  let there := s.position k == .closed
  let s1 := (s.addDuty k).modStage k fun r => { r with
    op := some op, lastCause := cause, disc := none, closeOut := !there
    pulse := if there then none else some (s.cfg k).pulseWidth
    window := if there then none else some (s.cfg k).operateWindow }
  let s2 := changeStage k .closing s1
  if there then completeClose k op false s2 else s2

/-! ### External changes (R41 to R43) and the reading of a position (R46) -/

/-- R41: a CLOSED stage found open. -/
def externalOpen (k : StageId) (s : State) : State :=
  let s1 := s.modStage k fun r => { r with lastCause := .extOpen, discharge := s.fullDischarge k, disc := none }
  report ⟨k, .opening, .executed, .extOpen, 0⟩ (changeStage k .discharging s1)

/-- R42: a READY or DISCHARGING stage found closed. -/
def externalClose (k : StageId) (s : State) : State :=
  let cause : Cause := if (s.stage k).state = .ready then .extClose else .extCloseCharged
  let s1 := (s.addExternalDuty k).modStage k fun r => { r with lastCause := cause, discharge := 0, disc := none }
  deadLineNotice k (report ⟨k, .close, .executed, cause, 0⟩ (changeStage k .closed s1))

/-- R43: a LOCKOUT stage found closed is opened at once. -/
def enforceLockout (k : StageId) (s : State) : State :=
  issueOpen k .lockoutEnforce 0 (s.addExternalDuty k)

/-- R46: a stage that has entered READY, DISCHARGING or LOCKOUT takes its present position. -/
def takePosition (k : StageId) (s : State) : State :=
  let st := (s.stage k).state
  if st.resting then
    match s.position k with
    | .closed => if st = .lockout then enforceLockout k s else externalClose k s
    | .transit | .bad => s.startDiscrepancy k st
    | .opened => s
  else s

/-- R41 to R44: a position change handed by the Contact Input Unit. -/
def positionChange (k : StageId) (p : Position) (s : State) : State :=
  let r := s.stage k
  match r.state with
  | .closed =>
    match p with
    | .opened => externalOpen k s
    | .closed => s.stopDiscrepancy k
    | .transit | .bad => s.startDiscrepancy k .closed
  | .ready | .discharging =>
    match p with
    | .closed => externalClose k s
    | .opened => s.stopDiscrepancy k
    | .transit | .bad => s.startDiscrepancy k r.state
  | .lockout =>
    match p with
    | .closed => enforceLockout k s
    | .opened => s.stopDiscrepancy k
    | .transit | .bad => s.startDiscrepancy k .lockout
  | .closing =>
    match r.op with
    | some op => if p = .closed then completeClose k op true s else s
    | none => s
  | .opening =>
    match r.op with
    | some op => if p = .opened then completeOpen k op true s else s
    | none => s
  | .fault _ | .absent => s

/-! ### Trips (R47) -/

/-- R47, what a trip request does on a stage that the open conditions refuse. -/
def tripRefused (k : StageId) (cause : Cause) (s : State) : State :=
  match (s.stage k).state with
  | .ready | .discharging =>
    takePosition k (changeStage k .lockout (s.modStage k fun r => { r with lastCause := cause }))
  | .fault _ => s.modStage k fun r => { r with lastCause := cause }
  | _ => s

/-- R47: a trip request sets the latch of a stage that is not ABSENT and then acts by state. -/
def requestTrip (k : StageId) (cause : Cause) (s : State) : State :=
  if (s.stage k).state = .absent ∨ s.configured k = false then s
  else
    let s1 := s.modStage k fun r => { r with tripLatch := true }
    match openRefusal s1 k.num cause with
    | some _ => tripRefused k cause s1
    | none => actOpen k cause 0 s1

/-! ### Expiries -/

/-- R32: the pulse timer turns the command output off. -/
def endPulse (k : StageId) (s : State) : State :=
  if (s.stage k).pulse.isSome then
    s.modStage k fun r => { r with closeOut := false, openOut := false, pulse := none }
  else s

/-- R35, R38. -/
def closeWindow (k : StageId) (s : State) : State :=
  let r := s.stage k
  match r.state, r.op with
  | .closing, some op =>
    let s1 := s.modStage k fun r => { r with
      closeOut := false, pulse := none, window := none, discharge := s.fullDischarge k }
    match op.cut with
    | none => report ⟨k, .close, .failed, op.cause, op.intent⟩ (changeStage k (.fault .failToClose) s1)
    | some c =>
      let s2 := s1.modStage k fun r => { r with lastCause := c }
      takePosition k (report ⟨k, .close, .cut, c, op.intent⟩ (changeStage k .discharging s2))
  | _, _ => s

/-- R36. -/
def openWindow (k : StageId) (s : State) : State :=
  let r := s.stage k
  match r.state, r.op with
  | .opening, some op =>
    let s1 := s.modStage k fun r => { r with openOut := false, pulse := none, window := none }
    report ⟨k, .opening, .failed, op.cause, op.intent⟩ (changeStage k (.fault .failToOpen) s1)
  | _, _ => s

/-- R45. No switching report is produced. -/
def expireDiscrepancy (k : StageId) (s : State) : State :=
  let r := s.stage k
  match r.disc with
  | none => s
  | some d =>
    if r.state.resting || r.state == .closed then
      changeStage k (.fault (.discrepancy (d.origin == .closed))) s
    else s

/-- R56: a countdown that runs reaches 0. It runs in DISCHARGING, LOCKOUT and FAULT alone. -/
def endDischarge (k : StageId) (s : State) : State :=
  let s1 := s.modStage k fun r => { r with discharge := 0 }
  match (s.stage k).state with
  | .discharging => takePosition k (changeStage k .ready s1)
  | .lockout | .fault _ => s1
  | _ => s

/-! ### Stage reset (R69, R70) -/

/-- R69, in order. -/
def resetRefusal (s : State) (n : Nat) : Option Reason :=
  match stageOf s.settings.stageCount n with
  | none => some .badStage
  | some k =>
    match (s.stage k).state with
    | .absent => some .absent
    | .lockout | .fault _ => none
    | _ => some .already

/-- R70, steps 1 to 5. -/
def resetStage (k : StageId) (s : State) : State :=
  let left := if (s.stage k).connected then s.fullDischarge k else (s.stage k).discharge
  let s1 := s.modStage k fun r => { r with tripLatch := false, discharge := left }
  takePosition k (changeStage k (if left = 0 then .ready else .discharging) s1)

end Sys2Proof.Machine
end

