-- ==== Sys2Proof/Machine/Peers.lean ====
section
/-! DEFINITION. The Peer View (07_the_peer_view.md): number clash, sequence tracking, peer entries, heard intents,
the panel duplicate table; and what an arriving OUTCOME or INTENT does to the controller and the own intent. -/

namespace Sys2Proof.Machine

/-! ### Number clash (R135) -/

def numberClash (s : State) : State :=
  triggerIf s.pv.clash.isNone
    { s with
      pv.clash := some ((s.seconds + 60) % 2 ^ 32)
      lc.stats := { s.lc.stats with clash := satInc 255 s.lc.stats.clash } }

/-! ### Sequence tracking (R136 to R138) -/

/-- 00_scope 0.7: a difference of sequence numbers is taken modulo 256. -/
def seqDiff (received last : Nat) : Nat := (received + 256 - last % 256) % 256

/-- R136: 1..128 is new; 0 is a duplicate and 129..255 out of date. -/
def isNew (diff : Nat) : Bool := 1 ≤ diff && diff ≤ 128

def findPeer (n : Nat) (l : List Peer) : Option Peer := l.find? fun e => e.station == n

/-- Change the entry of a station, if it holds one. -/
def updatePeer (n : Nat) (f : Peer → Peer) (l : List Peer) : List Peer :=
  l.map fun e => if e.station = n then f e else e

def State.modPeer (s : State) (n : Nat) (f : Peer → Peer) : State :=
  { s with pv.entries := updatePeer n f s.pv.entries }

/-- R137, R149: a START frame removes its sender's heard-intent record, unless it is an INTENT. -/
def removeHeard (n : Nat) (s : State) : State :=
  { s with pv.heard := s.pv.heard.filter fun h => h.sender ≠ n }

/-- R136: the missed count grows by the frames missed and saturates at 255. -/
def Peer.track (e : Peer) (seq : Nat) : Peer :=
  { e with lastSeq := seq, missed := min 255 (e.missed + (seqDiff seq e.lastSeq - 1)) }

/-- R134 steps 1 and 2 for a frame from a yard: the state after, and whether the frame is accepted. -/
def judgeYard (f : Frame) (s : State) : State × Bool :=
  if f.sender = s.settings.station then (numberClash s, false)
  else
    let s1 := if f.start && f.kind != .intent then removeHeard f.sender s else s
    match findPeer f.sender s.pv.entries with
    | none => (s1, true)
    | some e =>
      if f.start then (s1.modPeer f.sender fun e => { e with lastSeq := f.seq, missed := 0 }, true)
      else if isNew (seqDiff f.seq e.lastSeq) then (s.modPeer f.sender fun e => e.track f.seq, true)
      else (s, false)

/-- R138: a frame from a panel, by the panel duplicate table. -/
def judgePanel (f : Frame) (s : State) : State × Bool :=
  let i := f.sender - 0x40
  let rec0 := s.pv.panels.getD i ⟨false, 0⟩
  if !rec0.valid || f.start || isNew (seqDiff f.seq rec0.lastSeq) then
    ({ s with pv.panels := s.pv.panels.set i ⟨true, f.seq⟩ }, true)
  else (s, false)

/-! ### Peer entries (R139 to R145) -/

/-- R140: an in-service figure above 2000 is unknown. -/
def figureOf (x : Nat) : Option Nat := if x ≤ 2000 then some x else none

/-- R141: the STALE entry with the greatest age, the lower station number among equals. -/
def oldestStale (l : List Peer) : Option Peer :=
  (l.filter Peer.stale).foldl (fun best e =>
    match best with
    | none => some e
    | some b =>
      if b.ageMs / 100 < e.ageMs / 100 ∨ (b.ageMs / 100 = e.ageMs / 100 ∧ e.station < b.station) then some e
      else some b) none

def removePeer (n : Nat) (l : List Peer) : List Peer := l.filter fun e => e.station ≠ n

/-- R140, R141: a newcomer is entered in a free place or in that of the oldest STALE entry; otherwise
VIEW_FULL is set. A removal clears VIEW_FULL. -/
def enterPeer (e : Peer) (s : State) : State :=
  if s.pv.entries.length < 12 then { s with pv.entries := s.pv.entries ++ [e] }
  else
    match oldestStale s.pv.entries with
    | some old =>
      { s with pv.entries := removePeer old.station s.pv.entries ++ [e], pv.viewFull := false }
    | none => { s with pv.viewFull := true }

/-- R142, R143, R144: an accepted frame sets the age to 0 and the freshness to FRESH. R145: the age's
tenth-second phase restarts with it (`ageMs` holds both), also for a step of the same moment (log 44). -/
def Peer.fresh (e : Peer) : Peer := { e with ageMs := 0, stale := false }

/-- R140, R142: an accepted BULLETIN updates or creates the entry. -/
def takeBulletin (f : Frame) (s : State) : State :=
  let period := clamp 4 60 (byteAt f.body 2)
  let position := field f.body 3 2
  let figure := figureOf (field f.body 8 2)
  match findPeer f.sender s.pv.entries with
  | some _ => s.modPeer f.sender fun e => { e.fresh with position := position, period := period, figure := figure }
  | none => enterPeer ⟨f.sender, position, period, figure, f.seq, 0, 0, false⟩ s

/-- R140, R143: an accepted OUTCOME updates or creates the entry; a new one takes the own bulletin period. -/
def entryOutcome (f : Frame) (s : State) : State :=
  let figure := figureOf (field f.body 4 2)
  let position := field f.body 6 2
  match findPeer f.sender s.pv.entries with
  | some _ => s.modPeer f.sender fun e => { e.fresh with position := position, figure := figure }
  | none => enterPeer ⟨f.sender, position, s.settings.period, figure, f.seq, 0, 0, false⟩ s

/-- R147: a nonzero intent number ends the record of that sender and number. -/
def settleHeard (sender number : Nat) (s : State) : State :=
  if number = 0 then s
  else { s with pv.heard := s.pv.heard.filter fun h => !(h.sender == sender && h.number == number) }

/-- R81: an accepted OUTCOME at the Voltage Controller. -/
def peerOutcome (result : Nat) (dir : Direction) (position : Nat) (s : State) : State :=
  if result = OutcomeResult.executed.code ∧ s.withinFar position = true then
    let s1 := { s with vc.peerSettle := some (ofSeconds s.settings.peerSettle) }
    match s.vc.state with
    | .watching => enterQuiet s1
    | .proposing =>
      match s.ix.own with
      | some i => if i.dir = dir then withdraw .peerSwitched s1 else s1
      | none => s1
    | _ => s1
  else s

/-- R143, R147, R81. -/
def takeOutcome (f : Frame) (s : State) : State :=
  let b := byteAt f.body 1
  peerOutcome (resultOf b) (directionOf b) (field f.body 6 2)
    (settleHeard f.sender (byteAt f.body 0) (entryOutcome f s))

/-! ### Intents (R144, R146, R160) -/

/-- R146: lifetime, twice the hold-off plus 50 tenth-seconds. -/
def lifetime (holdOff : Nat) : Nat := ofTenths (2 * holdOff + 50)

/-- R146: the new record goes to the tail; the sender's old one, or the oldest of a full list, leaves. -/
def recordIntent (h : Heard) (l : List Heard) : List Heard :=
  let kept := l.filter fun x => x.sender ≠ h.sender
  (if kept.length = l.length ∧ 4 ≤ l.length then kept.drop 1 else kept) ++ [h]

/-- R160: precedence over the own intent. -/
def State.hasPrecedence (s : State) (sender position : Nat) : Bool :=
  s.settings.position < position ||
  (position == s.settings.position && s.settings.station < sender)

/-- R160. -/
def judgePrecedence (h : Heard) (s : State) : State :=
  match s.ix.own with
  | none => s
  | some i =>
    if i.dir = h.dir ∧ s.withinFar h.position = true ∧ s.hasPrecedence h.sender h.position = true
    then withdraw .precedence s else s

def heardOf (f : Frame) (now : Nat) : Heard :=
  let b := byteAt f.body 1
  let holdOff := clamp 10 100 (field f.body 6 2)
  { sender := f.sender, position := field f.body 4 2, dir := directionOf b, number := byteAt f.body 0
    holdOff := holdOff, arrival := now, left := lifetime holdOff }

/-- R144, R146, R160: an accepted INTENT. -/
def takeIntent (f : Frame) (s : State) : State :=
  let h := heardOf f s.tenths
  let s1 := s.modPeer f.sender fun e => { e.fresh with position := h.position }
  if h.number = 0 then s1
  else judgePrecedence h { s1 with pv.heard := recordIntent h s1.pv.heard }

/-- R144: an accepted DETAIL refreshes an entry that exists. -/
def takeDetail (f : Frame) (s : State) : State := s.modPeer f.sender Peer.fresh

end Sys2Proof.Machine
end

