-- ==== Sys2Proof/Machine/Orders.lean ====
section
/-! DEFINITION. The Order Interpreter (10_orders_and_sequences.md): judging an order, serving it, chains; and the
frame interpreter's taking of the record at the head of the ring (R175, R176). -/

namespace Sys2Proof.Machine

/-! ### Judging an order (R188) -/

/-- R188 step 1. -/
def State.addressed (s : State) (dest : Nat) : Bool :=
  dest == s.settings.station || s.settings.group == some dest || dest == 0xFF

/-- R188 step 2. -/
def State.panelPermitted (s : State) (panel : Nat) : Bool := s.settings.panelMask.getLsbD (panel - 0x40)

/-- A refusal (R189). -/
def refuseOrder (o : Order) (reason : Reason) (s : State) : State :=
  writeOrder o.panel o.tag .refused reason.code .none s

/-- R188: address, permission, form, effect; the first step that settles the frame ends the matter. -/
def judgeOrder (o : Order) (serve : Order → State → State) (s : State) : State :=
  if s.addressed o.dest then
    if s.panelPermitted o.panel then
      if o.formOk then serve o s else refuseOrder o .badOrder s
    else refuseOrder o .notPermitted s
  else s

/-! ### Switching requests (R191, R193) -/

/-- R191 step 3, for a CLOSE and for an OPEN of a stage number. -/
def State.orderBusy (s : State) (dir : Direction) (n : Nat) : Bool :=
  match dir with
  | .close => s.vc.state == .executing || s.anyMoving
  | .opening =>
    s.anyClosing ||
    (match stageOf s.settings.stageCount n with
     | some k => (s.stage k).state == .opening
     | none => false)

/-- R191 step 4: the judgement at the Stage Supervisor, on a state pruned for a close. -/
def requestRefusal (s : State) (dir : Direction) (n : Nat) (cause : Cause) : Option Reason :=
  match dir with
  | .close => closeTest s n cause 0
  | .opening => openRefusal s n cause

/-- R63: a close request prunes before the test. -/
def pruneRequest (s : State) (dir : Direction) (n : Nat) : State :=
  match dir with
  | .close => pruneFor s n
  | .opening => s

/-- The act of an accepted request. -/
def actRequest (dir : Direction) (k : StageId) (cause : Cause) (s : State) : State :=
  match dir with
  | .close => issueClose k cause 0 s
  | .opening => actOpen k cause 0 s

/-- R191 steps 3 and 4, R193: busy, then the request; `refused` takes a reason, `accepted` is what is
recorded before the request acts. -/
def serveSwitch (dir : Direction) (n : Nat) (cause : Cause) (refused : Reason → State → State)
    (accepted : StageId → State → State) (s : State) : State :=
  if s.orderBusy dir n then refused .busy s
  else
    let s1 := pruneRequest s dir n
    match requestRefusal s1 dir n cause with
    | some r => refused r s1
    | none =>
      match stageOf s1.settings.stageCount n with
      | some k => actRequest dir k cause (accepted k s1)
      | none => s1

/-- R191: a CLOSE or OPEN order. -/
def serveOrderSwitch (dir : Direction) (o : Order) (s : State) : State :=
  if s.oi.chain.isSome then refuseOrder o .busy s
  else
    let s1 := if s.vc.state = .proposing then withdraw .order s else s
    serveSwitch dir o.stage .order (refuseOrder o)
      (fun k => writeOrder o.panel o.tag .inProgress 0 (.report k)) s1

/-! ### Chains (R192 to R194) -/

/-- R193: the current step of a WAITING chain is served. -/
def serveStep (s : State) : State :=
  match s.oi.chain with
  | none => s
  | some c =>
    match c.current with
    | none => s
    | some st =>
      if c.operating then s
      else
        serveSwitch st.dir st.stage .sequence (fun r => endChain c (.refused r))
          (fun _ s => { s with oi.chain := some { c with operating := true } }) s

/-- A chain is WAITING with no delay left. -/
def State.stepDue (s : State) : Bool :=
  match s.oi.chain with
  | some c => !c.operating && c.delay == 0
  | none => false

/-- R192: a delay of 0 serves the step at the event that set it (log 14): a chain has at most six steps. -/
def serveDue : Nat → State → State
  | 0, s => s
  | n + 1, s => if s.stepDue then serveDue n (serveStep s) else s

/-- The end of an event in which a chain may have come to a step whose delay is 0, or may have stood at one that a tick
counted down: whichever event of the moment runs this first serves the step, before the events that follow it (log 14). -/
def settleDue (s : State) : State := serveDue 6 s

/-- R194: the dead-line notice ends a chain. -/
def chainDeadLine (s : State) : State :=
  match s.oi.chain with
  | some c => endChain c (.refused .deadLine) s
  | none => s

/-- R192. -/
def serveSequence (o : Order) (s : State) : State :=
  if s.oi.chain.isSome then refuseOrder o .busy s
  else
    let steps := stepsOf (o.arg.take o.argLen)
    let delay := match steps with
      | st :: _ => st.delay
      | [] => 0
    let c : Chain := ⟨steps, 1, false, delay, o.panel, o.tag⟩
    writeOrder o.panel o.tag .inProgress 1 .chain (addCause .chainActive { s with oi.chain := some c })

/-- R194. -/
def serveStop (o : Order) (s : State) : State :=
  match s.oi.chain with
  | some c => endChain c .stopped s
  | none => refuseOrder o .already s

/-! ### Single orders (R190) -/

def doneOrder (o : Order) (detail : Nat) (s : State) : State := writeOrder o.panel o.tag .done detail .none s

def serveMode (o : Order) (s : State) : State := doneOrder o 0 (setMode (byteAt o.arg 0 == 1) s)

/-- R50: the named stages join or leave the block set; numbers above the stage count are ignored. -/
def maskBlock (s : State) (mask : Nat) (member : Bool) : State :=
  { s with blockSet := .ofFn fun k =>
      if testBit mask (k.num - 1) && s.configured k then member else s.blockSet.get k }

def serveBlock (member : Bool) (o : Order) (s : State) : State :=
  doneOrder o 0 (maskBlock s (byteAt o.arg 0) member)

/-- R69, R70. -/
def serveReset (o : Order) (s : State) : State :=
  match resetRefusal s o.stage with
  | some r => refuseOrder o r s
  | none =>
    match stageOf s.settings.stageCount o.stage with
    | some k => doneOrder o 0 (resetStage k s)
    | none => s

/-- R128, in order. -/
def captureRefusal (s : State) (n : Nat) : Option Reason :=
  match stageOf s.settings.stageCount n with
  | none => some .badStage
  | some k =>
    if (match s.ur.capture with | some c => c.stage != k | none => false) then some .busy
    else if !(s.ur.entries.get k).inService || 0 < (s.ur.entries.get k).blanking then some .notClosed
    else none

/-- R128. -/
def serveCapture (o : Order) (s : State) : State :=
  match captureRefusal s o.stage with
  | some r => refuseOrder o r s
  | none =>
    match stageOf s.settings.stageCount o.stage with
    | some k =>
      writeOrder o.panel o.tag .inProgress 0 .capture
        { s with ur.capture := some ⟨k, 0, 0, 0, o.panel, o.tag⟩ }
    | none => s

/-- R190: the page is that of the argument, 0 when there is none. -/
def serveReport (o : Order) (s : State) : State :=
  let page := if o.argLen = 0 then 0 else byteAt o.arg 0
  doneOrder o page (placeDetail page o.panel s)

/-! ### The frame interpreter -/

/-- The record at the head of the ring, when it is of the row asked for. -/
def State.head (s : State) (want : Taken) : Option Frame :=
  match s.lc.ring with
  | [] => none
  | r :: _ => if classify r.bytes = want then decodeFrame r.bytes else none

/-- R175: the interpreter acts on the record at the head and frees it. A row whose record is not at the head
is no event (log 7). -/
def takeHead (want : Taken) (act : Frame → State → State) (s : State) : State :=
  match s.head want with
  | some f => freeHead (act f s)
  | none => s

/-- R134: a frame from a yard is judged; an accepted one is taken by its kind. -/
def takeYard (take : Frame → State → State) (f : Frame) (s : State) : State :=
  match judgeYard f s with
  | (s1, true) => take f s1
  | (s1, false) => s1

/-- R134, R138: a frame from a panel is judged; an accepted ORDER goes to the Order Interpreter. -/
def takePanel (serve : Order → State → State) (f : Frame) (s : State) : State :=
  match judgePanel f s with
  | (s1, true) => judgeOrder f.order serve s1
  | (s1, false) => s1

/-- One of the ten orders. -/
def takeOrder (code : Nat) (serve : Order → State → State) (s : State) : State :=
  takeHead (.order code) (takePanel serve) s

end Sys2Proof.Machine
end

