-- ==== Sys2Proof/Machine/Breakers.lean ====
section
/-! DEFINITION. The commands of the Contact Input Unit and of the Stage Supervisor's timers (02, 03):
CONTACT_CHANGE, PULSE_END, the window expiries, DISCREPANCY_EXPIRY, DISCHARGE_END, MINUTE_PRUNING. -/

namespace Sys2Proof.Machine

/-! ### Inputs (R27, R28) -/

/-- The inputs of a stage. -/
inductive Contact
  | closed | opened | attention
  deriving DecidableEq, Repr, Inhabited

def StageInputs.contact (i : StageInputs) : Contact → Debounced
  | .closed => i.closed | .opened => i.opened | .attention => i.attention

/-- The bit of a stage's input in the image's order (Table 11-2, offset 20). -/
def inputBit (k : StageId) : Contact → Nat
  | .closed => 3 * (k.num - 1) | .opened => 3 * (k.num - 1) + 1 | .attention => 3 * (k.num - 1) + 2

/-- The BLOCK input's bit. -/
def blockBit : Nat := 12

/-- R27: the input takes the reading's value, and the run count returns to 0. -/
def Debounced.flipIf (b : Bool) (d : Debounced) : Debounced := if b then ⟨!d.active, 0⟩ else d

/-- The inputs that change: those that are read are the configured stages' and BLOCK. -/
def State.changes (s : State) (changed : BitVec 13) (k : StageId) (c : Contact) : Bool :=
  s.configured k && changed.getLsbD (inputBit k c)

/-- One bit of the raw levels. -/
def setPin (pins : BitVec 13) (i : Nat) (level : Bool) : BitVec 13 :=
  if level then pins ||| (1#13 <<< i) else pins &&& ~~~(1#13 <<< i)

/-- A changed input's raw level stands where it reads as the new state, by its sense flag (log 6). -/
def settlePin (sense : BitVec 13) (i : Nat) (changes : Bool) (d : Debounced) (pins : BitVec 13) : BitVec 13 :=
  if changes then setPin pins i ((!d.active) != sense.getLsbD i) else pins

/-- The raw levels after a contact change. -/
def State.pinsAfter (s : State) (changed : BitVec 13) : BitVec 13 :=
  let stagePins := StageId.all.foldl (fun acc k =>
    [Contact.closed, .opened, .attention].foldl (fun acc c =>
      settlePin s.settings.sense (inputBit k c) (s.changes changed k c) ((s.inputs.get k).contact c) acc) acc) s.pins
  settlePin s.settings.sense blockBit (changed.getLsbD blockBit) s.block stagePins

/-- The three inputs of a stage after a change; `probing` records an active position contact (R200). -/
def StageInputs.change (c o a probing : Bool) (i : StageInputs) : StageInputs :=
  let closed := i.closed.flipIf c
  let opened := i.opened.flipIf o
  { closed := closed, opened := opened, attention := i.attention.flipIf a
    seen := i.seen || (probing && (closed.active || opened.active)) }

def State.probing (s : State) : Bool :=
  match s.phase with
  | .probing _ => true
  | _ => false

/-- R27: every changed input takes its new state, before any position is derived (R28). -/
def takeInputs (changed : BitVec 13) (s : State) : State :=
  { s with
    pins := s.pinsAfter changed
    inputs := .ofFn fun k =>
      (s.inputs.get k).change (s.changes changed k .closed) (s.changes changed k .opened)
        (s.changes changed k .attention) s.probing
    block := s.block.flipIf (changed.getLsbD blockBit) }

/-! ### Contact changes -/

/-- R28, R44: a changed position is handed to the Stage Supervisor. -/
def handPosition (before : Position) (k : StageId) (s : State) : State :=
  if s.position k = before then s else positionChange k (s.position k) s

/-- R28, R25: the positions that changed, in stage order (log 31). Until the probe ends none is handed. -/
def handPositions (before : State) (s : State) : State :=
  if s.running then s.stageIds.foldl (fun acc k => handPosition (before.position k) k acc) s else s

/-- R74: the debounced BLOCK input at the Voltage Controller. -/
def handBlock (s : State) : State :=
  if s.block.active then addCause .blockInput s else removeCause .blockInput s

/-- R27, R28, R29: the inputs whose run count reaches 10 at one tick. -/
def contactChange (changed : BitVec 13) (s : State) : State :=
  let s1 := handPositions s (takeInputs changed s)
  if changed.getLsbD blockBit then handBlock s1 else s1

/-- CONTACT_CHANGE (R27). -/
def execContactChange (changed : BitVec 13) (s : State) : Host.Outcome State Fault Refusal :=
  .next (if s.watchingInputs then settleDue (contactChange changed s) else s)

/-! ### The Stage Supervisor's timers -/

/-- PULSE_END (R32). -/
def execPulseEnd (k : StageId) (s : State) : Host.Outcome State Fault Refusal :=
  .next (endPulse k s)

/-- CLOSE_WINDOW_EXPIRY (R35, R38). -/
def execCloseWindowExpiry (k : StageId) (s : State) : Host.Outcome State Fault Refusal :=
  .next (settleDue (closeWindow k s))

/-- OPEN_WINDOW_EXPIRY (R36). -/
def execOpenWindowExpiry (k : StageId) (s : State) : Host.Outcome State Fault Refusal :=
  .next (settleDue (openWindow k s))

/-- DISCREPANCY_EXPIRY (R45). -/
def execDiscrepancyExpiry (k : StageId) (s : State) : Host.Outcome State Fault Refusal :=
  .next (expireDiscrepancy k s)

/-- DISCHARGE_END (R56). -/
def execDischargeEnd (k : StageId) (s : State) : Host.Outcome State Fault Refusal :=
  .next (settleDue (endDischarge k s))

/-- MINUTE_PRUNING (R62): every configured stage's duty list is pruned. -/
def execMinutePruning (s : State) : Host.Outcome State Fault Refusal :=
  .next (s.stageIds.foldl (fun acc k => acc.prune k) s)

end Sys2Proof.Machine
end

