-- ==== Sys2Proof/Machine/Compose.lean ====
section
/-! DEFINITION. The frames the part sends (R178, R184 to R187), composed at their transmission start from the
state then standing. -/

namespace Sys2Proof.Machine

/-! ### Bodies -/

/-- R186: the direction bit. -/
def dirBit (d : Direction) : Nat := 8 * d.code

/-- Table 9-8. -/
def intentBody (marker : Bool) (x : IntentContent) : List Byte :=
  toBytes x.number 1 ++ toBytes (bit 7 marker + dirBit x.dir + x.stage.num) 1 ++ toBytes x.size 2 ++
  toBytes x.position 2 ++ toBytes x.holdOff 2

/-- Table 9-8; the in-service figure and the position are those of the transmission start (R167). -/
def outcomeBody (marker : Bool) (figure position : Nat) (x : OutcomeContent) : List Byte :=
  toBytes x.number 1 ++ toBytes (bit 7 marker + 16 * x.result.code + dirBit x.dir + x.stage.num) 1 ++
  toBytes x.cause.code 1 ++ toBytes x.reason.code 1 ++ toBytes figure 2 ++ toBytes position 2

/-- Table 9-6, the four bytes of a stage. -/
def bulletinStage (r : Stage) : List Byte :=
  toBytes r.state.code 1 ++ toBytes r.lastCause.code 1 ++ toBytes (secondsUp (tenthsLeft r.discharge)) 2

/-- R168: the number of the own intent, 0 when there is none. -/
def State.intentNumber (s : State) : Nat :=
  match s.ix.own with
  | some i => i.number
  | none => 0

/-- Table 9-6. -/
def bulletinBody (s : State) : List Byte :=
  toBytes s.bulletinFlags 2 ++ toBytes s.settings.period 1 ++ toBytes s.settings.position 2 ++
  toBytes s.vc.state.code 1 ++ toBytes s.store.vctl 2 ++ toBytes s.figure 2 ++ toBytes s.presentIndex 1 ++
  toBytes s.store.thd 2 ++ toBytes s.vc.unserved.code 1 ++ toBytes s.intentNumber 1 ++
  toBytes s.oi.last.panel 1 ++ toBytes s.oi.last.tag 1 ++ toBytes s.oi.last.outcome.code 1 ++
  toBytes s.oi.last.detail 1 ++ toBytes s.settings.stageCount 1 ++
  s.stageIds.flatMap fun k => bulletinStage (s.stage k)

/-! ### DETAIL (R187) -/

/-- R71, Table 10-1: the reason code in the detail byte of the last-order record; 0 where that byte is no reason code. -/
def LastOrder.reasonCode (l : LastOrder) : Nat :=
  match l.outcome with
  | .refused | .failed => l.detail % 256
  | _ => 0

/-- R71: the reason codes that are reported, none of them 0: the unserved reason, the reason of an OUTCOME that waits, and that of the
last-order record. -/
def State.reasonCodes (s : State) : List Nat :=
  [s.vc.unserved.code, (match s.lc.outcomeSlot with | some x => x.reason.code | none => 0), s.oi.last.reasonCode].filter (· ≠ 0)

/-- R71: the reason code that DETAIL records while no chain is present: with the step index of a chain that ended REFUSED its
reason; else a code that is reported, of several an unknown one; 0 when none is (log 35). -/
def State.recordedCode (s : State) : Nat :=
  match s.oi.stepReason, s.reasonCodes with
  | .none, [] => 0
  | .none, [c] => c
  | .none, cs => cs.getD (Config.detailChoice s.ms cs % cs.length) 0
  | r, _ => r.code

/-- Byte 0 of the station part (R187): the page and the START marker; the other bits are 0 (R184). -/
def pageByte (s : State) (page : Nat) : List Byte := toBytes (bit 7 s.startMarker + page % 4) 1

/-- A stage list field: four 4-bit stage numbers from the head. -/
def stageList (l : List StageId) : List Byte :=
  let n (i : Nat) : Nat := (l.map StageId.num).getD i 0
  toBytes (n 0 * 4096 + n 1 * 256 + n 2 * 16 + n 3) 2

/-- Table 9-10, byte 1. -/
def causeBits (c : CauseSet) : Nat :=
  bit 0 c.manual + bit 1 c.blockInput + bit 2 c.chainActive + bit 3 c.measLost + bit 4 c.deadLine + bit 5 c.listenIn

def stageMask (f : Four Bool) : Nat := bit 0 f.k1 + bit 1 f.k2 + bit 2 f.k3 + bit 3 f.k4

def IntentPhase.code : IntentPhase → Nat
  | .queued _ _ => 1 | .holding _ => 2 | .committed => 3

/-- Table 9-10, byte 8. -/
def intentBits (own : Option Intent) : Nat :=
  match own with
  | some i => 64 * i.phase.code + dirBit i.dir + i.stage.num
  | none => 0

/-- Table 9-10, byte 10, and bytes 11 to 12 (R190). -/
def State.stepIndex (s : State) : Nat :=
  match s.oi.chain with
  | some c => c.index
  | none => s.oi.stepIndex

/-- Table 9-10, bytes 11 to 12: the delay remaining of a chain, 0 while it is OPERATING (log 39). While no chain is present there is
no delay to send, and the low byte records the reason code of R71 (log 35). -/
def State.chainDelay (s : State) : Nat :=
  match s.oi.chain with
  | some c => if c.operating then 0 else c.delay
  | none => s.recordedCode

/-- Table 9-10, bytes 13 to 15: at no time are both accumulators nonzero (R78). -/
def accumulatorBits (v : Controller) : Nat := if v.high = 0 then v.low else 2 ^ 23 + v.high

/-- A settle in tenth-seconds, 0 when stopped. -/
def settleTenths (t : Option Nat) : Nat :=
  match t with
  | some ms => tenthsLeft ms
  | none => 0

def FaultKind.code : FaultKind → Nat
  | .failToClose => 1 | .failToOpen => 2 | .discrepancy _ => 3

def StageState.faultCode : StageState → Nat
  | .fault k => k.code
  | _ => 0

/-- Table 9-10, station part. -/
def page0Station (s : State) : List Byte :=
  pageByte s 0 ++ toBytes (causeBits s.vc.causes) 1 ++ stageList s.ready ++ stageList s.inService ++
  toBytes (stageMask s.blockSet) 1 ++ toBytes s.intentNumber 1 ++ toBytes (intentBits s.ix.own) 1 ++
  toBytes (bit 7 s.ix.isolated + s.ix.busyCount) 1 ++ toBytes s.stepIndex 1 ++ toBytes s.chainDelay 2 ++
  toBytes (accumulatorBits s.vc) 3 ++ toBytes (settleTenths s.vc.stationSettle) 2 ++
  toBytes (settleTenths s.vc.peerSettle) 2

def discrepancyElapsed (d : Option Discrepancy) : Nat :=
  match d with
  | some x => x.elapsed
  | none => 0

/-- Table 9-10, stage part. -/
def page0Stage (s : State) (k : StageId) : List Byte :=
  let r := s.stage k
  toBytes (r.state.code + 8 * r.state.faultCode + bit 5 r.tripLatch + bit 6 r.connected +
    bit 7 (s.inputs.get k).attention.active) 1 ++
  toBytes ((s.position k).code + bit 2 r.closeOut + bit 3 r.openOut) 1 ++
  toBytes r.duty.length 1 ++ toBytes r.lastCause.code 1 ++ toBytes (secondsUp (tenthsLeft r.discharge)) 2 ++
  toBytes r.lastClose 2 ++ toBytes r.lastOpen 2 ++ toBytes (r.duty.headD 0) 4 ++
  toBytes (discrepancyElapsed r.disc) 2

/-- Table 9-11. -/
def page1Phase (slots : Six Slot) (f : PhaseFigures) : List Byte :=
  toBytes f.v 2 ++ toBytes f.thd 2 ++
  (Six.zipWith (fun sl g => if sl.order.isSome then g.h else 0) slots f.slots).toList.flatMap fun h => toBytes h 2

def page1Station (s : State) : List Byte :=
  pageByte s 1 ++
  toBytes (bit 0 s.port.lost + bit 1 s.store.weak + bit 2 s.store.clipped.va + bit 3 s.store.clipped.vb +
    bit 4 s.store.clipped.vc) 1 ++
  toBytes s.store.vctl 2 ++ toBytes s.store.vhi 2 ++ toBytes s.store.thd 2 ++
  (Six.zipWith (fun sl h => if sl.order.isSome then h else 0) s.settings.slots s.store.h).toList.flatMap
    fun h => toBytes h 2

/-- Six flags by slot, slot 1 in bit 0. -/
def slotBits (f : Six Bool) : Nat := bit 0 f.m1 + bit 1 f.m2 + bit 2 f.m3 + bit 3 f.m4 + bit 4 f.m5 + bit 5 f.m6

/-- R151. -/
def greatestMissed (l : List Peer) : Nat := l.foldl (fun m e => max m e.missed) 0

/-- Table 9-12, byte 10. -/
def captureBits (c : Option Capture) : Nat :=
  match c with
  | some x => 8 * x.count + x.stage.num
  | none => 0

/-- Table 9-12, station part. -/
def page2Station (s : State) : List Byte :=
  let st := s.lc.stats
  pageByte s 2 ++
  toBytes (slotBits (Six.zipWith (fun sl a => sl.order.isSome && a.alarm) s.settings.slots s.hm.slots) +
    bit 6 s.hm.thdAlarm) 1 ++
  toBytes (slotBits s.watch) 1 ++ toBytes s.qEff 2 ++ toBytes s.presentIndex 1 ++
  toBytes s.pv.entries.length 1 ++ toBytes (s.pv.entries.filter fun e => !e.stale).length 1 ++
  toBytes (greatestMissed s.pv.entries) 1 ++ toBytes s.pv.heard.length 1 ++ toBytes (captureBits s.ur.capture) 1 ++
  toBytes st.good 2 ++ toBytes st.crc 2 ++ toBytes st.format 1 ++ toBytes st.noise 1 ++ toBytes st.framing 1 ++
  toBytes st.long 1 ++ toBytes (16 * min 15 st.overrun + min 15 st.clash) 1

/-- Table 9-12, stage part. -/
def page2Stage (s : State) (k : StageId) : List Byte :=
  let e := s.ur.entries.get k
  let p := s.store.neutral.get k
  toBytes (unsigned24 p.re) 3 ++ toBytes (unsigned24 p.im) 3 ++ toBytes (unsigned24 e.null.re) 3 ++
  toBytes (unsigned24 e.null.im) 3 ++ toBytes e.latestU 2 ++ toBytes e.blanking 1 ++
  toBytes (bit 0 e.alarm + bit 1 (s.store.clipped.n.get k) + bit 2 e.inService + bit 3 e.tripSent) 1

/-- Tables 9-10 to 9-12. -/
def detailBody (s : State) (page : Nat) : List Byte :=
  match page with
  | 0 => page0Station s ++ s.stageIds.flatMap (page0Stage s)
  | 1 => page1Station s ++ s.store.phases.toList.flatMap (page1Phase s.settings.slots)
  | _ => page2Station s ++ s.stageIds.flatMap (page2Stage s)

/-! ### The frame of a transmission start (R178) -/

/-- The slot chosen at step 1. -/
inductive Chosen
  | intent (x : IntentContent)
  | outcome (x : OutcomeContent)
  | detail (page panel : Nat)
  | bulletin
  deriving DecidableEq, Repr, Inhabited

/-- R177, R178 step 1: the eligible slot of highest priority. -/
def chooseSlot (l : LineChannel) : Option Chosen :=
  match l.intentSlot, l.outcomeSlot, l.detailSlot with
  | some x, _, _ => some (.intent x)
  | none, some x, _ => some (.outcome x)
  | none, none, some (page, panel) => some (.detail page panel)
  | none, none, none => if l.bulletinEligible then some .bulletin else none

def Chosen.kind : Chosen → Kind
  | .intent _ => .intent | .outcome _ => .outcome | .detail _ _ => .detail | .bulletin => .bulletin

/-- R178 step 3. -/
def Chosen.dest : Chosen → Nat
  | .detail _ panel => panel
  | _ => 0xFF

def chosenBody (s : State) : Chosen → List Byte
  | .intent x => intentBody s.startMarker x
  | .outcome x => outcomeBody s.startMarker s.figure s.settings.position x
  | .detail page _ => detailBody s page
  | .bulletin => bulletinBody s

/-- Header, body and CRC (R184, R174). -/
def composeFrame (s : State) (c : Chosen) : List Byte :=
  let body := chosenBody s c
  let front := toBytes c.kind.code 1 ++ toBytes s.settings.station 1 ++ toBytes c.dest 1 ++ toBytes s.lc.seq 1 ++
    toBytes body.length 1 ++ body
  front ++ toBytes (crc16 front) 2

/-- R178 step 5, R183: what the chosen slot's start empties. -/
def emptySlot (c : Chosen) (s : State) : LineChannel :=
  match c with
  | .intent _ => { s.lc with intentSlot := none }
  | .outcome _ => { s.lc with outcomeSlot := none }
  | .detail page _ => { s.lc with detailSlot := none, stats := if page = 2 then .zero else s.lc.stats }
  | .bulletin =>
    { s.lc with armed := false, triggerDelay := none, lastBulletin := some s.ms, spacing := some 1000
                periodTimer := some (ofSeconds s.settings.period) }

/-- R156: the sent mark of an INTENT that starts. -/
def markSent (c : Chosen) (own : Option Intent) : Option Intent :=
  match c, own with
  | .intent _, some i =>
    match i.phase with
    | .queued _ q => some { i with phase := .queued true q }
    | _ => some i
  | _, own => own

/-- R178, R173, R97: the transmission start. With no slot eligible no frame is sent and the attempt ends; the momentary
keying leaves the receiver and its idle count as they are (log 37). -/
def startTransmission (s : State) : State :=
  match chooseSlot s.lc with
  | none => { s with lc.access := .noAttempt }
  | some c =>
    let frame := composeFrame s c
    { s with
      lc := { emptySlot c s with
        access := .transmitting frame (frameTime s.settings frame.length)
        rx := .start
        seq := (s.lc.seq + 1) % 256
        framesSent := satInc 8 s.lc.framesSent }
      ix := { s.ix with own := markSent c s.ix.own, busyCount := 0, isolated := false } }

/-- R156, R157: an INTENT's end starts the hold-off. -/
def startHoldOff (own : Option Intent) : Option Intent :=
  match own with
  | some i =>
    match i.phase with
    | .queued true _ => some { i with phase := .holding (ofTenths i.holdOff) }
    | _ => some i
  | none => none

/-- R180: the unkey. The receiver returns, idle with an idle count of 0, the line at mark (log 18). -/
def endTransmission (s : State) : State :=
  refreshAccess { s with
    lc := { s.lc with access := .noAttempt, rx := .start }
    ix.own := startHoldOff s.ix.own }

end Sys2Proof.Machine
end

