-- ==== Sys2Proof/Machine/Receiver.lean ====
section
/-! DEFINITION. The character receiver of R172: sub-samples of the line, judged within one character. -/

namespace Sys2Proof.Machine

/-- The receiver within a character: the bit (0 start, 1..8 data, 9 stop), the sub-sample count within it,
the level of the last sub-sample (true is mark), the bits read (least significant first), the noise mark. -/
structure CharState where
  bit : Nat
  count : Nat
  level : Bool
  bits : List Bool
  noisy : Bool
  deriving DecidableEq, Repr, Inhabited

/-- How a character ends (R172). -/
inductive CharEnd
  | falseStart
  | ended (value : Nat) (noisy : Bool) (framing : Bool)
  deriving DecidableEq, Repr, Inhabited

/-- Right after the start edge: sub-sample 0 of the start bit, at space. -/
def CharState.atEdge : CharState := ⟨0, 0, false, [], false⟩

/-- The place of the next sub-sample, before a transition is judged. -/
def nextPlace (c : CharState) : Nat × Nat :=
  if c.count + 1 < 16 then (c.bit, c.count + 1) else (c.bit + 1, 0)

/-- R172: a transition is judged by the sub-sample at which it falls: 0..3 restarts this bit's count,
4..11 is noise, 12..15 begins the next bit. -/
def placeSample (c : CharState) (level : Bool) : CharState :=
  let (bit, count) := nextPlace c
  if level = c.level then { c with bit := bit, count := count }
  else if count ≤ 3 then { c with bit := bit, count := 0, level := level }
  else if count ≤ 11 then { c with bit := bit, count := count, level := level, noisy := true }
  else { c with bit := bit + 1, count := 0, level := level }

/-- The value of eight bits, least significant first. -/
def bitsValue : List Bool → Nat
  | [] => 0
  | b :: bs => (if b then 1 else 0) + 2 * bitsValue bs

/-- One sub-sample: either the character goes on or it ends. Each bit is read at its sub-sample 8. -/
def charStep (c : CharState) (level : Bool) : CharState ⊕ CharEnd :=
  let c := placeSample c level
  if c.count = 8 then
    if c.bit = 0 then (if level then .inr .falseStart else .inl c)
    else if c.bit ≤ 8 then .inl { c with bits := c.bits ++ [level] }
    else .inr (.ended (bitsValue c.bits) c.noisy (!level))
  else .inl c

/-- The sub-samples after the start edge, up to the end of the character: how it ends, the level of the
last sub-sample taken, and how many sub-samples are left over. `none`: the character has not ended. -/
def runChar : CharState → List Bool → Option (CharEnd × Bool × Nat)
  | _, [] => none
  | c, x :: xs =>
    match charStep c x with
    | .inl c' => runChar c' xs
    | .inr e => some (e, x, xs.length)

end Sys2Proof.Machine
end

