-- ==== Sys2Proof/Machine/LineCommands.lean ====
section
/-! DEFINITION. The commands of the Line Channel (09) and the arrivals of frames that are no order of the ten
(07): characters, frame completion, access, transmission, the bulletin schedule, the frame interpreter. -/

namespace Sys2Proof.Machine

/-- The modem is keyed. -/
def State.transmitting (s : State) : Bool :=
  match s.lc.access with
  | .transmitting _ _ => true
  | _ => false

/-- R171, R173: the receiver is on from the beginning of work, but while the modem is keyed. -/
def State.receiving (s : State) : Bool := s.lc.working && !s.transmitting

/-! ### The receiver (R172 to R174) -/

/-- START_EDGE (R172, R179): a space after a mark; a character begins, the idle count becomes 0, a deferral is stopped
(log 43). -/
def execStartEdge (s : State) : Host.Outcome State Fault Refusal :=
  .next (if s.receiving && !s.lc.rx.character then
      { s with lc := { s.lc with rx := { s.lc.rx with character := true, idle := 0, mark := false } }.stopDeferral }
    else s)

/-- R172: what the end of a character gives the frame. A false start outside a frame is ignored. -/
def frameAfter (e : CharEnd) (frame : Option Assembly) : Option Assembly :=
  match e with
  | .falseStart => frame.map fun a => { a with noisy := true }
  | .ended value noisy framing =>
    let a := (frame.getD .empty).addByte (BitVec.ofNat 8 value)
    some { a with noisy := a.noisy || noisy, framing := a.framing || framing }

/-- CHARACTER_END (R172). Sub-samples that do not reach the end of the character leave it in progress. The line stands
at the last of them: after a stop bit read as space no idle count begins until the line is at mark (R173). -/
def execCharacterEnd (samples : List Bool) (s : State) : Host.Outcome State Fault Refusal :=
  .next (if s.receiving && s.lc.rx.character then
      (match runChar .atEdge samples with
       | some (e, _, _) =>
         { s with lc.rx := {
             frame := frameAfter e s.lc.rx.frame, character := false, idle := 0, mark := samples.getLastD true } }
       | none => s)
    else s)

/-- FRAME_COMPLETION (R173, R174): the idle count stands at 15, after fifteen bit periods at mark. -/
def execFrameCompletion (s : State) : Host.Outcome State Fault Refusal :=
  .next (match s.lc.rx.frame with
    | some a =>
      if s.receiving && !s.lc.rx.character then
        { s with lc := completeFrame s.ms a { s.lc with rx := { s.lc.rx with idle := idleFull, mark := true } } }
      else s
    | none => s)

/-! ### Channel access (R179) -/

/-- R179: an attempt draws when the medium becomes idle. A frame completes at the same idle count (R173) and is taken
first: while the receiver holds a frame, MEDIUM_IDLE is no event (log 38). -/
def State.awaitsIdle (s : State) : Bool :=
  s.lc.access == .waiting && !s.carrier && !s.lc.rx.character && s.lc.rx.frame.isNone

/-- MEDIUM_IDLE (R179). -/
def execMediumIdle (s : State) : Host.Outcome State Fault Refusal :=
  .next (if s.awaitsIdle then
      { s with lc := { s.lc with rx := { s.lc.rx with idle := idleFull, mark := true } }.draw }
    else s)

/-- CARRIER_DETECT_CHANGE (R179): active, it stops a deferral (log 43). -/
def execCarrierDetectChange (active : Bool) (s : State) : Host.Outcome State Fault Refusal :=
  .next (if active then { s with carrier := true, lc := s.lc.stopDeferral } else { s with carrier := false })

/-! ### Transmission (R178, R180) -/

def State.deferring (s : State) : Bool :=
  match s.lc.access with
  | .deferring _ _ => true
  | _ => false

/-- TRANSMISSION_START (R178). Taken before the FRAME_COMPLETION of the same idle count, it drops that frame (log 38). -/
def execTransmissionStart (s : State) : Host.Outcome State Fault Refusal :=
  .next (if s.deferring then startTransmission s else s)

/-- TRANSMISSION_END (R180). -/
def execTransmissionEnd (s : State) : Host.Outcome State Fault Refusal :=
  .next (if s.transmitting then endTransmission s else s)

/-! ### The bulletin schedule (R181, R182) -/

/-- BULLETIN_PERIOD_EXPIRY (R181). -/
def execBulletinPeriodExpiry (s : State) : Host.Outcome State Fault Refusal :=
  .next (if s.lc.periodTimer.isSome then arm { s with lc.periodTimer := none } else s)

/-- TRIGGER_DELAY_EXPIRY (R182). -/
def execTriggerDelayExpiry (s : State) : Host.Outcome State Fault Refusal :=
  .next (if s.lc.triggerDelay.isSome then arm { s with lc.triggerDelay := none } else s)

/-- BULLETIN_SPACING_EXPIRY (R181): an armed bulletin becomes eligible. -/
def execBulletinSpacingExpiry (s : State) : Host.Outcome State Fault Refusal :=
  .next (if s.lc.spacing.isSome then refreshAccess { s with lc.spacing := none } else s)

/-! ### The frame interpreter (R175, R176, R134) -/

/-- BULLETIN_ARRIVAL (R134, R140, R142). -/
def execBulletinArrival (s : State) : Host.Outcome State Fault Refusal :=
  .next (takeHead .bulletin (takeYard takeBulletin) s)

/-- OUTCOME_ARRIVAL (R134, R143, R147, R81). -/
def execOutcomeArrival (s : State) : Host.Outcome State Fault Refusal :=
  .next (takeHead .outcome (takeYard takeOutcome) s)

/-- INTENT_ARRIVAL (R134, R144, R146, R160). -/
def execIntentArrival (s : State) : Host.Outcome State Fault Refusal :=
  .next (takeHead .intent (takeYard takeIntent) s)

/-- DETAIL_ARRIVAL (R134, R144). -/
def execDetailArrival (s : State) : Host.Outcome State Fault Refusal :=
  .next (takeHead .detail (takeYard takeDetail) s)

/-- The record at the head of the ring does not pass R176. -/
def State.headFormat (s : State) : Bool :=
  match s.lc.ring with
  | [] => false
  | r :: _ => classify r.bytes == .format

/-- FORMAT_DISCARD (R176, R183). -/
def execFormatDiscard (s : State) : Host.Outcome State Fault Refusal :=
  .next (if s.headFormat then
      freeHead { s with lc.stats := { s.lc.stats with format := satInc 255 s.lc.stats.format } }
    else s)

/-- R134: an ORDER from a yard and any other kind than ORDER from a panel: judged, and nothing further. -/
def takeNothing (f : Frame) (s : State) : State :=
  if isYard f.sender then (judgeYard f s).1 else (judgePanel f s).1

/-- FRAME_ARRIVAL (R134, R138). -/
def execFrameArrival (s : State) : Host.Outcome State Fault Refusal :=
  .next (takeHead .frame takeNothing s)

end Sys2Proof.Machine
end

