-- ==== Sys2Proof/Machine/Cycle.lean ====
section
/-! DEFINITION. The Sampler Port (Section 1.1 to 1.3) and what an evaluated cycle does at the Voltage Controller
(04), the Harmonic Monitor (05) and the Unbalance Relay (06). -/

namespace Sys2Proof.Machine

/-! ### Runs (R1, R4, R5) -/

def Signals.get {α : Type} (x : Signals α) : Signal → α
  | .va => x.va | .vb => x.vb | .vc => x.vc | .n k => x.n.get k

def Signals.put {α : Type} (x : Signals α) (g : Signal) (v : α) : Signals α :=
  match g with
  | .va => { x with va := v }
  | .vb => { x with vb := v }
  | .vc => { x with vc := v }
  | .n k => { x with n := x.n.set k v }

/-- R4: the signal a channel stores: a neutral above the stage count is treated as UNUSED. -/
def storedSignal (stageCount : Nat) (c : Channel) : Option Signal :=
  match c.signal with
  | some (.n k) => if k.num ≤ stageCount then some (.n k) else none
  | g => g

/-- R5: the stored sample; an inverted word of −32768 becomes +32767. -/
def sampleOf (invert : Bool) (w : Word) : Int :=
  if invert then (if w = 0x8000#16 then 32767 else -w.toInt) else w.toInt

/-- R5: judged on the word as delivered. -/
def clips (w : Word) : Bool := w == 0x7FFF#16 || w == 0x8000#16

/-- R4, R5: one set after the map and the polarity. -/
def mapSet (c : Settings) (w : SampleSet) : Signals Int :=
  (c.channels.zip w.toList).foldl (fun acc p =>
    match storedSignal c.stageCount p.1 with
    | some g => acc.put g (sampleOf p.1.invert p.2)
    | none => acc) (.all 0)

/-- R5: the clipped flags with those of one set. -/
def clipSet (c : Settings) (w : SampleSet) (flags : Signals Bool) : Signals Bool :=
  (c.channels.zip w.toList).foldl (fun acc p =>
    match storedSignal c.stageCount p.1 with
    | some g => acc.put g (acc.get g || clips p.2)
    | none => acc) flags

/-- R1: a set joins the run; the first 32 are held, the count saturates at 255. -/
def addSet (c : Settings) (w : SampleSet) (r : Run) : Run :=
  if r.count < 32 then
    ⟨r.count + 1, r.sets ++ [mapSet c w], clipSet c w r.clipped⟩
  else { r with count := satInc 255 r.count }

/-- R1, R5: a run begins with its marked set. -/
def newRun (c : Settings) (w : SampleSet) : Run := addSet c w ⟨0, [], .all false⟩

/-- R3: the mark timeout of the strap. -/
def markTimeout : Strap → Nat
  | .hz50 => 40
  | .hz60 => 34

/-! ### Measurement lost and recovered (R8, R10) -/

/-- R77, R75: the Voltage Controller takes measurement lost. -/
def controllerLost (s : State) : State :=
  let s1 := addCause .measLost s
  { s1 with vc := { s1.vc with deadRun := 0, restore := 0, fovRun := 0, fovRep := 0 } }

/-- R104: the Harmonic Monitor. -/
def Monitor.lost (m : Monitor) : Monitor :=
  { m with slots := m.slots.map fun a => { a with run := 0, shed := 0 }, thdRun := 0 }

/-- R127: one stage entry, and the capture. -/
def RelayEntry.lost (e : RelayEntry) : RelayEntry :=
  { e with alarmCount := 0, alarm := false, tripCount := 0, highCount := 0 }

def relayLost (s : State) : State :=
  unbalanceNotice s.unbAlarm
    { s with ur := {
        entries := .ofFn fun k => (s.ur.entries.get k).lost
        capture := s.ur.capture.map fun c => { c with count := 0, reSum := 0, imSum := 0 } } }

/-- R8: the declaration of loss, handed to the blocks of Table 1-1. -/
def declareLost (s : State) : State :=
  let s1 := controllerLost { s with port.lost := true, port.recovery := 0 }
  rejudge (relayLost { s1 with hm := s1.hm.lost })

/-- R10. -/
def declareRecovered (s : State) : State :=
  rejudge (removeCause .measLost { s with port.lost := false, port.recovery := 0 })

/-! ### What stood at the cycle completion (R12, R114; log 5, log 36) -/

/-- The lists that the walks of a fast overvoltage and of a shed read, the stages that a dead line opens, and the trips
that the relay judges due, as they stood when the cycle completed: requests of the same cycle reach the Supervisor
after. -/
structure Snapshot where
  inService : List StageId
  live : List StageId
  trips : Four (Option Cause)
  deriving DecidableEq, Repr, Inhabited

/-! ### The Voltage Controller (R77) -/

/-- R94: the declaration of a dead line. -/
def declareDead (live : List StageId) (s : State) : State :=
  let s1 := addCause .deadLine { s with vc := { s.vc with deadLine := true, deadRun := 0, restore := 0 } }
  let s2 := live.foldl (fun acc k => requestOpen k .deadLine 0 acc) (trigger s1)
  chainDeadLine s2

/-- R96: the end of a dead line. -/
def endDead (s : State) : State :=
  trigger (removeCause .deadLine { s with vc := { s.vc with deadLine := false, deadRun := 0, restore := 0 } })

/-- R94, R96: step 1. -/
def deadLineTest (live : List StageId) (s : State) : State :=
  if s.vc.deadLine then
    let n := if 800 ≤ s.store.vctl then s.vc.restore + 1 else 0
    if s.settings.restoreTime ≤ n then endDead s else { s with vc.restore := n }
  else
    let n := if s.store.vctl < 300 then s.vc.deadRun + 1 else 0
    if 3 ≤ n then declareDead live s else { s with vc.deadRun := n }

/-- The stages of a list that are not in the block set. -/
def unblocked (s : State) (l : List StageId) : List StageId := l.filter fun k => !s.blockSet.get k

/-- R92, R49: the oldest-closed unblocked stage is opened. -/
def fastOpen (inService : List StageId) (s : State) : State :=
  match unblocked s inService with
  | k :: _ => requestOpen k .fastOv 0 s
  | [] => s

/-- R92: a close intent in PROPOSING is withdrawn. -/
def overvoltageWithdraw (s : State) : State :=
  match s.ix.own with
  | some i => if i.dir = .close ∧ s.vc.state = .proposing then withdraw .overvoltage s else s
  | none => s

/-- R92: step 2. -/
def fastOvTest (inService : List StageId) (s : State) : State :=
  if s.permitted && s.settings.fastOv ≤ s.store.vhi then
    if s.vc.fovRun < 4 then
      if s.vc.fovRun + 1 = 4 then
        overvoltageWithdraw (fastOpen inService { s with vc.fovRun := 4, vc.fovRep := 0 })
      else { s with vc.fovRun := s.vc.fovRun + 1 }
    else if 60 ≤ s.vc.fovRep + 1 then overvoltageWithdraw (fastOpen inService { s with vc.fovRep := 0 })
    else overvoltageWithdraw { s with vc.fovRep := s.vc.fovRep + 1 }
  else { s with vc.fovRun := 0, vc.fovRep := 0 }

/-- R78: LOW and HIGH after an update. -/
def updateAccumulators (c : Settings) (vctl low high : Nat) : Nat × Nat :=
  if vctl < c.vset - c.halfBand then (min c.threshold (low + (c.vset - c.halfBand - vctl)), 0)
  else if c.vset + c.halfBand < vctl then (0, min c.threshold (high + (vctl - c.vset - c.halfBand)))
  else (low - c.decay, high - c.decay)

/-- R85: the raise walk: each inquiry prunes; the first stage that passes, and the first refusal. -/
def raiseWalk : List StageId → State → State × Option StageId × Option Reason
  | [], s => (s, none, none)
  | k :: rest, s =>
    let s1 := s.prune k
    match closeTest s1 k.num .autoRaise 0 with
    | none => (s1, some k, none)
    | some r =>
      match raiseWalk rest s1 with
      | (s2, found, _) => (s2, found, some r)

/-- R153: from 255 the number passes to 1. -/
def nextIntent (n : Nat) : Nat := if n < 255 then n + 1 else 1

/-- R154, R155: the intent is created and announced, and the controller enters PROPOSING. -/
def propose (dir : Direction) (k : StageId) (s : State) : State :=
  let n := s.ix.nextNumber
  let size := (s.cfg k).size
  placeIntent ⟨n, dir, k, size, s.settings.position, s.settings.holdOff⟩
    { s with
      ix := { s.ix with own := some ⟨n, dir, k, size, s.settings.holdOff, .queued false 0⟩, nextNumber := nextIntent n }
      vc := { s.vc with state := .proposing, unserved := .none } }

/-- R88, R89: the controller's own operation. -/
def enterExecuting (k : StageId) (dir : Direction) (intent : Nat) (s : State) : State :=
  { s with vc := { s.vc with state := .executing, unserved := .none, ownOp := some ⟨k, dir, intent⟩ } }

/-- R85, R87, R88: a demand to raise that no condition holds back. -/
def demandRaise (s : State) : State :=
  match raiseWalk (unblocked s s.ready) s with
  | (s1, some k, _) =>
    if s.ix.isolated then issueClose k .autoRaise 0 (enterExecuting k .close 0 s1) else propose .close k s1
  | (s1, none, some r) => { s1 with vc.unserved := r }
  | (s1, none, none) => { s1 with vc.unserved := .noneReady }

/-- R86, R87, R88. -/
def demandLower (s : State) : State :=
  match unblocked s s.inService with
  | k :: _ =>
    if s.ix.isolated then
      match openRefusal s k.num .autoLower with
      | none => actOpen k .autoLower 0 (enterExecuting k .opening 0 s)
      | some r => { s with vc.unserved := r }
    else propose .opening k s
  | [] => { s with vc.unserved := .noneClosed }

/-- R84 condition 1: a heard intent of the direction from within far reach. -/
def State.peerIntent (s : State) (dir : Direction) : Bool :=
  s.pv.heard.any fun h => h.dir == dir && s.withinFar h.position

/-- R84. -/
def demand (s : State) : State :=
  if s.settings.threshold ≤ s.vc.low then
    if s.peerIntent .close then { s with vc.unserved := .peerIntent }
    else if s.harmAlarm then { s with vc.unserved := .harmBlock }
    else demandRaise s
  else if s.settings.threshold ≤ s.vc.high then
    if s.peerIntent .opening then { s with vc.unserved := .peerIntent } else demandLower s
  else { s with vc.unserved := .none }

/-- R77: step 3. -/
def accumulate (s : State) : State :=
  if s.vc.state = .watching then
    let (low, high) := updateAccumulators s.settings s.store.vctl s.vc.low s.vc.high
    demand { s with vc.low := low, vc.high := high }
  else s

/-- R77: the three pieces of work, in this order. Step 3 reads the state that the steps before it, and the turns before this
one, have left: a lower intent that an open of step 2 withdraws with STAGE_CHANGED leaves WATCHING, and step 3 is taken at the
same cycle (log 42). -/
def controllerCycle (snap : Snapshot) (s : State) : State :=
  accumulate (fastOvTest snap.inService (deadLineTest snap.live s))

/-! ### The Harmonic Monitor (R100) -/

/-- R101, R102: limit minus hysteresis, at least 1. -/
def clearLevel (limit hysteresis : Nat) : Nat := max 1 (limit - hysteresis)

/-- R101, R102: alarm flag and run count after a cycle. -/
def alarmStep (p limit hysteresis x : Nat) (alarm : Bool) (run : Nat) : Bool × Nat :=
  if alarm then
    if x < clearLevel limit hysteresis then (if p ≤ run + 1 then (false, 0) else (true, run + 1)) else (true, 0)
  else
    if limit < x then (if p ≤ run + 1 then (true, 0) else (false, run + 1)) else (false, 0)

/-- R101: one slot; at the clearing the shed count becomes 0. An unused slot takes no part. -/
def slotStep (c : Settings) (slot : Slot) (h : Nat) (a : SlotAlarm) : SlotAlarm :=
  if slot.order.isNone then a
  else
    let (alarm, run) := alarmStep c.persistence slot.limit c.hysteresis h a.alarm a.run
    ⟨alarm, run, if a.alarm && !alarm then 0 else a.shed⟩

/-- R101, R102: step 1. -/
def monitorAlarms (c : Settings) (st : Store) (m : Monitor) : Monitor :=
  let (thdAlarm, thdRun) := alarmStep c.persistence c.thdLimit c.hysteresis st.thd m.thdAlarm m.thdRun
  { slots := Six.zipWith (fun sl ha => slotStep c sl ha.1 ha.2) c.slots (Six.zipWith Prod.mk st.h m.slots)
    thdAlarm := thdAlarm, thdRun := thdRun }

/-- R112: step 2. -/
def shedStep (delay : Nat) (permitted : Bool) (slot : Slot) (a : SlotAlarm) : SlotAlarm :=
  if slot.order.isNone then a
  else if a.alarm && permitted then { a with shed := satInc delay a.shed }
  else { a with shed := 0 }

/-- R113: a slot whose shed count stands at the delay and whose order lies near the present index. -/
def qualifies (c : Settings) (index : Nat) (slot : Slot) (a : SlotAlarm) : Bool :=
  match slot.order with
  | some h => a.shed == c.shedDelay && inBand index h c.guard
  | none => false

/-- R113: step 3. -/
def shedTest (inService : List StageId) (s : State) : State :=
  let marks := Six.zipWith (qualifies s.settings s.presentIndex) s.settings.slots s.hm.slots
  if marks.toList.any id then
    match (unblocked s inService).reverse with
    | k :: _ =>
      requestOpen k .harmShed 0
        { s with hm.slots := Six.zipWith (fun q a => if q then { a with shed := 0 } else a) marks s.hm.slots }
    | [] => s
  else s

/-- R103: a harmonic-alarm notice when the station harmonic alarm has changed since `before`. It is called once, after the
whole of step 1: one alarm that clears in the step while another sets hands no notice (log 41). -/
def harmonicNotice (before : Bool) (s : State) : State :=
  if s.harmAlarm = before then s else rejudge (trigger s)

/-- R100. -/
def monitorCycle (snap : Snapshot) (s : State) : State :=
  if s.store.weak then s
  else
    let s1 := harmonicNotice s.harmAlarm { s with hm := monitorAlarms s.settings s.store s.hm }
    shedTest snap.inService
      { s1 with hm.slots := Six.zipWith (shedStep s1.settings.shedDelay s1.permitted) s1.settings.slots s1.hm.slots }

/-! ### The Unbalance Relay (R120) -/

/-- R121. -/
def alarmUpdate (c : StageSettings) (u : Nat) (e : RelayEntry) : RelayEntry :=
  if c.alarmLevel ≤ u then
    let n := min c.alarmDelay (e.alarmCount + 1)
    { e with alarmCount := n, alarm := e.alarm || n == c.alarmDelay }
  else if u < c.alarmLevel * 15 / 16 then { e with alarmCount := 0, alarm := false }
  else e

/-- R123, R124. -/
def tripUpdate (c : StageSettings) (u : Nat) (e : RelayEntry) : RelayEntry :=
  { e with
    tripCount := if c.tripLevel ≤ u then e.tripCount + 1 else 0
    highCount := if 2 * c.tripLevel ≤ u then e.highCount + 1 else 0 }

/-- R123 to R125: the cause of a trip due after step 3. -/
def tripDue (c : StageSettings) (e : RelayEntry) : Option Cause :=
  if 2 ≤ e.highCount then some .unbHighset
  else if c.tripDelay ≤ e.tripCount then some .unbTrip
  else none

/-- Steps 2 to 4 on one entry in service: the entry after, and the trip it sends (R119 to R125). -/
def judgeEntry (c : StageSettings) (u : Nat) (e : RelayEntry) : RelayEntry × Option Cause :=
  if 0 < e.blanking then ({ e with blanking := e.blanking - 1 }, none)
  else if e.tripSent then (e, none)
  else
    let e1 := tripUpdate c u (alarmUpdate c u e)
    match tripDue c e1 with
    | some cause => ({ e1 with tripCount := 0, highCount := 0, tripSent := true }, some cause)
    | none => (e1, none)

/-- R129 step 1: the capture adds a cycle of its in-service stage. -/
def captureStep (st : Store) (r : Relay) : Option Capture :=
  r.capture.map fun c =>
    if (r.entries.get c.stage).inService then
      let p := st.neutral.get c.stage
      { c with count := c.count + 1, reSum := c.reSum + p.re, imSum := c.imSum + p.im }
    else c

/-- R120: the entry of a stage after the cycle, and its trip. A stage that is not configured has no entry. -/
def relayEntry (s : State) (k : StageId) : RelayEntry × Option Cause :=
  let e := s.ur.entries.get k
  if s.configured k then
    let u := unbalance (s.store.neutral.get k) e.null
    let e1 := { e with latestU := u }
    if e.inService then judgeEntry (s.cfg k) u e1 else (e1, none)
  else (e, none)

/-- R129, at the 16th cycle: the new null, the counts cleared. -/
def RelayEntry.install (c : Capture) (e : RelayEntry) : RelayEntry :=
  { e with null := captureNull c.reSum c.imSum, alarmCount := 0, tripCount := 0, highCount := 0, alarm := false }

/-- R129, R130: the capture after steps 4 and 5 of its stage. -/
def settleCapture (s : State) (trips : StageId → Option Cause) : State :=
  match s.ur.capture with
  | none => s
  | some c =>
    if (trips c.stage).isSome then abandonCapture c.stage s
    else if 16 ≤ c.count ∧ (s.ur.entries.get c.stage).inService = true then
      captureEnded c .done 0 { s.modEntry c.stage (RelayEntry.install c) with ur.capture := none }
    else s

/-- R120, R122: every stage is judged on its own entry; then the capture and the notice, one when the station alarm
stands otherwise after the whole judgement than before it (log 41). The judgement reads and writes nothing that another
block changes at the cycle completion, and is taken before any request of the cycle reaches the Supervisor (R12;
log 36). -/
def relayJudge (s : State) : State :=
  let s1 := { s with ur := ⟨.ofFn fun k => (relayEntry s k).1, captureStep s.store s.ur⟩ }
  unbalanceNotice s.unbAlarm (settleCapture s1 fun k => (relayEntry s k).2)

/-- R125, R126: the trips reach the Supervisor, each taken on the stage as it then stands. -/
def sendTrips (trips : Four (Option Cause)) (s : State) : State :=
  s.stageIds.foldl (fun acc k =>
    match trips.get k with
    | some cause => requestTrip k cause acc
    | none => acc) s

/-! ### The cycle completion (R2, R7 to R10, R12) -/

def snapshot (s : State) : Snapshot where
  inService := s.inService
  live := s.stageIds.filter fun k => (s.stage k).state == .closed || (s.stage k).state == .closing
  trips := .ofFn fun k => (relayEntry s k).2

/-- A block's turn: what it does at the cycle completion, its requests to the Supervisor among it. The relay has judged
before, and its turn is the arrival of its trips. -/
def evaluateBlock (snap : Snapshot) (s : State) : CycleBlock → State
  | .voltage => controllerCycle snap s
  | .harmonic => monitorCycle snap s
  | .unbalance => sendTrips snap.trips s

/-- R12: the three blocks take the cycle. Their turns come in the order given, which is also the order in which their
requests reach the Supervisor (log 4). -/
def evaluate (order : CycleOrder) (s : State) : State := order.blocks.foldl (evaluateBlock (snapshot s)) (relayJudge s)

/-- R2, R9, R10: an accepted cycle. -/
def acceptCycle (order : CycleOrder) (r : Run) (s : State) : State :=
  let s1 := { s with store := computeStore s.settings r.sets r.clipped, port.discards := 0 }
  if s.port.lost then
    if 10 ≤ s.port.recovery + 1 then evaluate order (declareRecovered s1)
    else { s1 with port.recovery := s.port.recovery + 1 }
  else evaluate order s1

/-- R7, R8, R9: a discarded cycle. -/
def discardCycle (s : State) : State :=
  let n := satInc 3 s.port.discards
  if s.port.lost then { s with port.discards := n, port.recovery := 0 }
  else if n = 3 then declareLost { s with port.discards := n }
  else { s with port.discards := n }

/-- R1, R2, R3: a marked set ends the run in progress and begins a new one. -/
def markedSet (w : SampleSet) (order : CycleOrder) (s : State) : State :=
  let s1 := { s with port.run := some (newRun s.settings w), port.markTimer := some (markTimeout s.strap) }
  match s.port.run with
  | none => s1
  | some r => if r.count = 32 then acceptCycle order r s1 else discardCycle s1

end Sys2Proof.Machine
end

