-- ==== Sys2Proof/Machine/Measurement.lean ====
section
/-! DEFINITION. The commands of the Sampler Port (01_measurement_arithmetic.md): SAMPLE_SET, CYCLE_COMPLETION,
MARK_TIMEOUT. -/

namespace Sys2Proof.Machine

/-- SAMPLE_SET (R1): an unmarked set joins the run in progress; sets before the first mark belong to none. -/
def execSampleSet (w : SampleSet) (s : State) : Host.Outcome State Fault Refusal :=
  .next (if s.port.working then
      { s with port.run := s.port.run.map (addSet s.settings w) }
    else s)

/-- CYCLE_COMPLETION (R1, R2): the arrival of a marked set. -/
def execCycleCompletion (w : SampleSet) (order : CycleOrder) (s : State) : Host.Outcome State Fault Refusal :=
  .next (if s.port.working then settleDue (markedSet w order s) else s)

/-- MARK_TIMEOUT (R3). -/
def execMarkTimeout (s : State) : Host.Outcome State Fault Refusal :=
  .next (if s.port.markTimer.isSome then
      (if s.port.lost then { s with port.markTimer := none, port.recovery := 0 }
       else declareLost { s with port.markTimer := none })
    else s)

end Sys2Proof.Machine
end

