-- ==== Sys2Proof/Machine/OrderCommands.lean ====
section
/-! DEFINITION. The commands of the Order Interpreter (10): the ten orders, BAD_ORDER and CHAIN_STEP. -/

namespace Sys2Proof.Machine

/-- CLOSE (R191). -/
def execOrderClose (s : State) : Host.Outcome State Fault Refusal :=
  .next (takeOrder 1 (serveOrderSwitch .close) s)

/-- OPEN (R191). -/
def execOrderOpen (s : State) : Host.Outcome State Fault Refusal :=
  .next (takeOrder 2 (serveOrderSwitch .opening) s)

/-- MODE (R190, R74). -/
def execOrderMode (s : State) : Host.Outcome State Fault Refusal :=
  .next (takeOrder 3 serveMode s)

/-- BLOCK_SET (R190, R50). -/
def execOrderBlockSet (s : State) : Host.Outcome State Fault Refusal :=
  .next (takeOrder 4 (serveBlock true) s)

/-- BLOCK_CLEAR (R190, R50). -/
def execOrderBlockClear (s : State) : Host.Outcome State Fault Refusal :=
  .next (takeOrder 5 (serveBlock false) s)

/-- RESET_STAGE (R190, R69, R70). -/
def execOrderResetStage (s : State) : Host.Outcome State Fault Refusal :=
  .next (settleDue (takeOrder 6 serveReset s))

/-- CAPTURE_NULL (R190, R128). -/
def execOrderCaptureNull (s : State) : Host.Outcome State Fault Refusal :=
  .next (takeOrder 7 serveCapture s)

/-- SEQUENCE (R192, R193). -/
def execOrderSequence (s : State) : Host.Outcome State Fault Refusal :=
  .next (settleDue (takeOrder 8 serveSequence s))

/-- STOP_SEQUENCE (R194). -/
def execOrderStopSequence (s : State) : Host.Outcome State Fault Refusal :=
  .next (takeOrder 9 serveStop s)

/-- REPORT (R190, R177). -/
def execOrderReport (s : State) : Host.Outcome State Fault Refusal :=
  .next (takeOrder 10 serveReport s)

/-- BAD_ORDER (R188): no code outside 1..10 passes the form, so no order is served. -/
def execBadOrder (s : State) : Host.Outcome State Fault Refusal :=
  .next (takeHead .badOrder (takePanel fun _ s => s) s)

/-- R192: the step of a WAITING chain whose delay has run out. -/
def chainStep (s : State) : State :=
  match s.oi.chain with
  | some c => if c.operating then s else serveStep { s with oi.chain := some { c with delay := 0 } }
  | none => s

/-- CHAIN_STEP (R192, R193). -/
def execChainStep (s : State) : Host.Outcome State Fault Refusal :=
  .next (settleDue (chainStep s))

end Sys2Proof.Machine
end

