-- ==== Sys2Proof/Machine/Image.lean ====
section
/-! DEFINITION. The configuration image: its check (R196), its layout (R198) and its clamping (R197). -/

namespace Sys2Proof.Machine

/-- R196: the sum of the first 254 bytes and the checksum, modulo 65536, is 0. -/
def checksumOk (img : List Byte) : Bool :=
  (((img.take 254).map BitVec.toNat).sum + field img 254 2) % 65536 == 0

/-- The function of a channel by its code 0..7 (Table 11-1). -/
def signalOf : Nat → Option Signal
  | 1 => some .va
  | 2 => some .vb
  | 3 => some .vc
  | 4 => some (.n .s1)
  | 5 => some (.n .s2)
  | 6 => some (.n .s3)
  | 7 => some (.n .s4)
  | _ => none

def channelBytes (img : List Byte) : List Nat := (List.range 8).map fun i => byteAt img (12 + i)

/-- R6: no function twice, the phases present, the neutrals of configured stages present. -/
def mapOk (stageCount : Nat) (codes : List Nat) : Bool :=
  codes.all (· ≤ 7) &&
  ((List.range 7).all fun c => (codes.filter (· = c + 1)).length ≤ 1) &&
  ((List.range (3 + stageCount)).all fun c => codes.contains (c + 1))

/-- R196. A read of fewer than 256 bytes fails the check. -/
def imageOk (img : List Byte) : Bool :=
  256 ≤ img.length && checksumOk img &&
  (1 ≤ byteAt img 2 && byteAt img 2 ≤ 4) && isYard (byteAt img 0) &&
  mapOk (byteAt img 2) ((channelBytes img).map (· % 128))

/-- The block of a stage as it is read (R198). -/
def rawStage (img : List Byte) (k : StageId) : StageSettings :=
  let b := 80 + 32 * (k.num - 1)
  { size := field img b 2
    dischargeTime := field img (b + 2) 2
    dutyLimit := field img (b + 4) 1
    pulseWidth := field img (b + 5) 2
    operateWindow := field img (b + 7) 2
    discrepancyTime := field img (b + 9) 2
    alarmLevel := field img (b + 11) 2
    alarmDelay := field img (b + 13) 2
    tripLevel := field img (b + 15) 2
    tripDelay := field img (b + 17) 2
    blanking := field img (b + 19) 1
    nullRe := signed24 (field img (b + 20) 3)
    nullIm := signed24 (field img (b + 23) 3) }

/-- R197, by Tables 6-1 and 11-1. -/
def clampStage (r : StageSettings) : StageSettings where
  size := clamp 1 500 r.size
  dischargeTime := clamp 60 900 r.dischargeTime
  dutyLimit := clamp 1 16 r.dutyLimit
  pulseWidth := clamp 20 500 r.pulseWidth
  operateWindow := clamp 60 1000 r.operateWindow
  discrepancyTime := clamp 20 500 r.discrepancyTime
  alarmLevel := clamp 16 30000 r.alarmLevel
  alarmDelay := clamp 10 3000 r.alarmDelay
  tripLevel := clamp 16 30000 r.tripLevel
  tripDelay := clamp 2 3000 r.tripDelay
  blanking := clamp 10 120 r.blanking
  nullRe := clampInt (-65535) 65535 r.nullRe
  nullIm := clampInt (-65535) 65535 r.nullIm

/-- R98: 0 is unused, 1 is clamped to 2, more than 15 to 15. -/
def clampOrder (x : Nat) : Option Nat := if x = 0 then none else some (clamp 2 15 x)

/-- R98: in slot order, an order equal to an earlier slot's is unused. -/
def dedupOrders : List Nat → List (Option Nat) → List (Option Nat)
  | _, [] => []
  | seen, none :: rest => none :: dedupOrders seen rest
  | seen, some h :: rest =>
    if seen.contains h then none :: dedupOrders seen rest else some h :: dedupOrders (h :: seen) rest

def slotsOf (img : List Byte) : Six Slot :=
  let orders := dedupOrders [] ((List.range 6).map fun i => clampOrder (byteAt img (46 + i)))
  let slot (i : Nat) : Slot :=
    ⟨orders.getD i none, clamp 5 200 (byteAt img (52 + i)), clamp 2 100 (byteAt img (58 + i))⟩
  ⟨slot 0, slot 1, slot 2, slot 3, slot 4, slot 5⟩

/-- R197: a value in 0xE0..0xE7 is the own group. -/
def groupOf (g : Nat) : Option Nat := if 0xE0 ≤ g && g ≤ 0xE7 then some g else none

/-- The working copy of an image that passed its check (R197, R198). -/
def readSettings (img : List Byte) : Settings :=
  let count := byteAt img 2
  let near := clamp 0 2000 (field img 42 2)
  { station := byteAt img 0
    group := groupOf (byteAt img 1)
    stageCount := count
    panelMask := img.getD 3 0
    initialManual := byteAt img 4 != 0
    blockSet := .ofFn fun k => testBit (byteAt img 5) (k.num - 1) && k.num ≤ count
    position := field img 6 2
    bitRateCode := clamp 0 3 (byteAt img 8)
    keyUp := clamp 0 100 (byteAt img 9)
    period := clamp 4 60 (byteAt img 10)
    holdOff := clamp 10 100 (byteAt img 11)
    channels := (channelBytes img).map fun b => ⟨signalOf (b % 128), 128 ≤ b⟩
    sense := BitVec.ofNat 13 (field img 20 2)
    nominal := ⟨clamp 4000 30000 (field img 22 2), clamp 4000 30000 (field img 24 2),
      clamp 4000 30000 (field img 26 2)⟩
    vset := clamp 900 1100 (field img 28 2)
    halfBand := clamp 5 60 (byteAt img 30)
    decay := clamp 0 50 (byteAt img 31)
    threshold := clamp 200 500000 (field img 32 3)
    stationSettle := clamp 10 300 (field img 35 2)
    peerSettle := clamp 5 120 (byteAt img 37)
    fastOv := clamp 1050 1250 (field img 38 2)
    restoreTime := clamp 60 3000 (field img 40 2)
    nearReach := near
    farReach := clamp near 4000 (field img 44 2)
    slots := slotsOf img
    thdLimit := clamp 10 300 (field img 64 2)
    persistence := clamp 10 600 (field img 66 2)
    hysteresis := clamp 1 20 (byteAt img 68)
    shedDelay := clamp 600 36000 (field img 69 2)
    guard := clamp 1 9 (byteAt img 71)
    ssc := clamp 10 20000 (field img 72 2)
    stages := .ofFn fun k => if k.num ≤ count then clampStage (rawStage img k) else rawStage img k }

end Sys2Proof.Machine
end

