-- ==== Sys2Proof/Machine/StartUp.lean ====
section
/-! DEFINITION. The commands of the start (11_start_up_and_configuration_image.md): POWER_ON to
PRESENCE_PROBE_END, and LISTEN_IN_EXPIRY. -/

namespace Sys2Proof.Machine

/-- Every block at its starting state (R195). What is outside the part stays: the levels at the contact
inputs, carrier detect, the reset input (log 24); and the queue (log 23). The strap keeps the value latched last until
the next start latches it (log 40). -/
def cleared (s : State) : State :=
  { State.reset with
    pending := s.pending, resetInput := s.resetInput, pins := s.pins, carrier := s.carrier, strap := s.strap }

/-- R195 step 1, R196: the strap is latched, the ticks begin at 0 and the image read begins. -/
def beginStart (strap : Strap) (s : State) : State :=
  { cleared s with strap := strap, phase := .reading 200 }

/-- POWER_ON (R195). While the reset input is active the part is held (log 10). -/
def execPowerOn (strap : Strap) (s : State) : Host.Outcome State Fault Refusal :=
  .next (if s.resetInput then cleared s else beginStart strap s)

/-- EXTERNAL_RESET (R195): every output off, every block at its starting state. -/
def execExternalReset (s : State) : Host.Outcome State Fault Refusal :=
  .next (cleared { s with resetInput := true })

/-- RESET_RELEASE (R195): a new start begins. -/
def execResetRelease (strap : Strap) (s : State) : Host.Outcome State Fault Refusal :=
  .next (if s.resetInput then beginStart strap { s with resetInput := false } else s)

/-- R199: entry to FALLBACK. The open outputs of all four stages turn on. -/
def enterFallback (s : State) : State :=
  rejudge { s with
    phase := .fallback
    fallbackPulse := some 100
    stages := .ofFn fun k => { s.stages.get k with openOut := true, closeOut := false }
    vc.causes := s.vc.causes.put .fallback true }

/-- R196, R72, R171, R50, R132: the working copy, and what each block takes from it at the end of the check;
the presence probe begins (R200). -/
def installSettings (c : Settings) (s : State) : State :=
  rejudge { s with
    settings := c
    phase := .probing 500
    blockSet := c.blockSet
    vc := { s.vc with manual := c.initialManual, causes := s.vc.causes.put .manual c.initialManual }
    ur := { s.ur with entries := .ofFn fun k =>
      { s.ur.entries.get k with null := ⟨(c.stages.get k).nullRe, (c.stages.get k).nullIm⟩ } }
    lc.lfsr := lfsrSeed c.station }

def State.isReading (s : State) : Bool :=
  match s.phase with
  | .reading _ => true
  | _ => false

/-- IMAGE_CHECK (R196). -/
def execImageCheck (image : List Byte) (s : State) : Host.Outcome State Fault Refusal :=
  .next (if s.isReading then
    (if imageOk image then installSettings (readSettings image) s else enterFallback s) else s)

/-- IMAGE_READ_TIMEOUT (R196). -/
def execImageReadTimeout (s : State) : Host.Outcome State Fault Refusal :=
  .next (if s.isReading then enterFallback s else s)

/-- FALLBACK_PULSE_END (R199). -/
def execFallbackPulseEnd (s : State) : Host.Outcome State Fault Refusal :=
  .next (if s.fallbackPulse.isSome then
    { s with
      fallbackPulse := none
      stages := .ofFn fun k => { s.stages.get k with openOut := false } }
    else s)

/-- Table 11-3: the state a stage takes. -/
def probeState (i : StageInputs) : StageState :=
  if i.seen then
    match i.position with
    | .closed => .closed
    | .opened | .transit => .discharging
    | .bad => .fault (.discrepancy false)
  else .absent

/-- R200: the record of a configured stage at the end of the probe. -/
def probeStage (c : StageSettings) (i : StageInputs) (r : Stage) : Stage :=
  let st := probeState i
  { r with
    state := st
    lastCause := .start
    discharge := if st = .absent ∨ st = .closed then 0 else ofSeconds c.dischargeTime
    disc := if i.seen = true ∧ i.position = .transit then some ⟨.discharging, 0⟩ else none }

/-- R200, R195 step 5, R118, R171, R74: the results of the probe, and the blocks that begin work. -/
def endProbe (s : State) : State :=
  let found := s.stageIds.filter fun k => probeState (s.inputs.get k) == .closed
  arm { s with
    phase := .running
    stages := .ofFn fun k =>
      if s.configured k then probeStage (s.cfg k) (s.inputs.get k) (s.stages.get k) else s.stages.get k
    inService := found
    ur.entries := .ofFn fun k =>
      if found.contains k then (s.ur.entries.get k).enterService (s.cfg k).blanking else s.ur.entries.get k
    port := { s.port with working := true, markTimer := some (markTimeout s.strap) }
    lc := { s.lc with working := true, periodTimer := some (ofSeconds s.settings.period) }
    vc.listenIn := some (2 * ofSeconds s.settings.period) }

/-- PRESENCE_PROBE_END (R200). -/
def execPresenceProbeEnd (s : State) : Host.Outcome State Fault Refusal :=
  .next (match s.phase with
    | .probing _ => endProbe s
    | _ => s)

/-- LISTEN_IN_EXPIRY (R74, R76). -/
def execListenInExpiry (s : State) : Host.Outcome State Fault Refusal :=
  .next (if s.vc.listenIn.isSome then removeCause .listenIn { s with vc.listenIn := none } else s)

end Sys2Proof.Machine
end

