-- ==== Sys2Proof/Machine/Timers.lean ====
section
/-! DEFINITION. The commands of the settle timers, the Peer View's ages and the own intent (04, 07, 08):
STATION_SETTLE_EXPIRY, PEER_SETTLE_EXPIRY, PEER_STALE, PEER_REMOVAL, HEARD_INTENT_EXPIRY, NUMBER_CLASH_EXPIRY,
HOLD_OFF_EXPIRY, QUEUE_TIME_EXPIRY. -/

namespace Sys2Proof.Machine

/-! ### Settle intervals (R80 to R82) -/

/-- R82: QUIET ends when neither settle is running. -/
def endQuiet (s : State) : State :=
  if s.vc.state = .quiet ∧ s.vc.stationSettle = none ∧ s.vc.peerSettle = none then
    { s with vc := { s.vc with state := .watching, low := 0, high := 0 } }
  else s

/-- STATION_SETTLE_EXPIRY (R80, R82). -/
def execStationSettleExpiry (s : State) : Host.Outcome State Fault Refusal :=
  .next (if s.vc.stationSettle.isSome then endQuiet { s with vc.stationSettle := none } else s)

/-- PEER_SETTLE_EXPIRY (R81, R82). -/
def execPeerSettleExpiry (s : State) : Host.Outcome State Fault Refusal :=
  .next (if s.vc.peerSettle.isSome then endQuiet { s with vc.peerSettle := none } else s)

/-! ### Peer ages (R145), heard intents (R148), number clash (R135) -/

/-- R145: the ages, in milliseconds, at which an entry of period P becomes STALE and is removed. -/
def staleAge (period : Nat) : Nat := ofTenths (30 * period)

def removalAge (period : Nat) : Nat := ofTenths (120 * period)

/-- R145: an entry whose age has reached three periods becomes STALE; one that a frame has refreshed stays FRESH. The
model's choice (log 44): such an entry is found at age 0, not 1, since its phase has restarted with the frame. -/
def Peer.age (e : Peer) : Peer := if staleAge e.period ≤ e.ageMs then { e with stale := true } else e

/-- PEER_STALE (R145): the step counts nothing itself (log 44). -/
def execPeerStale (station : Byte) (s : State) : Host.Outcome State Fault Refusal :=
  .next (s.modPeer station.toNat Peer.age)

/-- PEER_REMOVAL (R145): an entry whose age has reached twelve periods is removed, and VIEW_FULL clears. An entry that
a frame of the same moment has refreshed stays. DESIGN CHOICE (log 44): R145 has this step find such an entry at age 1 and
also restarts its phase with the frame; the model follows the restart, leaves the age at 0, and counts 1 a tenth-second later. -/
def execPeerRemoval (station : Byte) (s : State) : Host.Outcome State Fault Refusal :=
  .next (match findPeer station.toNat s.pv.entries with
    | some e =>
      if removalAge e.period ≤ e.ageMs then
        { s with pv := { s.pv with entries := removePeer station.toNat s.pv.entries, viewFull := false } }
      else s
    | none => s)

/-- R148: the records of a sender whose lifetime has run leave the list; a newer record stays. -/
def expireHeard (sender : Nat) (l : List Heard) : List Heard := l.filter fun h => !(h.sender == sender && h.left == 0)

/-- HEARD_INTENT_EXPIRY (R148). -/
def execHeardIntentExpiry (sender : Byte) (s : State) : Host.Outcome State Fault Refusal :=
  .next { s with pv.heard := expireHeard sender.toNat s.pv.heard }

/-- NUMBER_CLASH_EXPIRY (R135): the clearing is a bulletin trigger. -/
def execNumberClashExpiry (s : State) : Host.Outcome State Fault Refusal :=
  .next (if s.pv.clash.isSome then trigger { s with pv.clash := none } else s)

/-! ### The own intent (R156, R158, R97) -/

/-- R158: the re-test of the chosen stage, on a state pruned for a close. -/
def commitRefusal (s : State) (i : Intent) : Option Reason :=
  match i.dir with
  | .close => closeTest s i.stage.num .autoRaise i.number
  | .opening => openRefusal s i.stage.num .autoLower

/-- R158, R89: the act of a request that passed; the controller enters EXECUTING. -/
def actCommitted (i : Intent) (s : State) : State :=
  let s1 := enterExecuting i.stage i.dir i.number s
  match i.dir with
  | .close => issueClose i.stage .autoRaise i.number s1
  | .opening => actOpen i.stage .autoLower i.number s1

/-- R158: the commitment, judged before EXECUTING is entered (log 32). -/
def commit (i : Intent) (s : State) : State :=
  let s1 := pruneRequest { s with ix.own := some { i with phase := .committed } } i.dir i.stage.num
  match commitRefusal s1 i with
  | some r => withdrawCommitted r s1
  | none => actCommitted i s1

/-- R158: an expiry finds an intent in HOLDING while automatic control is permitted, or nothing. -/
def expireHoldOff (s : State) : State :=
  match s.ix.own with
  | none => s
  | some i =>
    match i.phase with
    | .holding _ => if s.permitted then commit i s else s
    | _ => s

/-- HOLD_OFF_EXPIRY (R157, R158). -/
def execHoldOffExpiry (s : State) : Host.Outcome State Fault Refusal :=
  .next (settleDue (expireHoldOff s))

/-- R97: the consecutive channel-busy count, and ISOLATED at 3. -/
def countBusy (s : State) : State :=
  { s with ix := { s.ix with
      busyCount := satInc 3 s.ix.busyCount
      isolated := s.ix.isolated || satInc 3 s.ix.busyCount == 3 } }

/-- QUEUE_TIME_EXPIRY (R156, R97). -/
def execQueueTimeExpiry (s : State) : Host.Outcome State Fault Refusal :=
  .next (match s.ix.own with
    | some i => if unsent i then countBusy (withdraw .channelBusy s) else s
    | none => s)

end Sys2Proof.Machine
end

