-- ==== Sys2Proof/Machine/Dispatch.lean ====
section
/-! DEFINITION. One arm for each command: one direct call of its meaning. -/

namespace Sys2Proof.Machine

def exec (i : Instr) (s : State) : Host.Outcome State Fault Refusal :=
  match i with
  | .powerOn strap => Sys2Proof.Machine.execPowerOn strap s
  | .externalReset => Sys2Proof.Machine.execExternalReset s
  | .resetRelease strap => Sys2Proof.Machine.execResetRelease strap s
  | .imageCheck image => Sys2Proof.Machine.execImageCheck image s
  | .imageReadTimeout => Sys2Proof.Machine.execImageReadTimeout s
  | .fallbackPulseEnd => Sys2Proof.Machine.execFallbackPulseEnd s
  | .presenceProbeEnd => Sys2Proof.Machine.execPresenceProbeEnd s
  | .sampleSet words => Sys2Proof.Machine.execSampleSet words s
  | .cycleCompletion words order => Sys2Proof.Machine.execCycleCompletion words order s
  | .markTimeout => Sys2Proof.Machine.execMarkTimeout s
  | .contactChange changed => Sys2Proof.Machine.execContactChange changed s
  | .pulseEnd k => Sys2Proof.Machine.execPulseEnd k s
  | .closeWindowExpiry k => Sys2Proof.Machine.execCloseWindowExpiry k s
  | .openWindowExpiry k => Sys2Proof.Machine.execOpenWindowExpiry k s
  | .discrepancyExpiry k => Sys2Proof.Machine.execDiscrepancyExpiry k s
  | .dischargeEnd k => Sys2Proof.Machine.execDischargeEnd k s
  | .minutePruning => Sys2Proof.Machine.execMinutePruning s
  | .listenInExpiry => Sys2Proof.Machine.execListenInExpiry s
  | .stationSettleExpiry => Sys2Proof.Machine.execStationSettleExpiry s
  | .peerSettleExpiry => Sys2Proof.Machine.execPeerSettleExpiry s
  | .frameCompletion => Sys2Proof.Machine.execFrameCompletion s
  | .bulletinArrival => Sys2Proof.Machine.execBulletinArrival s
  | .outcomeArrival => Sys2Proof.Machine.execOutcomeArrival s
  | .intentArrival => Sys2Proof.Machine.execIntentArrival s
  | .detailArrival => Sys2Proof.Machine.execDetailArrival s
  | .formatDiscard => Sys2Proof.Machine.execFormatDiscard s
  | .peerStale station => Sys2Proof.Machine.execPeerStale station s
  | .peerRemoval station => Sys2Proof.Machine.execPeerRemoval station s
  | .heardIntentExpiry sender => Sys2Proof.Machine.execHeardIntentExpiry sender s
  | .numberClashExpiry => Sys2Proof.Machine.execNumberClashExpiry s
  | .holdOffExpiry => Sys2Proof.Machine.execHoldOffExpiry s
  | .queueTimeExpiry => Sys2Proof.Machine.execQueueTimeExpiry s
  | .mediumIdle => Sys2Proof.Machine.execMediumIdle s
  | .carrierDetectChange active => Sys2Proof.Machine.execCarrierDetectChange active s
  | .transmissionStart => Sys2Proof.Machine.execTransmissionStart s
  | .transmissionEnd => Sys2Proof.Machine.execTransmissionEnd s
  | .bulletinPeriodExpiry => Sys2Proof.Machine.execBulletinPeriodExpiry s
  | .triggerDelayExpiry => Sys2Proof.Machine.execTriggerDelayExpiry s
  | .bulletinSpacingExpiry => Sys2Proof.Machine.execBulletinSpacingExpiry s
  | .orderClose => Sys2Proof.Machine.execOrderClose s
  | .orderOpen => Sys2Proof.Machine.execOrderOpen s
  | .orderMode => Sys2Proof.Machine.execOrderMode s
  | .orderBlockSet => Sys2Proof.Machine.execOrderBlockSet s
  | .orderBlockClear => Sys2Proof.Machine.execOrderBlockClear s
  | .orderResetStage => Sys2Proof.Machine.execOrderResetStage s
  | .orderCaptureNull => Sys2Proof.Machine.execOrderCaptureNull s
  | .orderSequence => Sys2Proof.Machine.execOrderSequence s
  | .orderStopSequence => Sys2Proof.Machine.execOrderStopSequence s
  | .orderReport => Sys2Proof.Machine.execOrderReport s
  | .chainStep => Sys2Proof.Machine.execChainStep s
  | .startEdge => Sys2Proof.Machine.execStartEdge s
  | .characterEnd samples => Sys2Proof.Machine.execCharacterEnd samples s
  | .frameArrival => Sys2Proof.Machine.execFrameArrival s
  | .badOrder => Sys2Proof.Machine.execBadOrder s

end Sys2Proof.Machine
end

