-- ==== Sys2Proof/Machine/Tick.lean ====
section
/-! DEFINITION. What the block does while no command waits (00_scope 0.6; log 3): it puts the first event that is
due in its queue, or else one millisecond passes. A timer at 0 is due. -/

namespace Sys2Proof.Machine

/-! ### What is due -/

/-- One event when a condition holds. -/
def dueIf (b : Bool) (i : Instr) : List Instr := if b then [i] else []

/-- R27: the inputs whose run count stands at 10. -/
def State.contactsDue (s : State) : BitVec 13 :=
  let stagePins := StageId.all.foldl (fun acc k =>
    [Contact.closed, .opened, .attention].foldl (fun acc c =>
      setPin acc (inputBit k c) (10 ≤ ((s.inputs.get k).contact c).run)) acc) 0
  setPin stagePins blockBit (10 ≤ s.block.run)

def Discrepancy.due (time : Nat) (d : Option Discrepancy) : Bool :=
  match d with
  | some x => time ≤ x.elapsed
  | none => false

/-- The timers of one stage. -/
def State.stageDue (s : State) (k : StageId) : List Instr :=
  let r := s.stage k
  dueIf (r.state == .discharging && r.discharge == 0) (.dischargeEnd k) ++
  dueIf (r.pulse == some 0) (.pulseEnd k) ++
  dueIf (r.window == some 0 && r.state == .closing) (.closeWindowExpiry k) ++
  dueIf (r.window == some 0 && r.state == .opening) (.openWindowExpiry k) ++
  dueIf (Discrepancy.due (s.cfg k).discrepancyTime r.disc) (.discrepancyExpiry k)

def startDue (s : State) : List Instr :=
  dueIf (s.phase == .reading 0) .imageReadTimeout ++
  dueIf (s.phase == .probing 0) .presenceProbeEnd ++
  dueIf (s.fallbackPulse == some 0) .fallbackPulseEnd

def controlDue (s : State) : List Instr :=
  dueIf (s.port.markTimer == some 0) .markTimeout ++
  dueIf (s.vc.listenIn == some 0) .listenInExpiry ++
  dueIf (s.vc.stationSettle == some 0) .stationSettleExpiry ++
  dueIf (s.vc.peerSettle == some 0) .peerSettleExpiry

/-- R145. -/
def Peer.due (e : Peer) : List Instr :=
  dueIf (removalAge e.period ≤ e.ageMs) (.peerRemoval (BitVec.ofNat 8 e.station)) ++
  dueIf (!e.stale && staleAge e.period ≤ e.ageMs) (.peerStale (BitVec.ofNat 8 e.station))

/-- R148. -/
def Heard.due (h : Heard) : List Instr := dueIf (h.left == 0) (.heardIntentExpiry (BitVec.ofNat 8 h.sender))

/-- R156, R157. -/
def intentDue (s : State) : List Instr :=
  match s.ix.own with
  | some i =>
    match i.phase with
    | .queued false q => dueIf (5000 ≤ q) .queueTimeExpiry
    | .holding 0 => dueIf s.permitted .holdOffExpiry
    | _ => []
  | none => []

def peerDue (s : State) : List Instr :=
  s.pv.entries.flatMap Peer.due ++ s.pv.heard.flatMap Heard.due ++
  dueIf (s.pv.clash == some s.seconds) .numberClashExpiry ++ intentDue s

/-- The row that takes the record at the head of the ring. -/
def arrivalOf : Taken → Instr
  | .bulletin => .bulletinArrival
  | .outcome => .outcomeArrival
  | .intent => .intentArrival
  | .detail => .detailArrival
  | .format => .formatDiscard
  | .frame => .frameArrival
  | .badOrder => .badOrder
  | .order 1 => .orderClose
  | .order 2 => .orderOpen
  | .order 3 => .orderMode
  | .order 4 => .orderBlockSet
  | .order 5 => .orderBlockClear
  | .order 6 => .orderResetStage
  | .order 7 => .orderCaptureNull
  | .order 8 => .orderSequence
  | .order 9 => .orderStopSequence
  | .order _ => .orderReport

def accessDue (a : Access) : List Instr :=
  match a with
  | .deferring _ 0 => [.transmissionStart]
  | .transmitting _ 0 => [.transmissionEnd]
  | _ => []

def lineDue (s : State) : List Instr :=
  let full := s.receiving && !s.lc.rx.character && s.lc.rx.idle == idleFull
  dueIf (full && s.lc.rx.frame.isSome) .frameCompletion ++
  (match s.lc.ring with
   | r :: _ => [arrivalOf (classify r.bytes)]
   | [] => []) ++
  dueIf (full && s.awaitsIdle) .mediumIdle ++
  accessDue s.lc.access ++
  dueIf (s.lc.periodTimer == some 0) .bulletinPeriodExpiry ++
  dueIf (s.lc.triggerDelay == some 0) .triggerDelayExpiry ++
  dueIf (s.lc.spacing == some 0) .bulletinSpacingExpiry

/-- Every event that is due, in the fixed order in which the idle step takes events of one moment (log 3). -/
def State.due (s : State) : List Instr :=
  startDue s ++ s.stageIds.flatMap s.stageDue ++ dueIf (s.contactsDue != 0) (.contactChange s.contactsDue) ++
  controlDue s ++ peerDue s ++ lineDue s ++ dueIf s.stepDue .chainStep

/-! ### One millisecond -/

def tickDown (t : Option Nat) : Option Nat := t.map (· - 1)

def Phase.tick : Phase → Phase
  | .reading n => .reading (n - 1)
  | .probing n => .probing (n - 1)
  | p => p

/-- R27: the run count at one tick. -/
def Debounced.tick (reading : Bool) (d : Debounced) : Debounced :=
  { d with run := if reading = d.active then 0 else satInc 10 d.run }

/-- R27: the reading of an input, inverted by its sense flag. -/
def State.reading (s : State) (i : Nat) : Bool := s.pins.getLsbD i != s.settings.sense.getLsbD i

def State.tickInputs (s : State) (k : StageId) : StageInputs :=
  let i := s.inputs.get k
  if s.configured k then
    { i with
      closed := i.closed.tick (s.reading (inputBit k .closed))
      opened := i.opened.tick (s.reading (inputBit k .opened))
      attention := i.attention.tick (s.reading (inputBit k .attention)) }
  else i

/-- R56: one millisecond of a discharge countdown. The millisecond that ends it in DISCHARGING is DISCHARGE_END's own,
which the tick queues: the figure reaches 0 with the entry to READY, and not before (R58). -/
def StageState.countdown (st : StageState) (n : Nat) : Nat :=
  match st with
  | .discharging => if n = 1 then 1 else n - 1
  | .lockout | .fault _ => n - 1
  | _ => n

def Stage.tick (r : Stage) : Stage :=
  { r with
    discharge := r.state.countdown r.discharge
    disc := r.disc.map fun d => { d with elapsed := d.elapsed + 1 }
    pulse := tickDown r.pulse
    window := tickDown r.window }

def Controller.tick (v : Controller) : Controller :=
  { v with stationSettle := tickDown v.stationSettle, peerSettle := tickDown v.peerSettle, listenIn := tickDown v.listenIn }

/-- R145: the age saturates at 65535 tenth-seconds. -/
def PeerView.tick (p : PeerView) : PeerView :=
  { p with
    entries := p.entries.map fun e => { e with ageMs := satInc (ofTenths 65535) e.ageMs }
    heard := p.heard.map fun h => { h with left := h.left - 1 } }

def Intent.tick (i : Intent) : Intent :=
  match i.phase with
  | .queued false q => { i with phase := .queued false (satInc 5000 q) }
  | .holding n => { i with phase := .holding (n - 1) }
  | _ => i

def Access.tick (fifths : Nat) : Access → Access
  | .deferring r n => .deferring r (n - fifths)
  | .transmitting f n => .transmitting f (n - fifths)
  | a => a

/-- R173: the idle count grows while the line is at mark; the line stays at the level of the last sub-sample taken
(log 18). -/
def State.tickLine (s : State) : LineChannel :=
  let fifths := fifthsPerMs s.settings.bitRateCode
  { s.lc with
    rx := if s.receiving && !s.lc.rx.character && s.lc.rx.mark then
        { s.lc.rx with idle := min idleFull (s.lc.rx.idle + fifths) } else s.lc.rx
    access := s.lc.access.tick fifths
    periodTimer := tickDown s.lc.periodTimer
    triggerDelay := tickDown s.lc.triggerDelay
    spacing := tickDown s.lc.spacing }

/-- R192: the chain delay at an increase of the seconds count. -/
def Chain.tick (c : Chain) : Chain := if c.operating then c else { c with delay := c.delay - 1 }

/-- The tick brings an increase of the seconds count. -/
def State.secondDue (s : State) : Bool := (s.ms + 1) % 1000 == 0

/-- R62: the tick brings a whole minute of the seconds count while the Stage Supervisor is at work. -/
def State.minuteDue (s : State) : Bool := s.running && s.secondDue && ((s.ms + 1) / 1000) % 2 ^ 32 % 60 == 0

/-- R56, R58: the DISCHARGING stages whose countdown ends with this tick. -/
def State.dischargeEnds (s : State) : List Instr :=
  s.stageIds.flatMap fun k => dueIf ((s.stage k).state == .discharging && (s.stage k).discharge == 1) (.dischargeEnd k)

/-- One millisecond passes. A countdown that ends with it and a whole minute queue their event at once. -/
def advance (s : State) : State :=
  { s with
    pending := s.pending ++ s.dischargeEnds ++ dueIf s.minuteDue .minutePruning
    ms := s.ms + 1
    phase := s.phase.tick
    fallbackPulse := tickDown s.fallbackPulse
    inputs := if s.watchingInputs then .ofFn s.tickInputs else s.inputs
    block := if s.watchingInputs then s.block.tick (s.reading blockBit) else s.block
    port := { s.port with markTimer := tickDown s.port.markTimer }
    stages := .ofFn fun k => (s.stages.get k).tick
    vc := s.vc.tick
    pv := s.pv.tick
    ix := { s.ix with own := s.ix.own.map Intent.tick }
    lc := s.tickLine
    oi := if s.secondDue then { s.oi with chain := s.oi.chain.map Chain.tick } else s.oi }

/-- The step of the block on an empty queue (log 3). A part that is held does nothing. -/
def idle (s : State) : State :=
  if s.phase = .held then s
  else
    match s.due with
    | i :: _ => { s with pending := s.pending ++ [i] }
    | [] => advance s

end Sys2Proof.Machine
end

