-- ==== Sys2Proof/Safety.lean ====
section
/-! DEFINITION. What claims say about states: what an event leaves unchanged, and the invariants of a safe run. -/

namespace Sys2Proof.Machine

/-! ### Bulletin triggers (R182) -/

/-- R182: the trigger delay after a bulletin trigger. A delay that runs and an armed bulletin are left as they are, and a Line
Channel that has not begun work takes no trigger (R171). -/
def State.delayTriggered (s : State) : Option Nat :=
  if s.lc.working = true ∧ s.lc.triggerDelay = none ∧ s.lc.armed = false
  then some (100 + 50 * (s.settings.station % 8)) else s.lc.triggerDelay

/-- A bulletin trigger has been taken on the way from `s` to `t`. -/
def Triggered (s t : State) : Prop := t.lc.triggerDelay = s.delayTriggered

/-- Nothing has changed of which R182 makes every change a bulletin trigger: the state of a stage (R52), the dead line, the station
alarms, NUMBER_CLASH, the last-order record. -/
structure SameNews (s t : State) : Prop where
  stages : ∀ k, (t.stage k).state = (s.stage k).state
  deadLine : t.vc.deadLine = s.vc.deadLine
  harmonic : t.harmAlarm = s.harmAlarm
  unbalance : t.unbAlarm = s.unbAlarm
  clash : t.pv.clash.isSome = s.pv.clash.isSome
  lastOrder : t.oi.last = s.oi.last

/-- R182: the event has taken a bulletin trigger, or there is no news and the trigger delay is left as it was. -/
structure Announces (s t : State) : Prop where
  station : t.settings.station = s.settings.station
  working : t.lc.working = s.lc.working
  armed : t.lc.armed = s.lc.armed
  news : Triggered s t ∨ (SameNews s t ∧ t.lc.triggerDelay = s.lc.triggerDelay)

/-! ### What an event leaves unchanged -/

/-- Of the Line Channel a switching event leaves these: it touches the INTENT and OUTCOME slots, the trigger delay
and the access attempt with its draw. -/
structure LineKept (l m : LineChannel) : Prop where
  working : m.working = l.working
  rx : m.rx = l.rx
  ring : m.ring = l.ring
  detailSlot : m.detailSlot = l.detailSlot
  armed : m.armed = l.armed
  seq : m.seq = l.seq
  framesSent : m.framesSent = l.framesSent
  periodTimer : m.periodTimer = l.periodTimer
  lastBulletin : m.lastBulletin = l.lastBulletin
  spacing : m.spacing = l.spacing
  stats : m.stats = l.stats

/-- Of the controller a switching event leaves these; the accumulators keep their value or become 0 (R79). -/
structure ControlKept (v w : Controller) : Prop where
  low : w.low = v.low ∨ w.low = 0
  high : w.high = v.high ∨ w.high = 0
  peerSettle : w.peerSettle = v.peerSettle
  listenIn : w.listenIn = v.listenIn
  deadLine : w.deadLine = v.deadLine
  deadRun : w.deadRun = v.deadRun
  restore : w.restore = v.restore
  fovRun : w.fovRun = v.fovRun
  fovRep : w.fovRep = v.fovRep

/-- A switching event (a request, a position, an expiry of the Stage Supervisor) leaves these as they were. What it
may change: the stage records and lists, the controller's state, the relay's entries, the own intent, the Line
Channel's slots and trigger, the order and chain records, the status outputs. -/
structure SwitchKept (s t : State) : Prop where
  pending : t.pending = s.pending
  resetInput : t.resetInput = s.resetInput
  phase : t.phase = s.phase
  strap : t.strap = s.strap
  ms : t.ms = s.ms
  settings : t.settings = s.settings
  fallbackPulse : t.fallbackPulse = s.fallbackPulse
  pins : t.pins = s.pins
  carrier : t.carrier = s.carrier
  inputs : t.inputs = s.inputs
  block : t.block = s.block
  port : t.port = s.port
  store : t.store = s.store
  blockSet : t.blockSet = s.blockSet
  hm : t.hm = s.hm
  pv : t.pv = s.pv
  nextNumber : t.ix.nextNumber = s.ix.nextNumber
  busyCount : t.ix.busyCount = s.ix.busyCount
  isolated : t.ix.isolated = s.ix.isolated
  control : ControlKept s.vc t.vc
  line : LineKept s.lc t.lc

/-- A switching event: what it leaves, and the bulletin trigger that its news is (R182). -/
structure SwitchFrame (s t : State) : Prop extends SwitchKept s t, Announces s t

/-- An event of control, notices or orders that switches nothing: the stage records and lists are left too. -/
structure NoticeFrame (s t : State) : Prop extends SwitchFrame s t where
  stages : t.stages = s.stages
  ready : t.ready = s.ready
  inService : t.inService = s.inService

/-- An evaluated cycle and a loss or recovery of measurement leave these as they were: what they may change beside the
switching is the port, the store, the controller's counts and accumulators, the monitor's counts and the next intent
number. -/
structure CycleKept (s t : State) : Prop where
  pending : t.pending = s.pending
  resetInput : t.resetInput = s.resetInput
  phase : t.phase = s.phase
  strap : t.strap = s.strap
  ms : t.ms = s.ms
  settings : t.settings = s.settings
  fallbackPulse : t.fallbackPulse = s.fallbackPulse
  pins : t.pins = s.pins
  carrier : t.carrier = s.carrier
  inputs : t.inputs = s.inputs
  block : t.block = s.block
  portWorking : t.port.working = s.port.working
  blockSet : t.blockSet = s.blockSet
  pv : t.pv = s.pv
  busyCount : t.ix.busyCount = s.ix.busyCount
  isolated : t.ix.isolated = s.ix.isolated
  listenIn : t.vc.listenIn = s.vc.listenIn
  peerSettle : t.vc.peerSettle = s.vc.peerSettle
  line : LineKept s.lc t.lc

/-- An event of a cycle: what it leaves, and the bulletin trigger that its news is (R182). -/
structure CycleFrame (s t : State) : Prop extends CycleKept s t, Announces s t

/-- R8, R77, R104, R127, R201: what a declared loss of measurement leaves. The store keeps its figures; alarm flags of
orders stay; every count kept in cycles is 0. -/
structure LossDeclared (s t : State) : Prop where
  lost : t.port.lost = true
  recovery : t.port.recovery = 0
  cause : t.vc.causes = { s.vc.causes with measLost := true }
  counts : t.vc.deadRun = 0 ∧ t.vc.restore = 0 ∧ t.vc.fovRun = 0 ∧ t.vc.fovRep = 0
  slots : t.hm.slots = s.hm.slots.map fun a => { a with run := 0, shed := 0 }
  thd : t.hm.thdRun = 0 ∧ t.hm.thdAlarm = s.hm.thdAlarm
  entries : ∀ k, t.ur.entries.get k =
    { s.ur.entries.get k with alarmCount := 0, alarm := false, tripCount := 0, highCount := 0 }
  capture : t.ur.capture = s.ur.capture.map fun c => { c with count := 0, reSum := 0, imSum := 0 }
  store : t.store = s.store
  stages : t.stages = s.stages
  ready : t.ready = s.ready
  inService : t.inService = s.inService
  oi : t.oi = s.oi
  outputs : t.alarm = true ∧ t.healthy = false

/-- Every stage but one is left as it was. -/
def OtherStages (k : StageId) (s t : State) : Prop := ∀ j, j ≠ k → t.stage j = s.stage j

/-- The event leaves the chain at rest: no step of it is due, and no step of it is in flight on the stage. -/
structure ChainApart (k : StageId) (s : State) : Prop where
  notDue : s.stepDue = false
  elsewhere : ∀ c st, s.oi.chain = some c → c.operating = true → c.current = some st → st.stage ≠ k.num

/-- The change set in which both position contacts of one stage change and no other input does. -/
def bothContacts (k : StageId) : BitVec 13 := (1#13 <<< inputBit k .closed) ||| (1#13 <<< inputBit k .opened)

/-- The change set of the BLOCK input alone. -/
def blockContact : BitVec 13 := 1#13 <<< blockBit

/-- The change set of one input of a stage alone. -/
def oneContact (k : StageId) (c : Contact) : BitVec 13 := 1#13 <<< inputBit k c

/-- A change of one or of both position contacts of a stage, and of no other input, brings the running part's configured
stage to the position `p`. -/
structure Travel (k : StageId) (changed : BitVec 13) (p : Position) (s : State) : Prop where
  contacts : changed = oneContact k .closed ∨ changed = oneContact k .opened ∨ changed = bothContacts k
  running : s.phase = .running
  configured : s.configured k = true
  arrives : (takeInputs changed s).position k = p

/-! ### Conditions judged in order -/

/-- R64, R68: of conditions judged in order, the first that holds gives its reason; with none there is none. -/
def FirstHolds : List (Prop × Reason) → Option Reason → Prop
  | [], r => r = none
  | (p, reason) :: rest, r => (p ∧ r = some reason) ∨ (¬p ∧ FirstHolds rest r)

/-! ### The own intent -/

/-- Automatic control is permitted, and the controller is in PROPOSING with its intent not committed. -/
structure Proposes (i : Intent) (s : State) : Prop where
  control : s.vc.causes.isEmpty = true
  state : s.vc.state = .proposing
  own : s.ix.own = some i
  uncommitted : i.phase ≠ .committed

/-- R162, steps 1 and 2: the own intent is gone, and of its INTENT, where it had not been sent, the slot is emptied. -/
structure IntentDropped (i : Intent) (s t : State) : Prop where
  own : t.ix = { s.ix with own := none }
  slot : t.lc.intentSlot = match i.phase with
    | .queued false _ => none
    | _ => s.lc.intentSlot

/-- R162, R165: and its OUTCOME, WITHDRAWN with the reason, waits in the slot. -/
structure Withdrawn (i : Intent) (reason : Reason) (s t : State) : Prop extends IntentDropped i s t where
  outcome : t.lc.outcomeSlot =
    some ⟨i.number, .withdrawn, i.dir, i.stage, if i.dir = .close then .autoRaise else .autoLower, reason⟩

/-! ### The records of operations -/

/-- R31, R32: a stage whose open has been issued, its breaker not yet open. -/
def State.openIssued (s : State) (k : StageId) (cause : Cause) (intent : Nat) : Stage :=
  { s.stage k with
    state := .opening, lastCause := cause, disc := none, openOut := true
    op := some ⟨.opening, cause, intent, s.ms, none⟩
    pulse := some (s.cfg k).pulseWidth, window := some (s.cfg k).operateWindow }

/-- R32, R34: a stage whose open has completed at its issue, its breaker open already. -/
def State.openCompleted (s : State) (k : StageId) (cause : Cause) : Stage :=
  { s.stage k with
    state := if (s.stage k).tripLatch then .lockout else .discharging
    lastCause := cause, disc := none, openOut := false, op := none, pulse := none, window := none
    discharge := s.fullDischarge k }

/-- The record after an open is issued, by the breaker's position. -/
def State.openTaken (s : State) (k : StageId) (cause : Cause) (intent : Nat) : Stage :=
  if s.position k = .opened then s.openCompleted k cause else s.openIssued k cause intent

/-- R30, R32, R59: a stage whose close has been issued, its breaker not yet closed, its duty list pruned by the test. -/
def State.closeIssued (s : State) (k : StageId) (cause : Cause) (intent : Nat) : Stage :=
  { s.stage k with
    state := .closing, lastCause := cause, disc := none, closeOut := true
    op := some ⟨.close, cause, intent, s.ms, none⟩
    pulse := some (s.cfg k).pulseWidth, window := some (s.cfg k).operateWindow
    duty := pruneDuty s.seconds (s.stage k).duty ++ [s.seconds] }

/-- R37, R39: an operation without an intent number takes the request's. -/
def Operation.numbered (op : Operation) (intent : Nat) : Operation :=
  { op with intent := if intent ≠ 0 ∧ op.intent = 0 then intent else op.intent }

/-- R37: a stage in CLOSING whose close an open request cuts. A cut cause already there gives way to a protective one. -/
def Stage.cutBy (r : Stage) (op : Operation) (cause : Cause) (intent : Nat) : Stage :=
  let taken := op.cut = none ∨ cause.protective = true
  { r with
    closeOut := false, pulse := none
    op := some { op.numbered intent with cut := if taken then some cause else op.cut }
    lastCause := if taken then cause else r.lastCause }

/-- R39: a stage in OPENING that absorbs an open request. A protective cause becomes the operation's. -/
def Stage.absorbs (r : Stage) (op : Operation) (cause : Cause) (intent : Nat) : Stage :=
  { r with
    op := some { op.numbered intent with cause := if cause.protective then cause else op.cause }
    lastCause := if cause.protective then cause else r.lastCause }

/-! ### Arriving frames -/

/-- The record at the head of the ring is a frame of the row from a yard that the Peer View holds as `e`, and R136 or R137
accepts it. -/
structure YardTaken (s : State) (want : Taken) (f : Frame) (e : Peer) : Prop where
  head : s.head want = some f
  other : f.sender ≠ s.settings.station
  known : findPeer f.sender s.pv.entries = some e
  new : f.start = true ∨ isNew (seqDiff f.seq e.lastSeq) = true

/-- R136, R137: the sequence tracking of an accepted frame. -/
def Peer.tracked (f : Frame) (e : Peer) : Peer :=
  if f.start then { e with lastSeq := f.seq, missed := 0 } else e.track f.seq

/-- R137, R149: the heard-intent records after the judgement of an accepted frame that is no INTENT. -/
def heardAfter (f : Frame) (l : List Heard) : List Heard := if f.start then l.filter (·.sender ≠ f.sender) else l

/-- The record at the head of the ring is an ORDER of the row, new for its panel (R138), addressed to this part (R188
step 1). -/
structure OrderHeard (s : State) (want : Taken) (f : Frame) : Prop where
  head : s.head want = some f
  new : (s.pv.panels.getD (f.sender - 0x40) ⟨false, 0⟩).valid = false ∨ f.start = true ∨
    isNew (seqDiff f.seq (s.pv.panels.getD (f.sender - 0x40) ⟨false, 0⟩).lastSeq) = true
  addressed : s.addressed f.order.dest = true

/-- It also passes R188 steps 2 and 3. -/
structure OrderTaken (s : State) (code : Nat) (f : Frame) : Prop extends OrderHeard s (.order code) f where
  permitted : s.panelPermitted f.order.panel = true
  form : f.order.formOk = true

/-- The commands that take an ORDER of one of the ten codes. -/
def orderCommand : Nat → Instr
  | 1 => .orderClose
  | 2 => .orderOpen
  | 3 => .orderMode
  | 4 => .orderBlockSet
  | 5 => .orderBlockClear
  | 6 => .orderResetStage
  | 7 => .orderCaptureNull
  | 8 => .orderSequence
  | 9 => .orderStopSequence
  | _ => .orderReport

/-- R138, R175: the panel's duplicate record taken, the head of the ring freed. -/
def State.judged (s : State) (f : Frame) : State :=
  { s with pv.panels := s.pv.panels.set (f.sender - 0x40) ⟨true, f.seq⟩, lc.ring := s.lc.ring.tail }

/-- R81: what an accepted OUTCOME of this result, direction and position does at the Voltage Controller, and with it at the own
intent. Only an EXECUTED one from within far reach does anything: it starts the peer settle; WATCHING goes to QUIET; a proposal of its
direction is withdrawn. In any other state, and for a proposal of the other direction, the controller stays as it was. -/
structure PeerSwitchingTaken (result : Nat) (dir : Direction) (position : Nat) (s t : State) : Prop where
  ignored : result ≠ 1 ∨ s.settings.farReach < distance position s.settings.position →
    t.vc = s.vc ∧ t.ix = s.ix ∧ t.lc = { s.lc with ring := s.lc.ring.tail }
  settle : result = 1 → distance position s.settings.position ≤ s.settings.farReach →
    t.vc.peerSettle = some (1000 * s.settings.peerSettle)
  watching : result = 1 → distance position s.settings.position ≤ s.settings.farReach → s.vc.state = .watching →
    t.vc.state = .quiet ∧ t.vc.low = 0 ∧ t.vc.high = 0 ∧
    t.vc.stationSettle = some (1000 * s.settings.stationSettle) ∧ t.ix = s.ix
  withdrawn : ∀ i, result = 1 → distance position s.settings.position ≤ s.settings.farReach → s.vc.state = .proposing →
    s.ix.own = some i → i.phase ≠ .committed → i.dir = dir →
    t.vc.state = .quiet ∧ t.vc.low = 0 ∧ t.vc.high = 0 ∧ t.ix = { s.ix with own := none } ∧
    t.lc.outcomeSlot = some (withdrawalContent i .peerSwitched)
  kept : result = 1 → distance position s.settings.position ≤ s.settings.farReach →
    s.vc.state = .quiet ∨ s.vc.state = .suspended ∨ s.vc.state = .executing ∨
      (s.vc.state = .proposing ∧ ∀ i, s.ix.own = some i → i.dir ≠ dir) →
    t.vc = { s.vc with peerSettle := some (1000 * s.settings.peerSettle) } ∧ t.ix = s.ix ∧
    t.lc = { s.lc with ring := s.lc.ring.tail }

/-- R160: a heard intent, judged against the own one. It withdraws an own intent of its direction, from within far reach, over
which it has precedence (the greater position, the greater number of equals), and leaves any other. -/
structure PrecedenceJudged (h : Heard) (s t : State) : Prop where
  withdrawn : ∀ i, s.ix.own = some i → i.phase ≠ .committed → i.dir = h.dir →
    distance h.position s.settings.position ≤ s.settings.farReach →
    s.settings.position < h.position ∨ (h.position = s.settings.position ∧ s.settings.station < h.sender) →
    t.ix = { s.ix with own := none } ∧ t.vc.state = .quiet ∧ t.vc.low = 0 ∧ t.vc.high = 0 ∧
    t.lc.outcomeSlot = some (withdrawalContent i .precedence)
  kept : (∀ i, s.ix.own = some i → i.phase = .committed ∨ i.dir ≠ h.dir ∨
      s.settings.farReach < distance h.position s.settings.position ∨ h.position < s.settings.position ∨
      (h.position = s.settings.position ∧ h.sender ≤ s.settings.station)) →
    t.ix = s.ix ∧ t.vc = s.vc ∧ t.lc = { s.lc with ring := s.lc.ring.tail }

/-- An arrival from a yard leaves these: what it may change is the ring, the peer view, the controller, the own intent and the
Line Channel's slots and access. -/
structure ArrivalKept (s t : State) : Prop where
  stages : t.stages = s.stages
  ready : t.ready = s.ready
  inService : t.inService = s.inService
  settings : t.settings = s.settings
  inputs : t.inputs = s.inputs
  block : t.block = s.block
  port : t.port = s.port
  store : t.store = s.store
  blockSet : t.blockSet = s.blockSet
  hm : t.hm = s.hm
  ur : t.ur = s.ur
  oi : t.oi = s.oi
  pending : t.pending = s.pending
  ms : t.ms = s.ms
  phase : t.phase = s.phase
  triggerDelay : t.lc.triggerDelay = s.lc.triggerDelay
  ring : t.lc.ring = s.lc.ring.tail
  causes : t.vc.causes = s.vc.causes
  outputs : t.alarm = s.alarm ∧ t.healthy = s.healthy

/-! ### The line -/

/-- R179: with a slot eligible an attempt begins where there is none: it draws a deferral at once while the medium is idle (log 21),
and awaits the idle medium otherwise. An attempt or a transmission in progress goes on. -/
def AttemptBegins (s t : State) : Prop :=
  if s.lc.access = .noAttempt then
    if s.carrier = false ∧ s.lc.rx.character = false ∧ s.lc.rx.idle = 75 then
      t.lc.lfsr = lfsrDraw s.lc.lfsr ∧
      t.lc.access = .deferring ((lfsrDraw s.lc.lfsr).toNat % 16) (60 * ((lfsrDraw s.lc.lfsr).toNat % 16))
    else t.lc.lfsr = s.lc.lfsr ∧ t.lc.access = .waiting
  else t.lc.lfsr = s.lc.lfsr ∧ t.lc.access = s.lc.access

/-- The sub-samples of a clean character after its start edge (R172): the rest of the start bit at space, eight data bits,
least significant first, of sixteen each, and the stop bit at mark up to its reading. -/
def cleanSamples (b : Byte) : List Bool :=
  List.replicate 15 false ++ ((List.range 8).flatMap fun i => List.replicate 16 (b.getLsbD i)) ++ List.replicate 9 true

/-- What a slot's contents must satisfy to be told apart again in the frame (Table 9-8). -/
def Chosen.fits : Chosen → Prop
  | .intent x => x.number < 256 ∧ x.size < 65536 ∧ x.position < 65536 ∧ x.holdOff < 65536
  | .outcome x => x.number < 256
  | .detail page panel => page ≤ 2 ∧ panel < 256
  | .bulletin => True

/-! ### The contents of a BULLETIN and of a DETAIL (R185, R187) -/

/-- The bits of `x` from bit 0 up are those of the list, and 0 above it. -/
def BitsAre (x : Nat) (l : List Bool) : Prop := ∀ i, testBit x i = l.getD i false

/-- Tables 9-6 and 9-7, read back from a body `b`. -/
structure BulletinRead (s : State) (b : List Byte) : Prop where
  length : b.length = 20 + 4 * s.stageIds.length
  flags : BitsAre (field b 0 2) [s.startMarker, false, s.vc.manual, s.vc.state == .suspended, s.pv.viewFull,
    s.harmAlarm, s.unbAlarm, s.port.lost, s.ix.isolated, s.pv.clash.isSome, s.block.active, s.oi.chain.isSome,
    s.vc.deadLine]
  period : byteAt b 2 = s.settings.period % 256
  position : field b 3 2 = s.settings.position % 65536
  state : byteAt b 5 = s.vc.state.code
  vctl : field b 6 2 = s.store.vctl % 65536
  figure : field b 8 2 = s.figure % 65536
  index : byteAt b 10 = s.presentIndex
  thd : field b 11 2 = s.store.thd % 65536
  unserved : byteAt b 13 = s.vc.unserved.code
  intent : (s.ix.own = none → byteAt b 14 = 0) ∧ ∀ i, s.ix.own = some i → byteAt b 14 = i.number % 256
  order : byteAt b 15 = s.oi.last.panel % 256 ∧ byteAt b 16 = s.oi.last.tag % 256 ∧
    byteAt b 17 = s.oi.last.outcome.code ∧ byteAt b 18 = s.oi.last.detail % 256
  stageCount : byteAt b 19 = s.settings.stageCount % 256
  stage : ∀ k, s.configured k = true →
    let o := 20 + 4 * (k.num - 1)
    let r := s.stage k
    byteAt b o = r.state.code ∧ byteAt b (o + 1) = r.lastCause.code ∧
    field b (o + 2) 2 = (r.discharge + 999) / 1000 % 65536

/-- Table 9-8, read back from an INTENT's body `b`, each field within its width. -/
structure IntentRead (x : IntentContent) (marker : Bool) (b : List Byte) : Prop where
  length : b.length = 8
  number : byteAt b 0 = x.number % 256
  stage : byteAt b 1 % 8 = x.stage.num
  dir : directionOf (byteAt b 1) = x.dir
  start : testBit (byteAt b 1) 7 = marker
  size : field b 2 2 = x.size % 65536
  position : field b 4 2 = x.position % 65536
  holdOff : field b 6 2 = x.holdOff % 65536

/-- R187: the page byte, its other bits 0 (R184); the parts of 16 bytes after the station part number `parts`. -/
structure PageRead (s : State) (page parts : Nat) (d : List Byte) : Prop where
  length : d.length = 20 + 16 * parts
  page : byteAt d 0 % 4 = page
  start : testBit (byteAt d 0) 7 = s.startMarker
  others : byteAt d 0 / 4 % 32 = 0

/-- R71: the reason code `b` that DETAIL records (log 35): that of a chain that ended REFUSED, else one that is reported, and 0 exactly
when none is. -/
structure ReasonRecorded (s : State) (b : Nat) : Prop where
  refusedStep : s.oi.stepReason ≠ .none → b = s.oi.stepReason.code
  reported : s.oi.stepReason = .none → b ≠ 0 → b = s.vc.unserved.code ∨
    (∃ x, s.lc.outcomeSlot = some x ∧ b = x.reason.code) ∨
    ((s.oi.last.outcome = .refused ∨ s.oi.last.outcome = .failed) ∧ b = s.oi.last.detail % 256)
  none : s.oi.stepReason = .none → (b = 0 ↔ s.vc.unserved = .none ∧
    (∀ x, s.lc.outcomeSlot = some x → x.reason = .none) ∧
    (s.oi.last.outcome = .refused ∨ s.oi.last.outcome = .failed → s.oi.last.detail % 256 = 0))

/-- Table 9-10, station part. The accumulators are read back where they stand within their bound (R78), the busy count
where it stands within 0..3 (R97); the delay of an OPERATING chain is log 39, the reason
code in place of the delay of no chain log 35. -/
structure SupervisionStation (s : State) (d : List Byte) : Prop where
  causes : BitsAre (byteAt d 1) [s.vc.causes.manual, s.vc.causes.blockInput, s.vc.causes.chainActive,
    s.vc.causes.measLost, s.vc.causes.deadLine, s.vc.causes.listenIn]
  ready : ∀ i, i < 4 → field d 2 2 / 16 ^ (3 - i) % 16 = (s.ready.map StageId.num).getD i 0
  inService : ∀ i, i < 4 → field d 4 2 / 16 ^ (3 - i) % 16 = (s.inService.map StageId.num).getD i 0
  blockSet : BitsAre (byteAt d 6) s.blockSet.toList
  noIntent : s.ix.own = none → byteAt d 7 = 0 ∧ byteAt d 8 = 0
  intent : ∀ i, s.ix.own = some i → byteAt d 7 = i.number % 256 ∧ byteAt d 8 / 64 = i.phase.code ∧
    directionOf (byteAt d 8) = i.dir ∧ byteAt d 8 % 8 = i.stage.num
  busyCount : s.ix.busyCount ≤ 3 → byteAt d 9 % 4 = s.ix.busyCount ∧ testBit (byteAt d 9) 7 = s.ix.isolated
  noChain : s.oi.chain = none → byteAt d 10 = s.oi.stepIndex % 256 ∧ byteAt d 11 = 0 ∧ ReasonRecorded s (byteAt d 12)
  chain : ∀ c, s.oi.chain = some c →
    byteAt d 10 = c.index % 256 ∧ field d 11 2 = (if c.operating then 0 else c.delay) % 65536
  accumulator : s.vc.low ≤ 500000 → s.vc.high ≤ 500000 →
    field d 13 3 % 2 ^ 19 = (if s.vc.high = 0 then s.vc.low else s.vc.high) ∧
    (testBit (field d 13 3) 23 = true ↔ s.vc.high ≠ 0)
  settles : (s.vc.stationSettle = none → field d 16 2 = 0) ∧ (s.vc.peerSettle = none → field d 18 2 = 0) ∧
    (∀ n, s.vc.stationSettle = some n → field d 16 2 = (n + 99) / 100 % 65536) ∧
    ∀ n, s.vc.peerSettle = some n → field d 18 2 = (n + 99) / 100 % 65536

/-- Table 9-10, the part of a configured stage. The number of duty entries and the oldest of them are those of the list as it
stands, an entry made since the latest pruning among them (R59; log 13). -/
structure SupervisionStage (s : State) (d : List Byte) (k : StageId) (o : Nat) : Prop where
  state : byteAt d o % 8 = (s.stage k).state.code
  fault : byteAt d o / 8 % 4 = match (s.stage k).state with
    | .fault .failToClose => 1
    | .fault .failToOpen => 2
    | .fault (.discrepancy _) => 3
    | _ => 0
  latch : testBit (byteAt d o) 5 = (s.stage k).tripLatch
  connected : testBit (byteAt d o) 6 = (s.stage k).connected
  attention : testBit (byteAt d o) 7 = (s.inputs.get k).attention.active
  position : byteAt d (o + 1) % 4 = (s.position k).code
  outputs : testBit (byteAt d (o + 1)) 2 = (s.stage k).closeOut ∧ testBit (byteAt d (o + 1)) 3 = (s.stage k).openOut
  duty : byteAt d (o + 2) = (s.stage k).duty.length % 256
  lastCause : byteAt d (o + 3) = (s.stage k).lastCause.code
  discharge : field d (o + 4) 2 = ((s.stage k).discharge + 999) / 1000 % 65536
  times : field d (o + 6) 2 = (s.stage k).lastClose % 65536 ∧ field d (o + 8) 2 = (s.stage k).lastOpen % 65536
  oldestDuty : field d (o + 10) 4 = (s.stage k).duty.headD 0 % 4294967296
  discrepancy : ((s.stage k).disc = none → field d (o + 14) 2 = 0) ∧
    ∀ x, (s.stage k).disc = some x → field d (o + 14) 2 = x.elapsed % 65536

/-- What a page gives for slot `i`: the figure of a used slot, 0 for an unused one (R187). -/
def slotFigure (c : Settings) (x : Six Nat) (i : Nat) : Nat :=
  if ((c.slots.toList.map Slot.order).getD i none).isSome then x.toList.getD i 0 else 0

/-- Table 9-11. -/
structure MeasurementRead (s : State) (d : List Byte) : Prop where
  marks : BitsAre (byteAt d 1) [s.port.lost, s.store.weak, s.store.clipped.va, s.store.clipped.vb, s.store.clipped.vc]
  voltage : field d 2 2 = s.store.vctl % 65536 ∧ field d 4 2 = s.store.vhi % 65536
  thd : field d 6 2 = s.store.thd % 65536
  slots : ∀ i, i < 6 → field d (8 + 2 * i) 2 = slotFigure s.settings s.store.h i % 65536
  phase : ∀ j p, s.store.phases.toList[j]? = some p →
    let o := 20 + 16 * j
    field d o 2 = p.v % 65536 ∧ field d (o + 2) 2 = p.thd % 65536 ∧
    ∀ i, i < 6 → field d (o + 4 + 2 * i) 2 = slotFigure s.settings (p.slots.map SlotFigures.h) i % 65536

/-- Table 9-12, station part. -/
structure LinePageStation (s : State) (d : List Byte) : Prop where
  alarms : BitsAre (byteAt d 1)
    ((Six.zipWith (fun sl a => sl.order.isSome && a.alarm) s.settings.slots s.hm.slots).toList ++ [s.hm.thdAlarm])
  watch : BitsAre (byteAt d 2) s.watch.toList
  qEff : field d 3 2 = s.qEff % 65536
  index : byteAt d 5 = s.presentIndex
  peers : byteAt d 6 = s.pv.entries.length % 256
  fresh : byteAt d 7 = (s.pv.entries.filter fun e => !e.stale).length % 256
  missed : (s.pv.entries = [] → byteAt d 8 = 0) ∧ ∀ e ∈ s.pv.entries, e.missed ≤ 255 →
    (∀ x ∈ s.pv.entries, x.missed ≤ e.missed) → byteAt d 8 = e.missed
  heard : byteAt d 9 = s.pv.heard.length % 256
  noCapture : s.ur.capture = none → byteAt d 10 = 0
  capture : ∀ c, s.ur.capture = some c → c.count ≤ 16 → byteAt d 10 % 8 = c.stage.num ∧ byteAt d 10 / 8 = c.count
  counts : field d 11 2 = s.lc.stats.good % 65536 ∧ field d 13 2 = s.lc.stats.crc % 65536 ∧
    byteAt d 15 = s.lc.stats.format % 256 ∧ byteAt d 16 = s.lc.stats.noise % 256 ∧
    byteAt d 17 = s.lc.stats.framing % 256 ∧ byteAt d 18 = s.lc.stats.long % 256 ∧
    byteAt d 19 / 16 = min 15 s.lc.stats.overrun ∧ byteAt d 19 % 16 = min 15 s.lc.stats.clash

/-- Table 9-12, the part of a configured stage; the phasors are those of a store and a null in range (R14, R197). -/
structure LinePageStage (s : State) (d : List Byte) (k : StageId) (o : Nat) : Prop where
  phasors : ∀ i x, ([(s.store.neutral.get k).re, (s.store.neutral.get k).im, (s.ur.entries.get k).null.re,
    (s.ur.entries.get k).null.im] : List Int)[i]? = some x → x.natAbs < 2 ^ 23 → signed24 (field d (o + 3 * i) 3) = x
  latestU : field d (o + 12) 2 = (s.ur.entries.get k).latestU % 65536
  blanking : byteAt d (o + 14) = (s.ur.entries.get k).blanking % 256
  flags : BitsAre (byteAt d (o + 15)) [(s.ur.entries.get k).alarm, s.store.clipped.n.get k,
    (s.ur.entries.get k).inService, (s.ur.entries.get k).tripSent]

/-! ### The Stage Supervisor (R26, R32, R48, Table 2-1) -/

/-- One stage: the outputs are never on together; the close output is on in CLOSING alone; the open output is on in
OPENING, or in the FALLBACK pulse (R199); an operation is present in CLOSING and OPENING alone; in READY the
discharge remaining is 0 (R56). -/
structure StageSafe (phase : Phase) (r : Stage) : Prop where
  closeOut : r.closeOut = true → r.state = .closing
  openOut : r.openOut = true → r.state = .opening ∨ phase = .fallback
  oper : r.op.isSome = true ↔ r.state = .closing ∨ r.state = .opening
  rested : r.state = .ready → r.discharge = 0
  /-- R25, R199: before the end of the presence probe a stage is at its starting state. -/
  start : phase ≠ .running → r.state = .absent

/-- R48: the ready list holds exactly the stages in READY and the in-service list exactly those in CLOSED, each once. -/
structure ListsAgree (s : State) : Prop where
  ready : ∀ k, k ∈ s.ready ↔ (s.stage k).state = .ready
  inService : ∀ k, k ∈ s.inService ↔ (s.stage k).state = .closed
  readyOnce : s.ready.Nodup
  inServiceOnce : s.inService.Nodup

/-- The invariant of the Stage Supervisor. A stage that is not configured is at its starting state; at most one
stage is in CLOSING (R65). -/
structure StagesSafe (s : State) : Prop where
  each : ∀ k, StageSafe s.phase (s.stage k)
  lists : ListsAgree s
  configured : ∀ k, (s.stage k).state ≠ .absent → s.configured k = true
  oneClosing : ∀ j k, (s.stage j).state = .closing → (s.stage k).state = .closing → j = k

/-- R32: the close output and the open output of one stage are never on together. -/
def State.outputsApart (s : State) : Prop := ∀ k, ¬((s.stage k).closeOut = true ∧ (s.stage k).openOut = true)

/-! ### The collections (R133, R139, R146, R175, R177) -/

/-- The peer view holds at most 12 entries, no two with the same station number, none with the own number and none
with an address that is no yard's (R139); at most 4 heard intents, one per sender (R146); 8 panel records; at most
4 records in the receive ring (R175). A Line Channel that has not begun work has heard nothing. -/
structure CollectionsBounded (s : State) : Prop where
  peers : s.pv.entries.length ≤ 12
  onePerStation : (s.pv.entries.map Peer.station).Nodup
  yards : ∀ e ∈ s.pv.entries, isYard e.station = true ∧ e.station ≠ s.settings.station
  heard : s.pv.heard.length ≤ 4
  onePerSender : (s.pv.heard.map Heard.sender).Nodup
  panels : s.pv.panels.length = 8
  ring : s.lc.ring.length ≤ 4
  silent : s.lc.working = false → s.pv.entries = [] ∧ s.lc.ring = []
  working : s.lc.working = true → s.phase = .running

/-! ### The status outputs (R201) -/

/-- From the end of the image check on, ALARM and HEALTHY stand as their conditions say; before it both are off. Before
work begins measurement is LOST (R11), and the Sampler Port is not at work. -/
structure StatusFollows (s : State) : Prop where
  judged : s.phase = .running ∨ s.phase = .fallback ∨ (∃ n, s.phase = .probing n) →
    s.alarm = s.alarmDue ∧ s.healthy = s.healthyDue
  off : s.phase = .held ∨ (∃ n, s.phase = .reading n) → s.alarm = false ∧ s.healthy = false
  lost : s.phase ≠ .running → s.port.lost = true
  working : s.port.working = true → s.phase = .running

/-! ### The accumulators (R78) -/

/-- LOW and HIGH each stay within 0..A, and at no time are both nonzero. Before work begins both are 0. -/
structure AccumulatorsBounded (s : State) : Prop where
  low : s.vc.low ≤ s.settings.threshold
  high : s.vc.high ≤ s.settings.threshold
  one : s.vc.low = 0 ∨ s.vc.high = 0
  before : s.port.working = false → s.vc.low = 0 ∧ s.vc.high = 0
  working : s.port.working = true → s.phase = .running

end Sys2Proof.Machine
end

