-- ==== Sys2Proof/Certificates/Slice0/Obligations.lean ====
section
/-! DEFINITION. The statements for the provers, in the order of OBLIGATIONS.json. Each docstring names the rules of the
spec it rests on, and the log entry where a clause is the model's choice. -/

open Sys2Proof Sys2Proof.Machine

/-! ### The queue, the idle step -/

/-- 95_what_each_step_holds, 00_scope 0.6: a step is exactly the command at the front, on the state with the rest
of the queue. -/
def Obligations.StepRunsFrontCommand : Prop :=
  ∀ (c : Instr) (s : State), step { s with pending := c :: s.pending } = exec c s

/-- The spec gives no event that stops the part (00_scope 0.5, 95_what_each_step_holds): every command of the table completes
in every state, and leaves the queue as it was. The model's choice: an event whose cause the state does not hold changes nothing
(log 2), and a start keeps the queue (log 23). -/
def Obligations.EveryCommandCompletes : Prop :=
  ∀ (c : Instr) (s : State), ∃ t, exec c s = .next t ∧ t.pending = s.pending

/-- The model's choice (log 3): with no command waiting, a started part puts the first due event in the queue, or, when
none is due, lets one millisecond pass, by which no output, stage state or list changes. R56, R58: the millisecond that ends the
countdown of a DISCHARGING stage queues its end, and leaves the figure above 0. -/
def Obligations.IdleStepQueuesOrCounts : Prop :=
  ∀ s : State, s.pending = [] → s.phase ≠ .held → ∃ t, step s = .next t ∧
    (∀ i rest, s.due = i :: rest → t = { s with pending := [i] }) ∧
    (s.due = [] → t.ms = s.ms + 1 ∧ t.ready = s.ready ∧ t.inService = s.inService ∧ t.alarm = s.alarm ∧
      t.healthy = s.healthy ∧ t.blockSet = s.blockSet ∧ t.store = s.store ∧ t.hm = s.hm ∧ t.ur = s.ur ∧
      t.settings = s.settings ∧
      (∀ k, Instr.dischargeEnd k ∈ t.pending ↔
        s.configured k = true ∧ (s.stage k).state = .discharging ∧ (s.stage k).discharge = 1) ∧
      ∀ k, (t.stage k).state = (s.stage k).state ∧ (t.stage k).closeOut = (s.stage k).closeOut ∧
        (t.stage k).openOut = (s.stage k).openOut ∧ (t.stage k).tripLatch = (s.stage k).tripLatch ∧
        (t.stage k).op = (s.stage k).op ∧ (t.stage k).duty = (s.stage k).duty ∧
        ((s.stage k).state = .discharging → 0 < (s.stage k).discharge → 0 < (t.stage k).discharge))

/-! ### Start (11) -/

/-- R195 (starting values of log 9): power-on, and the release of the reset input, clear every block to its starting
state, latch the strap and begin the image read. While the reset input is active every command output, ALARM and HEALTHY are
off, the modem is unkeyed and every block is at its starting state. The model's choice: the levels at the inputs and the queue
stay (log 24, log 23), a power-on under the reset input changes nothing more (log 10), and the strap keeps its value under it
(log 40). -/
def Obligations.StartsAndResets : Prop :=
  (∀ (strap : Strap) (s : State), s.resetInput = false →
    exec (.powerOn strap) s = .next { State.reset with
      pending := s.pending, pins := s.pins, carrier := s.carrier, strap := strap, phase := .reading 200 }) ∧
  (∀ (strap : Strap) (s : State), s.resetInput = true →
    exec (.resetRelease strap) s = .next { State.reset with
      pending := s.pending, pins := s.pins, carrier := s.carrier, strap := strap, phase := .reading 200 }) ∧
  (∀ s : State, exec .externalReset s = .next { State.reset with
    pending := s.pending, resetInput := true, pins := s.pins, carrier := s.carrier, strap := s.strap }) ∧
  (∀ (strap : Strap) (s : State), s.resetInput = true → exec (.powerOn strap) s = exec .externalReset s) ∧
  (∀ s t : State, exec .externalReset s = .next t →
    t.alarm = false ∧ t.healthy = false ∧ t.lc.access = .noAttempt ∧ t.phase = .held ∧
    ∀ k, (t.stage k).closeOut = false ∧ (t.stage k).openOut = false ∧ (t.stage k).op = none)

/-- R6, R196: what an image must satisfy to pass its check: all bytes delivered, the checksum, a stage count of 1 to 4,
a yard's station number, and a channel map in which no function stands twice, each phase stands, and the neutral of each
configured stage stands. -/
def Obligations.ImageCheckPasses : Prop :=
  ∀ img : List Byte, imageOk img = true ↔
    256 ≤ img.length ∧ (((img.take 254).map BitVec.toNat).sum + field img 254 2) % 65536 = 0 ∧
    1 ≤ byteAt img 2 ∧ byteAt img 2 ≤ 4 ∧ 1 ≤ byteAt img 0 ∧ byteAt img 0 ≤ 62 ∧
    (∀ i, i < 8 → byteAt img (12 + i) % 128 ≤ 7) ∧
    (∀ i j, i < j → j < 8 → byteAt img (12 + i) % 128 = byteAt img (12 + j) % 128 → byteAt img (12 + i) % 128 = 0) ∧
    (∀ c, 1 ≤ c → c ≤ 3 + byteAt img 2 → ∃ i, i < 8 ∧ byteAt img (12 + i) % 128 = c)

/-- R196, R197, R200, R50, R72, R132, R171: an image that passes is copied, clamped, to the settings; the block set, the
mode, the null phasors and the LFSR seed are taken from it; the presence probe begins. -/
def Obligations.ImageCheckInstalls : Prop :=
  ∀ (img : List Byte) (s : State), s.isReading = true → imageOk img = true →
    ∃ t, exec (.imageCheck img) s = .next t ∧ t.settings = readSettings img ∧ t.phase = .probing 500 ∧
      t.blockSet = (readSettings img).blockSet ∧ t.vc.manual = (readSettings img).initialManual ∧
      t.vc.causes = s.vc.causes.put .manual (readSettings img).initialManual ∧
      (∀ k, (t.ur.entries.get k).null =
        ⟨((readSettings img).stages.get k).nullRe, ((readSettings img).stages.get k).nullIm⟩) ∧
      t.lc = { s.lc with lfsr := BitVec.ofNat 16 ((readSettings img).station * 257) } ∧
      t.stages = s.stages ∧ t.ready = s.ready ∧ t.inService = s.inService ∧ t.inputs = s.inputs ∧ t.block = s.block ∧
      t.port = s.port ∧ t.store = s.store ∧ t.hm = s.hm ∧ t.pv = s.pv ∧ t.ix = s.ix ∧ t.oi = s.oi ∧ t.ms = s.ms ∧
      t.strap = s.strap ∧ t.pins = s.pins ∧ t.carrier = s.carrier ∧ t.pending = s.pending ∧ t.alarm = t.alarmDue ∧
      t.healthy = t.healthyDue

/-- R197, R198, R98: whatever bytes the image held, each setting of a working copy is the clamp of the bytes of Table 11-2 it is
read from, a field of several bytes high byte first, the null phasor signed, far reach not below near reach; an order that stands
in an earlier slot leaves its slot unused; a group is an own group or none. So every clamped field stands in its range (Tables
4-1, 5-1, 6-1, 11-1), those of a stage for a configured stage, and no order stands in two slots. -/
def Obligations.SettingsInRange : Prop :=
  (∀ img : List Byte,
    let c := readSettings img
    c.station = byteAt img 0 ∧ c.stageCount = byteAt img 2 ∧ c.panelMask.toNat = byteAt img 3 ∧
    c.group = (if 0xE0 ≤ byteAt img 1 ∧ byteAt img 1 ≤ 0xE7 then some (byteAt img 1) else none) ∧
    (c.initialManual = true ↔ byteAt img 4 ≠ 0) ∧
    (∀ k, c.blockSet.get k = true ↔ testBit (byteAt img 5) (k.num - 1) = true ∧ k.num ≤ byteAt img 2) ∧
    c.position = field img 6 2 ∧ c.bitRateCode = min 3 (byteAt img 8) ∧ c.keyUp = min 100 (byteAt img 9) ∧
    c.period = max 4 (min 60 (byteAt img 10)) ∧ c.holdOff = max 10 (min 100 (byteAt img 11)) ∧
    (∀ i, i < 8 → c.channels[i]? =
      some ⟨signalOf (byteAt img (12 + i) % 128), testBit (byteAt img (12 + i)) 7⟩) ∧
    (List.range 8).map signalOf =
      [none, some .va, some .vb, some .vc, some (.n .s1), some (.n .s2), some (.n .s3), some (.n .s4)] ∧
    c.sense = BitVec.ofNat 13 (field img 20 2) ∧
    c.nominal.a = max 4000 (min 30000 (field img 22 2)) ∧ c.nominal.b = max 4000 (min 30000 (field img 24 2)) ∧
    c.nominal.c = max 4000 (min 30000 (field img 26 2)) ∧
    c.vset = max 900 (min 1100 (field img 28 2)) ∧ c.halfBand = max 5 (min 60 (byteAt img 30)) ∧
    c.decay = min 50 (byteAt img 31) ∧ c.threshold = max 200 (min 500000 (field img 32 3)) ∧
    c.stationSettle = max 10 (min 300 (field img 35 2)) ∧ c.peerSettle = max 5 (min 120 (byteAt img 37)) ∧
    c.fastOv = max 1050 (min 1250 (field img 38 2)) ∧ c.restoreTime = max 60 (min 3000 (field img 40 2)) ∧
    c.nearReach = min 2000 (field img 42 2) ∧ c.farReach = max c.nearReach (min 4000 (field img 44 2)) ∧
    (∀ (i : Nat) (slot : Slot), c.slots.toList[i]? = some slot →
      slot.limit = max 5 (min 200 (byteAt img (52 + i))) ∧ slot.watch = max 2 (min 100 (byteAt img (58 + i))) ∧
      slot.order = (if byteAt img (46 + i) = 0 ∨ ∃ j, j < i ∧ byteAt img (46 + j) ≠ 0 ∧
          max 2 (min 15 (byteAt img (46 + j))) = max 2 (min 15 (byteAt img (46 + i)))
        then none else some (max 2 (min 15 (byteAt img (46 + i)))))) ∧
    c.thdLimit = max 10 (min 300 (field img 64 2)) ∧ c.persistence = max 10 (min 600 (field img 66 2)) ∧
    c.hysteresis = max 1 (min 20 (byteAt img 68)) ∧ c.shedDelay = max 600 (min 36000 (field img 69 2)) ∧
    c.guard = max 1 (min 9 (byteAt img 71)) ∧ c.ssc = max 10 (min 20000 (field img 72 2)) ∧
    ∀ k : StageId, k.num ≤ byteAt img 2 →
      let b := 80 + 32 * (k.num - 1)
      let r := c.stages.get k
      r.size = max 1 (min 500 (field img b 2)) ∧ r.dischargeTime = max 60 (min 900 (field img (b + 2) 2)) ∧
      r.dutyLimit = max 1 (min 16 (byteAt img (b + 4))) ∧ r.pulseWidth = max 20 (min 500 (field img (b + 5) 2)) ∧
      r.operateWindow = max 60 (min 1000 (field img (b + 7) 2)) ∧
      r.discrepancyTime = max 20 (min 500 (field img (b + 9) 2)) ∧
      r.alarmLevel = max 16 (min 30000 (field img (b + 11) 2)) ∧
      r.alarmDelay = max 10 (min 3000 (field img (b + 13) 2)) ∧
      r.tripLevel = max 16 (min 30000 (field img (b + 15) 2)) ∧
      r.tripDelay = max 2 (min 3000 (field img (b + 17) 2)) ∧ r.blanking = max 10 (min 120 (byteAt img (b + 19))) ∧
      r.nullRe = max (-65535) (min 65535 (signed24 (field img (b + 20) 3))) ∧
      r.nullIm = max (-65535) (min 65535 (signed24 (field img (b + 23) 3)))) ∧
  ∀ (img : List Byte) (k : StageId), k.num ≤ (readSettings img).stageCount →
    let c := readSettings img
    let r := c.stages.get k
    (∀ g, c.group = some g → 0xE0 ≤ g ∧ g ≤ 0xE7) ∧ c.bitRateCode ≤ 3 ∧ c.keyUp ≤ 100 ∧
    4 ≤ c.period ∧ c.period ≤ 60 ∧ 10 ≤ c.holdOff ∧ c.holdOff ≤ 100 ∧
    4000 ≤ c.nominal.a ∧ c.nominal.a ≤ 30000 ∧ 4000 ≤ c.nominal.b ∧ c.nominal.b ≤ 30000 ∧
    4000 ≤ c.nominal.c ∧ c.nominal.c ≤ 30000 ∧
    900 ≤ c.vset ∧ c.vset ≤ 1100 ∧ 5 ≤ c.halfBand ∧ c.halfBand ≤ 60 ∧ c.decay ≤ 50 ∧
    200 ≤ c.threshold ∧ c.threshold ≤ 500000 ∧ 10 ≤ c.stationSettle ∧ c.stationSettle ≤ 300 ∧
    5 ≤ c.peerSettle ∧ c.peerSettle ≤ 120 ∧ 1050 ≤ c.fastOv ∧ c.fastOv ≤ 1250 ∧
    60 ≤ c.restoreTime ∧ c.restoreTime ≤ 3000 ∧ c.nearReach ≤ 2000 ∧ c.nearReach ≤ c.farReach ∧ c.farReach ≤ 4000 ∧
    (∀ sl ∈ c.slots.toList, (∀ h, sl.order = some h → 2 ≤ h ∧ h ≤ 15) ∧ 5 ≤ sl.limit ∧ sl.limit ≤ 200 ∧
      2 ≤ sl.watch ∧ sl.watch ≤ 100) ∧
    ((c.slots.toList.filterMap Slot.order).Nodup) ∧
    10 ≤ c.thdLimit ∧ c.thdLimit ≤ 300 ∧ 10 ≤ c.persistence ∧ c.persistence ≤ 600 ∧
    1 ≤ c.hysteresis ∧ c.hysteresis ≤ 20 ∧ 600 ≤ c.shedDelay ∧ c.shedDelay ≤ 36000 ∧ 1 ≤ c.guard ∧ c.guard ≤ 9 ∧
    10 ≤ c.ssc ∧ c.ssc ≤ 20000 ∧
    1 ≤ r.size ∧ r.size ≤ 500 ∧ 60 ≤ r.dischargeTime ∧ r.dischargeTime ≤ 900 ∧ 1 ≤ r.dutyLimit ∧ r.dutyLimit ≤ 16 ∧
    20 ≤ r.pulseWidth ∧ r.pulseWidth ≤ 500 ∧ 60 ≤ r.operateWindow ∧ r.operateWindow ≤ 1000 ∧
    20 ≤ r.discrepancyTime ∧ r.discrepancyTime ≤ 500 ∧ 16 ≤ r.alarmLevel ∧ r.alarmLevel ≤ 30000 ∧
    10 ≤ r.alarmDelay ∧ r.alarmDelay ≤ 3000 ∧ 16 ≤ r.tripLevel ∧ r.tripLevel ≤ 30000 ∧
    2 ≤ r.tripDelay ∧ r.tripDelay ≤ 3000 ∧ 10 ≤ r.blanking ∧ r.blanking ≤ 120 ∧
    -65535 ≤ r.nullRe ∧ r.nullRe ≤ 65535 ∧ -65535 ≤ r.nullIm ∧ r.nullIm ≤ 65535

/-- R199: an image that fails its check, or a read that is not complete in time, enters FALLBACK: the open outputs of all
four stages turn on for 100 ms, the close outputs are off, FALLBACK joins the suspension causes, ALARM is on and HEALTHY
off. At the end of the 100 ms the open outputs turn off, and nothing else changes. The model's choice (log 19): the mode and the
MANUAL cause are not taken from the failed image. -/
def Obligations.FallbackOpensAll : Prop :=
  (∀ (c : Instr) (s : State), s.isReading = true →
     (c = .imageReadTimeout ∨ ∃ img, imageOk img = false ∧ c = .imageCheck img) →
     ∃ t, exec c s = .next t ∧ t.phase = .fallback ∧ t.fallbackPulse = some 100 ∧ t.alarm = true ∧ t.healthy = false ∧
       t.vc = { s.vc with causes := { s.vc.causes with fallback := true } } ∧
       (∀ k, t.stage k = { s.stage k with openOut := true, closeOut := false }) ∧
       t.ready = s.ready ∧ t.inService = s.inService ∧ t.settings = s.settings ∧ t.blockSet = s.blockSet ∧
       t.inputs = s.inputs ∧ t.block = s.block ∧ t.port = s.port ∧ t.store = s.store ∧ t.hm = s.hm ∧ t.ur = s.ur ∧
       t.pv = s.pv ∧ t.ix = s.ix ∧ t.lc = s.lc ∧ t.oi = s.oi ∧ t.ms = s.ms ∧ t.strap = s.strap ∧ t.pins = s.pins ∧
       t.carrier = s.carrier ∧ t.pending = s.pending) ∧
  (∀ (s : State) (n : Nat), s.fallbackPulse = some n →
     ∃ t, exec .fallbackPulseEnd s = .next t ∧ (∀ k, t.stage k = { s.stage k with openOut := false }) ∧
       t = { s with fallbackPulse := none, stages := t.stages })

/-- Table 11-3, R200: a configured stage whose position contacts were seen takes its state from the position at the end of
the probe; one never seen is ABSENT. -/
def Obligations.ProbeTakesPositions : Prop :=
  ∀ (s : State) (n : Nat), s.phase = .probing n →
    ∃ t, exec .presenceProbeEnd s = .next t ∧ t.phase = .running ∧
      (∀ k, s.configured k = false → t.stage k = s.stage k) ∧
      (∀ k, s.configured k = true →
        (t.stage k).lastCause = .start ∧ (t.stage k).tripLatch = (s.stage k).tripLatch ∧
        (t.stage k).duty = (s.stage k).duty ∧
        (if (s.inputs.get k).seen = false then (t.stage k).state = .absent ∧ (t.stage k).discharge = 0
        else match s.position k with
          | .closed => (t.stage k).state = .closed ∧ (t.stage k).discharge = 0 ∧ (t.stage k).disc = none
          | .opened => (t.stage k).state = .discharging ∧ (t.stage k).discharge = s.fullDischarge k ∧
              (t.stage k).disc = none
          | .transit => (t.stage k).state = .discharging ∧ (t.stage k).discharge = s.fullDischarge k ∧
              (t.stage k).disc = some ⟨.discharging, 0⟩
          | .bad => (t.stage k).state = .fault (.discrepancy false) ∧ (t.stage k).discharge = s.fullDischarge k ∧
              (t.stage k).disc = none)) ∧
      (∀ k, k ∈ t.inService ↔ s.configured k = true ∧ (t.stage k).state = .closed) ∧ t.ready = s.ready ∧
      t.port = { s.port with working := true, markTimer := some (match s.strap with | .hz50 => 40 | .hz60 => 34) } ∧
      t.vc = { s.vc with listenIn := some (2000 * s.settings.period) } ∧
      t.lc.working = true ∧ t.lc.armed = true ∧ t.lc.periodTimer = some (1000 * s.settings.period) ∧
      t.lc.ring = s.lc.ring ∧ t.lc.stats = s.lc.stats ∧ t.lc.seq = s.lc.seq ∧
      t.settings = s.settings ∧ t.blockSet = s.blockSet ∧ t.inputs = s.inputs ∧ t.block = s.block ∧ t.store = s.store ∧
      t.hm = s.hm ∧ t.pv = s.pv ∧ t.ix = s.ix ∧ t.oi = s.oi ∧ t.ms = s.ms ∧ t.alarm = s.alarm ∧
      t.healthy = s.healthy ∧ t.pending = s.pending

/-- R74, R76, R195, R80, R81, R82, R182: the listen-in timer's expiry removes LISTEN_IN; the controller leaves SUSPENDED, for QUIET
with a fresh station settle, exactly when no other cause remains, and that is a bulletin trigger (R182). An expiry of a settle stops
it; QUIET ends, for WATCHING with LOW and HIGH 0, when the other settle does not run. -/
def Obligations.ListenInAndSettlesEnd : Prop :=
  (∀ (s : State) (n : Nat), s.vc.listenIn = some n → s.vc.causes.listenIn = true →
    ∃ t, exec .listenInExpiry s = .next t ∧ t.vc.listenIn = none ∧
      t.vc.causes = { s.vc.causes with listenIn := false } ∧
      (if s.vc.causes = ⟨false, false, false, false, false, true, false⟩ ∧ s.vc.state = .suspended
       then t.vc.state = .quiet ∧ t.vc.low = 0 ∧ t.vc.high = 0 ∧ t.vc.stationSettle = some (1000 * s.settings.stationSettle) ∧
         Triggered s t
       else t = { s with vc := { s.vc with listenIn := none, causes := { s.vc.causes with listenIn := false } } }) ∧
      NoticeFrame { s with vc.listenIn := none } t ∧ t.ix = s.ix ∧ t.ur = s.ur ∧ t.oi = s.oi ∧ t.alarm = s.alarm ∧
      t.healthy = s.healthy) ∧
  (∀ (s : State) (n : Nat), s.vc.stationSettle = some n →
    exec .stationSettleExpiry s = .next (if s.vc.state = .quiet ∧ s.vc.peerSettle = none
      then { s with vc := { s.vc with stationSettle := none, state := .watching, low := 0, high := 0 } }
      else { s with vc := { s.vc with stationSettle := none } })) ∧
  (∀ (s : State) (n : Nat), s.vc.peerSettle = some n →
    exec .peerSettleExpiry s = .next (if s.vc.state = .quiet ∧ s.vc.stationSettle = none
      then { s with vc := { s.vc with peerSettle := none, state := .watching, low := 0, high := 0 } }
      else { s with vc := { s.vc with peerSettle := none } }))

/-! ### Sampler Port and Measurement Store (01) -/

/-- R1, R2, R3, R7, R9: a marked set with no run in progress begins one and restarts the mark timer; an unmarked set joins the
run, the first 32 sets held, the count saturating at 255; before the first mark it is ignored. A run of any other count than 32
is discarded: with measurement VALID and fewer than two discards before it only the discard count grows; with measurement LOST
the recovery count returns to 0. While measurement is LOST an accepted cycle is stored and counted, and offered to no block, up
to the ninth. -/
def Obligations.SetsAndDiscards : Prop :=
  (∀ (w : SampleSet) (o : CycleOrder) (s : State), s.port.working = true → s.port.run = none → s.stepDue = false →
    exec (.cycleCompletion w o) s = .next { s with port := { s.port with
      run := some ⟨1, [mapSet s.settings w], clipSet s.settings w (.all false)⟩
      markTimer := some (match s.strap with | .hz50 => 40 | .hz60 => 34) } }) ∧
  (∀ (w : SampleSet) (s : State) (r : Run), s.port.working = true → s.port.run = some r →
    exec (.sampleSet w) s = .next { s with port := { s.port with
      run := some (if r.count < 32 then ⟨r.count + 1, r.sets ++ [mapSet s.settings w], clipSet s.settings w r.clipped⟩
        else { r with count := min 255 (r.count + 1) }) } }) ∧
  (∀ (w : SampleSet) (s : State), s.port.run = none → exec (.sampleSet w) s = .next s) ∧
  (∀ (w : SampleSet) (o : CycleOrder) (s : State) (r : Run), s.port.working = true → s.port.run = some r →
     r.count ≠ 32 → s.stepDue = false →
     (s.port.lost = false → s.port.discards < 2 → exec (.cycleCompletion w o) s = .next { s with port := { s.port with
       run := some (newRun s.settings w), markTimer := some (markTimeout s.strap), discards := s.port.discards + 1 } }) ∧
     (s.port.lost = true → exec (.cycleCompletion w o) s = .next { s with port := { s.port with
       run := some (newRun s.settings w), markTimer := some (markTimeout s.strap)
       discards := min 3 (s.port.discards + 1), recovery := 0 } })) ∧
  (∀ (w : SampleSet) (o : CycleOrder) (s : State) (r : Run), s.port.working = true → s.port.run = some r →
     r.count = 32 → s.port.lost = true → s.port.recovery < 9 → s.stepDue = false →
     exec (.cycleCompletion w o) s = .next { s with
       store := computeStore s.settings r.sets r.clipped
       port := { s.port with
         run := some (newRun s.settings w), markTimer := some (markTimeout s.strap), discards := 0
         recovery := s.port.recovery + 1 } })

/-- R3, R8, R77, R104, R127, R201: the third consecutive discard, or the mark timer's expiry with measurement VALID, declares
measurement lost. R75, R162, R165: where MEAS_LOST is the first cause of all, it suspends a controller that is not EXECUTING,
which is a bulletin trigger (R182); the intent of one in PROPOSING is withdrawn with MEAS_LOST and the withdrawal's OUTCOME is
placed. An expiry with measurement LOST only clears the recovery count. -/
def Obligations.MeasurementLost : Prop :=
  (∀ (w : SampleSet) (o : CycleOrder) (s : State) (r : Run), s.port.working = true → s.port.run = some r →
    r.count ≠ 32 → s.port.lost = false → 2 ≤ s.port.discards → s.stepDue = false →
    ∃ t, exec (.cycleCompletion w o) s = .next t ∧ LossDeclared s t ∧ CycleFrame s t ∧ t.port.discards = 3 ∧
      (s.vc.causes.isEmpty = true → s.vc.state ≠ .executing →
        t.vc.state = .suspended ∧ t.vc.low = 0 ∧ t.vc.high = 0 ∧ Triggered s t) ∧
      ∀ i, Proposes i s → Withdrawn i .measLost s t) ∧
  (∀ (s : State) (n : Nat), s.port.markTimer = some n → s.port.lost = false →
    ∃ t, exec .markTimeout s = .next t ∧ LossDeclared s t ∧ CycleFrame s t ∧
      t.port = { s.port with lost := true, recovery := 0, markTimer := none } ∧
      (s.vc.causes.isEmpty = true → s.vc.state ≠ .executing →
        t.vc.state = .suspended ∧ t.vc.low = 0 ∧ t.vc.high = 0 ∧ Triggered s t) ∧
      ∀ i, Proposes i s → Withdrawn i .measLost s t) ∧
  (∀ (s : State) (n : Nat), s.port.markTimer = some n → s.port.lost = true →
    exec .markTimeout s = .next { s with port := { s.port with markTimer := none, recovery := 0 } })

/-- R2, R10, R12, R77 (turn order of log 4, lists of log 5, judgement of log 36): an accepted cycle with measurement VALID, and
the one that completes ten while LOST, replaces the store's contents as a whole and makes measurement VALID, which takes the cause
MEAS_LOST away and judges the status outputs anew; on that state the three blocks take the cycle, the relay's judgement first,
then each block's turn, in any of the six orders; the event ends with the chain step it has made due, if any (R192, log 14). The
controller's turn is the dead-line test, the fast-overvoltage test, and in WATCHING as it then stands (log 42) the update of LOW
and HIGH followed by the demand; the monitor's is its cycle; the relay's is the arrival of its trips. What the tests read of other
blocks' lists is what stood before the first turn. The whole leaves the port, the store, the settings, the inputs, the block set
and the peer view alone. -/
def Obligations.AcceptedCycleIsEvaluated : Prop :=
  (∀ (w : SampleSet) (o : CycleOrder) (s : State) (r : Run), s.port.working = true → s.port.run = some r →
    r.count = 32 → (s.port.lost = true → 9 ≤ s.port.recovery) →
    ∃ t, exec (.cycleCompletion w o) s = .next t ∧ t.store = computeStore s.settings r.sets r.clipped ∧
      t.port = { s.port with
        run := some (newRun s.settings w), markTimer := some (markTimeout s.strap), discards := 0, lost := false
        recovery := if s.port.lost then 0 else s.port.recovery } ∧
      t.vc.causes.measLost = (if s.port.lost then false else s.vc.causes.measLost) ∧ CycleFrame s t) ∧
  (∀ (w : SampleSet) (o : CycleOrder) (s : State) (r : Run), s.port.working = true → s.port.run = some r →
    r.count = 32 → (s.port.lost = true → 9 ≤ s.port.recovery) →
    let v := { s with
      store := computeStore s.settings r.sets r.clipped
      port := { s.port with
        run := some (newRun s.settings w), markTimer := some (markTimeout s.strap), discards := 0, lost := false
        recovery := if s.port.lost then 0 else s.port.recovery } }
    let u := if s.port.lost then rejudge (removeCause .measLost v) else v
    exec (.cycleCompletion w o) s =
      .next (settleDue (o.blocks.foldl (evaluateBlock (snapshot u)) (relayJudge u))) ∧
    u.store = v.store ∧ u.port = v.port ∧ NoticeFrame v u ∧ u.ix = s.ix ∧ u.ur = s.ur ∧ u.oi = s.oi ∧
    (s.port.lost = true →
      u.vc.causes = { s.vc.causes with measLost := false } ∧ u.alarm = u.alarmDue ∧ u.healthy = u.healthyDue ∧
      (if s.vc.causes = ⟨false, false, false, true, false, false, false⟩ ∧ s.vc.state = .suspended
       then u.vc.state = .quiet ∧ u.vc.low = 0 ∧ u.vc.high = 0 ∧
         u.vc.stationSettle = some (1000 * s.settings.stationSettle) ∧ Triggered v u
       else u.vc = { s.vc with causes := { s.vc.causes with measLost := false } }))) ∧
  (∀ l : List CycleBlock, l.Perm [.voltage, .harmonic, .unbalance] ↔ ∃ o : CycleOrder, o.blocks = l) ∧
  (∀ (x : Snapshot) (s : State),
    evaluateBlock x s .voltage = controllerCycle x s ∧ evaluateBlock x s .harmonic = monitorCycle x s ∧
    evaluateBlock x s .unbalance = sendTrips x.trips s) ∧
  (∀ s : State, let x := snapshot s
    x.inService = s.inService ∧
    (∀ k, k ∈ x.live ↔
      s.configured k = true ∧ ((s.stage k).state = .closed ∨ (s.stage k).state = .closing)) ∧
    ∀ k, x.trips.get k = (relayEntry s k).2) ∧
  (∀ (x : Snapshot) (s : State), let v := fastOvTest x.inService (deadLineTest x.live s)
    (v.vc.state = .watching → controllerCycle x s = demand { v with vc := { v.vc with
      low := (updateAccumulators v.settings v.store.vctl v.vc.low v.vc.high).1
      high := (updateAccumulators v.settings v.store.vctl v.vc.low v.vc.high).2 } }) ∧
    (v.vc.state ≠ .watching → controllerCycle x s = v)) ∧
  (∀ s : State, s.stepDue = false → settleDue s = s)

/-- 00_scope 0.7, R14, R24: the integer square root is exact over the operands any rule gives it; the rounding of a phasor
part is to nearest, a tie going away from zero; each captured null part is the sum divided by 16 and truncated toward
zero. -/
def Obligations.ArithmeticExact : Prop :=
  (∀ n : Nat, n < 2 ^ 40 → isqrt n = Nat.sqrt n) ∧
  (∀ (n : Int) (d : Nat), 0 < d →
     2 * (n - d * roundDiv n d).natAbs ≤ d ∧
     (2 * (n - d * roundDiv n d).natAbs = d → n.natAbs < d * (roundDiv n d).natAbs)) ∧
  (∀ re im : Int,
     let p := captureNull re im
     16 * p.re.natAbs ≤ re.natAbs ∧ re.natAbs < 16 * p.re.natAbs + 16 ∧ 0 ≤ p.re * re ∧
     16 * p.im.natAbs ≤ im.natAbs ∧ im.natAbs < 16 * p.im.natAbs + 16 ∧ 0 ≤ p.im * im)

/-- R14 to R23: the figures of a computed store, whatever the samples, for nominal peaks within 4000..30000, each by its formula:
the phasor of an order from the two sums over the samples; of each phase the order-1 phasor, its magnitude and V, of each used
slot the phasor of its order, its magnitude, H and D, of an unused slot nothing; the phase's THD from the D of its slots; D and
THD 0 while the weak-fundamental flag is set; the station's V_ctl, V_hi, H of each slot and THD; the neutral phasor of each
configured stage. -/
def Obligations.StoreFigures : Prop :=
  (∀ (h : Nat) (xs : List Int),
    let sum := fun table : List Int => ((List.range xs.length).map fun k => xs.getD k 0 * table.getD (h * k % 32) 0).sum
    phasorOf h xs = ⟨max (-65535) (min 65535 (roundDiv (sum cosTable) (2 ^ 18))),
      max (-65535) (min 65535 (-(roundDiv (sum sinTable) (2 ^ 18))))⟩) ∧
  ∀ (c : Settings) (sets : List (Signals Int)) (flags : Signals Bool),
    4000 ≤ c.nominal.a → 4000 ≤ c.nominal.b → 4000 ≤ c.nominal.c →
    let st := computeStore c sets flags
    let p := st.phases
    st.vctl = (p.a.v + p.b.v + p.c.v) / 3 ∧ st.vhi = max p.a.v (max p.b.v p.c.v) ∧
    (∀ x ∈ [(p.a, c.nominal.a, sets.map Signals.va), (p.b, c.nominal.b, sets.map Signals.vb),
        (p.c, c.nominal.c, sets.map Signals.vc)],
      let (ph, nominal, xs) := x
      ph.phasor = phasorOf 1 xs ∧ ph.phasor.re.natAbs ≤ 65535 ∧ ph.phasor.im.natAbs ≤ 65535 ∧
      ph.magnitude = min 65535 (Nat.sqrt (ph.phasor.re.natAbs ^ 2 + ph.phasor.im.natAbs ^ 2)) ∧
      ph.v = min 2000 ((2000 * ph.magnitude + nominal) / (2 * nominal)) ∧
      (∀ (i : Nat) (slot : Slot) (g : SlotFigures), c.slots.toList[i]? = some slot → ph.slots.toList[i]? = some g →
        (slot.order = none → g = ⟨⟨0, 0⟩, 0, 0, 0⟩) ∧
        ∀ h, slot.order = some h →
          g.phasor = phasorOf h xs ∧
          g.magnitude = min 65535 (Nat.sqrt (g.phasor.re.natAbs ^ 2 + g.phasor.im.natAbs ^ 2)) ∧
          g.h = min 1000 ((2000 * g.magnitude + nominal) / (2 * nominal)) ∧
          g.d = if st.weak then 0 else min 1000 (1000 * g.magnitude / ph.magnitude)) ∧
      ph.thd = if st.weak then 0 else min 1000 (Nat.sqrt (ph.slots.toList.map fun g => g.d ^ 2).sum)) ∧
    (∀ (i : Nat) (a b d : SlotFigures), p.a.slots.toList[i]? = some a → p.b.slots.toList[i]? = some b →
      p.c.slots.toList[i]? = some d → st.h.toList[i]? = some (max a.h (max b.h d.h))) ∧
    (∀ k, st.neutral.get k =
      if k.num ≤ c.stageCount then phasorOf 1 (sets.map fun x => x.n.get k) else ⟨0, 0⟩) ∧
    (st.weak = true ↔ p.a.magnitude < c.nominal.a / 10 ∨ p.b.magnitude < c.nominal.b / 10 ∨
      p.c.magnitude < c.nominal.c / 10) ∧
    (st.weak = true → st.thd = 0) ∧ st.thd = max p.a.thd (max p.b.thd p.c.thd) ∧
    st.vctl ≤ 2000 ∧ st.vhi ≤ 2000 ∧ st.thd ≤ 1000 ∧ (∀ h ∈ st.h.toList, h ≤ 1000) ∧
    st.clipped = flags

/-! ### Control, harmonics, unbalance (04, 05, 06) -/

/-- R84, R85, R86, R88, R153, R154, R155: a demand that no condition holds back chooses a candidate: to raise, the first unblocked
ready stage that passes the close test; to lower, the oldest-closed unblocked stage. Its intent is made and placed on the line,
and the controller enters PROPOSING; an ISOLATED station, which holds no own intent, issues the operation at once and enters
EXECUTING. -/
def Obligations.DemandProposes : Prop :=
  (∀ (s : State) (pre : List StageId) (k : StageId) (rest : List StageId), s.settings.threshold ≤ s.vc.low →
     s.peerIntent .close = false → s.harmAlarm = false → unblocked s s.ready = pre ++ k :: rest →
     (∀ j ∈ pre, closeTest (s.prune j) j.num .autoRaise 0 ≠ none) → closeTest (s.prune k) k.num .autoRaise 0 = none →
     CycleFrame s (demand s) ∧
     (∀ j, j ≠ k → (demand s).stage j = if j ∈ pre then (s.prune j).stage j else s.stage j) ∧
     (s.ix.isolated = false →
       (demand s).vc = { s.vc with state := .proposing, unserved := .none } ∧
       (demand s).ix = { s.ix with
         own := some ⟨s.ix.nextNumber, .close, k, (s.cfg k).size, s.settings.holdOff, .queued false 0⟩
         nextNumber := if s.ix.nextNumber < 255 then s.ix.nextNumber + 1 else 1 } ∧
       (demand s).lc.intentSlot =
         some ⟨s.ix.nextNumber, .close, k, (s.cfg k).size, s.settings.position, s.settings.holdOff⟩ ∧
       (demand s).stage k = (s.prune k).stage k ∧ (demand s).ready = s.ready) ∧
     (s.ix.isolated = true → s.ix.own = none → s.position k ≠ .closed →
       (demand s).vc = { s.vc with state := .executing, unserved := .none, ownOp := some ⟨k, .close, 0⟩ } ∧
       (demand s).ix = s.ix ∧ (demand s).stage k = s.closeIssued k .autoRaise 0 ∧
       (demand s).ready = s.ready.filter (· ≠ k))) ∧
  (∀ (s : State) (k : StageId) (rest : List StageId), s.vc.low < s.settings.threshold →
    s.settings.threshold ≤ s.vc.high → s.peerIntent .opening = false → unblocked s s.inService = k :: rest →
    CycleFrame s (demand s) ∧ OtherStages k s (demand s) ∧
    (s.ix.isolated = false →
      (demand s).vc = { s.vc with state := .proposing, unserved := .none } ∧
      (demand s).ix = { s.ix with
        own := some ⟨s.ix.nextNumber, .opening, k, (s.cfg k).size, s.settings.holdOff, .queued false 0⟩
        nextNumber := if s.ix.nextNumber < 255 then s.ix.nextNumber + 1 else 1 } ∧
      (demand s).lc.intentSlot =
        some ⟨s.ix.nextNumber, .opening, k, (s.cfg k).size, s.settings.position, s.settings.holdOff⟩ ∧
      (demand s).stage k = s.stage k ∧ (demand s).inService = s.inService) ∧
    (s.ix.isolated = true → s.ix.own = none → openRefusal s k.num .autoLower = none → s.position k ≠ .opened →
      (demand s).vc = { s.vc with state := .executing, unserved := .none, ownOp := some ⟨k, .opening, 0⟩ } ∧
      (demand s).ix = s.ix ∧ (demand s).stage k = s.openIssued k .autoLower 0 ∧
      (demand s).inService = s.inService.filter (· ≠ k)))

/-- R78, R84, R85, R86, R87: LOW and HIGH after the update of a cycle, both ends of the band within it; and a demand that is held
back changes nothing but the unserved reason, and in a walk the pruned duty lists: PEER_INTENT comes before HARM_BLOCK, HARM_BLOCK
before the walk; a walk in which every stage is refused gives the first refusal, one without a stage to try NONE_READY, a lower
walk without a candidate NONE_CLOSED; with neither accumulator at the threshold the reason is NONE. -/
def Obligations.DemandHeldBack : Prop :=
  (∀ (c : Settings) (v low high : Nat), c.halfBand ≤ c.vset →
    let (l, h) := updateAccumulators c v low high
    (v < c.vset - c.halfBand → l = min c.threshold (low + (c.vset - c.halfBand - v)) ∧ h = 0) ∧
    (c.vset + c.halfBand < v → h = min c.threshold (high + (v - (c.vset + c.halfBand))) ∧ l = 0) ∧
    (c.vset - c.halfBand ≤ v → v ≤ c.vset + c.halfBand → l = low - c.decay ∧ h = high - c.decay)) ∧
  (∀ s : State, s.settings.threshold ≤ s.vc.low →
    (s.peerIntent .close = true → demand s = { s with vc := { s.vc with unserved := .peerIntent } }) ∧
    (s.peerIntent .close = false → s.harmAlarm = true → demand s = { s with vc := { s.vc with unserved := .harmBlock } }) ∧
    (s.peerIntent .close = false → s.harmAlarm = false → unblocked s s.ready = [] →
      demand s = { s with vc := { s.vc with unserved := .noneReady } }) ∧
    (∀ k rest r, s.peerIntent .close = false → s.harmAlarm = false → unblocked s s.ready = k :: rest →
      closeTest (s.prune k) k.num .autoRaise 0 = some r →
      (∀ j ∈ rest, closeTest (s.prune j) j.num .autoRaise 0 ≠ none) →
      demand s = { s with stages := (demand s).stages, vc := { s.vc with unserved := r } } ∧
      ∀ j, (demand s).stage j = if j ∈ k :: rest then (s.prune j).stage j else s.stage j)) ∧
  (∀ s : State, s.vc.low < s.settings.threshold → s.settings.threshold ≤ s.vc.high →
    (s.peerIntent .opening = true → demand s = { s with vc := { s.vc with unserved := .peerIntent } }) ∧
    (s.peerIntent .opening = false → unblocked s s.inService = [] →
      demand s = { s with vc := { s.vc with unserved := .noneClosed } })) ∧
  (∀ s : State, s.vc.low < s.settings.threshold → s.vc.high < s.settings.threshold →
    demand s = { s with vc := { s.vc with unserved := .none } })

/-- R63, R64, R65, R66, R109: a close passes the test exactly when the stage is configured and none of the conditions of Table 3-2
holds; one that does not pass is refused with the reason of the first condition of the table that holds, in the table's order, A1
and A2 judged for AUTO_RAISE alone. For a stage number that is not there A2 still comes before BAD_STAGE, and no such number is in
the block set (R50). The Voltage Controller's own commitment is no condition of BUSY: it is an AUTO_RAISE with the own intent's
number, or of an ISOLATED station, which holds none, with number 0. -/
def Obligations.CloseTestPasses : Prop :=
  (∀ (s : State) (k : StageId) (cause : Cause) (n : Nat), s.configured k = true →
    (closeTest s k.num cause n = none ↔
      (cause = .autoRaise → s.blockSet.get k = false ∧ s.harmAlarm = false) ∧
      (s.stage k).state = .ready ∧ (s.stage k).tripLatch = false ∧ (s.inputs.get k).attention.active = false ∧
      (∀ j, s.configured j = true → (s.stage j).state ≠ .closing ∧ (s.stage j).state ≠ .opening) ∧
      (s.vc.state = .executing → s.ownCommitment cause n = true) ∧ s.vc.deadLine = false ∧ s.port.lost = false ∧
      (s.stage k).duty.length < (s.cfg k).dutyLimit ∧
      ∀ h ∈ s.watchSet, s.settings.guard < distance (s.candidateIndex k) (10 * h)) ∧
    FirstHolds
      [(cause = .autoRaise ∧ s.blockSet.get k = true, .blocked),
       (cause = .autoRaise ∧ s.harmAlarm = true, .harmBlock),
       ((s.stage k).state = .absent, .absent),
       ((s.stage k).state = .closed ∨ (s.stage k).state = .closing ∨ (s.stage k).state = .opening, .already),
       ((s.stage k).state = .discharging, .discharging),
       ((s.stage k).state = .lockout ∨ (s.stage k).tripLatch = true, .lockout),
       ((s.stage k).state.isFault = true, .fault),
       ((s.inputs.get k).attention.active = true, .attention),
       ((∃ j, s.configured j = true ∧ ((s.stage j).state = .closing ∨ (s.stage j).state = .opening)) ∨
         (s.vc.state = .executing ∧ s.ownCommitment cause n = false), .busy),
       (s.vc.deadLine = true, .deadLine),
       (s.port.lost = true, .measLost),
       ((s.cfg k).dutyLimit ≤ (s.stage k).duty.length, .duty),
       (∃ h ∈ s.watchSet, distance (s.candidateIndex k) (10 * h) ≤ s.settings.guard, .resonance)]
      (closeTest s k.num cause n)) ∧
  (∀ (s : State) (m : Nat) (cause : Cause) (n : Nat), ¬(1 ≤ m ∧ m ≤ 4 ∧ m ≤ s.settings.stageCount) →
    FirstHolds [(cause = .autoRaise ∧ s.harmAlarm = true, .harmBlock), (True, .badStage)] (closeTest s m cause n)) ∧
  ∀ (s : State) (cause : Cause) (n : Nat), s.ownCommitment cause n = true ↔ cause = .autoRaise ∧
    ((∃ i, s.ix.own = some i ∧ i.number = n) ∨ (s.ix.own = none ∧ s.ix.isolated = true ∧ n = 0))

/-- R94, R96, R76: the third cycle in a row below 300 declares a dead line: every CLOSED stage is opened with cause DEAD_LINE, at
once where its breaker stands open already, every close in flight is cut, DEAD_LINE joins the suspension causes and a chain ends
(the targets are the lists of the cycle completion, log 5). R75, R162, R165: a controller in PROPOSING is suspended and its intent
withdrawn, with DEAD_LINE, its OUTCOME placed; where an open of the declaration completes at once, that switching's OUTCOME may
stand in the slot in its place (R34). While a dead line is declared the restore count grows by a cycle at 800 or above, and its
reaching the restore time ends it. The declaration and the end are each a bulletin trigger (R182). -/
def Obligations.DeadLineDeclaredAndEnded : Prop :=
  (∀ s : State, StagesSafe s → s.vc.deadLine = false → s.store.vctl < 300 → 2 ≤ s.vc.deadRun →
     let t := deadLineTest (snapshot s).live s
     t.vc.deadLine = true ∧ t.vc.deadRun = 0 ∧ t.vc.restore = 0 ∧ t.vc.causes.deadLine = true ∧ t.oi.chain = none ∧
     Triggered s t ∧
     (∀ i, Proposes i s → IntentDropped i s t ∧ t.vc.state = .suspended ∧ t.vc.low = 0 ∧ t.vc.high = 0 ∧
       ((∀ k, (s.stage k).state = .closed → s.position k ≠ .opened) → Withdrawn i .deadLine s t)) ∧
     CycleFrame s t ∧ ∀ k,
       ((s.stage k).state = .closed → t.stage k = s.openTaken k .deadLine 0) ∧
       (∀ op, (s.stage k).state = .closing → (s.stage k).op = some op →
         t.stage k = (s.stage k).cutBy op .deadLine 0) ∧
       ((s.stage k).state ≠ .closed → (s.stage k).state ≠ .closing → t.stage k = s.stage k)) ∧
  (∀ (s : State) (live : List StageId), s.vc.deadLine = false →
    (s.store.vctl < 300 → s.vc.deadRun < 2 →
      deadLineTest live s = { s with vc := { s.vc with deadRun := s.vc.deadRun + 1 } }) ∧
    (300 ≤ s.store.vctl → deadLineTest live s = { s with vc := { s.vc with deadRun := 0 } })) ∧
  (∀ (s : State) (live : List StageId), s.vc.deadLine = true → 0 < s.settings.restoreTime →
    (800 ≤ s.store.vctl → s.vc.restore + 1 < s.settings.restoreTime →
      deadLineTest live s = { s with vc := { s.vc with restore := s.vc.restore + 1 } }) ∧
    (s.store.vctl < 800 → deadLineTest live s = { s with vc := { s.vc with restore := 0 } }) ∧
    (800 ≤ s.store.vctl → s.settings.restoreTime ≤ s.vc.restore + 1 →
      let t := deadLineTest live s
      t.vc.deadLine = false ∧ t.vc.deadRun = 0 ∧ t.vc.restore = 0 ∧ Triggered s t ∧
      t.vc.causes = { s.vc.causes with deadLine := false } ∧
      (s.vc.causes = ⟨false, false, false, false, true, false, false⟩ → s.vc.state = .suspended →
        t.vc.state = .quiet ∧ t.vc.low = 0 ∧ t.vc.high = 0 ∧
        t.vc.stationSettle = some (1000 * s.settings.stationSettle)) ∧
      (s.vc.causes ≠ ⟨false, false, false, false, true, false, false⟩ → t.vc.state = s.vc.state) ∧
      CycleFrame s t ∧ t.stages = s.stages ∧ t.ready = s.ready ∧ t.inService = s.inService ∧ t.oi = s.oi ∧
      t.ix = s.ix ∧ t.ur = s.ur))

/-- R92, R49: at the fourth cycle of a fast overvoltage under automatic control, and at every sixtieth after it, the first
unblocked stage of the in-service list is opened (the list is that of the cycle completion, log 5); from the fourth cycle on a
close intent in PROPOSING is withdrawn with OVERVOLTAGE; the run ends with control or with the overvoltage. -/
def Obligations.FastOvervoltageOpens : Prop :=
  (∀ (s : State) (inService : List StageId) (k : StageId) (rest : List StageId), s.permitted = true →
    s.settings.fastOv ≤ s.store.vhi → s.vc.fovRun = 3 ∨ (s.vc.fovRun = 4 ∧ 59 ≤ s.vc.fovRep) →
    unblocked s inService = k :: rest → s.configured k = true → (s.stage k).state = .closed →
    let t := fastOvTest inService s
    t.vc.fovRun = 4 ∧ t.vc.fovRep = 0 ∧ OtherStages k s t ∧ t.inService = s.inService.filter (· ≠ k) ∧
    t.stage k = s.openTaken k .fastOv 0 ∧ CycleFrame s t) ∧
  (∀ (s : State) (inService : List StageId) (i : Intent), s.permitted = true → s.settings.fastOv ≤ s.store.vhi →
    s.vc.fovRun = 3 ∨ s.vc.fovRun = 4 → s.vc.state = .proposing → s.ix.own = some i → i.dir = .close →
    i.phase ≠ .committed → i.stage ∉ inService →
    let t := fastOvTest inService s
    t.ix = { s.ix with own := none } ∧ t.vc.state = .quiet ∧ t.vc.low = 0 ∧ t.vc.high = 0 ∧
    t.lc.outcomeSlot = some (withdrawalContent i .overvoltage) ∧ CycleFrame s t) ∧
  (∀ (s : State) (inService : List StageId), s.permitted = true → s.settings.fastOv ≤ s.store.vhi →
    s.vc.state ≠ .proposing →
    (s.vc.fovRun = 4 → s.vc.fovRep < 59 →
      fastOvTest inService s = { s with vc := { s.vc with fovRep := s.vc.fovRep + 1 } }) ∧
    (s.vc.fovRun = 3 ∨ (s.vc.fovRun = 4 ∧ 59 ≤ s.vc.fovRep) → unblocked s inService = [] →
      fastOvTest inService s = { s with vc := { s.vc with fovRun := 4, fovRep := 0 } })) ∧
  (∀ (s : State) (inService : List StageId),
    (s.permitted = true → s.settings.fastOv ≤ s.store.vhi → s.vc.fovRun < 3 →
      fastOvTest inService s = { s with vc := { s.vc with fovRun := s.vc.fovRun + 1 } }) ∧
    (s.permitted = false ∨ s.store.vhi < s.settings.fastOv →
      fastOvTest inService s = { s with vc := { s.vc with fovRun := 0, fovRep := 0 } }))

/-- R107: the resonance index is the integer root of 1000·S_sc / Q, formed exactly, clamped to 255; 255 for a Q of 0, 0 when Q
exceeds 1000·S_sc. The largest quotient is 20,000,000, whose root 4472 is clamped; the index lies within 0..255 and falls as Q
grows. -/
def Obligations.ResonanceIndex : Prop :=
  (∀ ssc q : Nat, 0 < q → resonanceIndex ssc q = min 255 (Nat.sqrt (1000 * ssc / q))) ∧
  (∀ ssc : Nat, resonanceIndex ssc 0 = 255) ∧
  (∀ ssc q : Nat, ssc ≤ 20000 → 0 < q → 1000 * ssc / q ≤ 20000000) ∧
  1000 * 20000 / 1 = 20000000 ∧ Nat.sqrt 20000000 = 4472 ∧ resonanceIndex 20000 1 = 255 ∧
  (∀ ssc q : Nat, 1000 * ssc < q → 1000 * ssc / q = 0 ∧ resonanceIndex ssc q = 0) ∧
  (∀ ssc q : Nat, resonanceIndex ssc q ≤ 255) ∧
  (∀ ssc q q' : Nat, q ≤ q' → resonanceIndex ssc q' ≤ resonanceIndex ssc q)

/-- R101: what a cycle does to the alarm of a used slot; and so an alarm that is clear, with its run count at 0, is set by
the p-th consecutive cycle above the limit and by no earlier one, and an alarm that is set is cleared likewise below the
clear level. -/
def Obligations.AlarmPersistence : Prop :=
  (∀ limit hysteresis : Nat,
    (1 ≤ limit - hysteresis → clearLevel limit hysteresis = limit - hysteresis) ∧
    (limit - hysteresis < 1 → clearLevel limit hysteresis = 1)) ∧
  (∀ (c : Settings) (slot : Slot) (x : Nat) (a : SlotAlarm), slot.order.isSome = true →
    (a.alarm = false → slot.limit < x → slotStep c slot x a =
      if c.persistence ≤ a.run + 1 then { a with alarm := true, run := 0 } else { a with run := a.run + 1 }) ∧
    (a.alarm = false → x ≤ slot.limit → slotStep c slot x a = { a with run := 0 }) ∧
    (a.alarm = true → x < clearLevel slot.limit c.hysteresis → slotStep c slot x a =
      if c.persistence ≤ a.run + 1 then ⟨false, 0, 0⟩ else { a with run := a.run + 1 }) ∧
    (a.alarm = true → clearLevel slot.limit c.hysteresis ≤ x → slotStep c slot x a = { a with run := 0 })) ∧
  (∀ (p limit hysteresis : Nat) (xs : List Nat), 1 ≤ p → xs.length ≤ p →
     ((∀ x ∈ xs, limit < x) →
       xs.foldl (fun a x => alarmStep p limit hysteresis x a.1 a.2) (false, 0) =
         if xs.length = p then (true, 0) else (false, xs.length)) ∧
     ((∀ x ∈ xs, x < clearLevel limit hysteresis) →
       xs.foldl (fun a x => alarmStep p limit hysteresis x a.1 a.2) (true, 0) =
         if xs.length = p then (false, 0) else (true, xs.length)))

/-- R100, R101, R102, R103, R112, R113: what an evaluated cycle does at the Harmonic Monitor. A weak cycle is skipped; each used
slot's alarm takes the step of R101 on its own figure of the cycle, and an unused slot stays as it was; the THD alarm follows the
same rule; the shed counts of the used slots follow the alarms and the permission; a change of the station alarm, and nothing
else, hands the notice, which triggers a bulletin (R182) and re-judges the outputs (the station alarm is compared before and after
the whole alarm update, log 41). A slot whose count stands at the shed delay and whose order lies near the present index sheds the
newest-closed unblocked stage (of the list at the cycle completion, log 5). -/
def Obligations.MonitorTakesCycle : Prop :=
  (∀ (snap : Snapshot) (s : State), s.store.weak = true → monitorCycle snap s = s) ∧
  (∀ (c : Settings) (st : Store) (m : Monitor),
    let n := monitorAlarms c st m
    (m.thdAlarm = false → c.thdLimit < st.thd →
      (n.thdAlarm, n.thdRun) = if c.persistence ≤ m.thdRun + 1 then (true, 0) else (false, m.thdRun + 1)) ∧
    (m.thdAlarm = false → st.thd ≤ c.thdLimit → (n.thdAlarm, n.thdRun) = (false, 0)) ∧
    (m.thdAlarm = true → st.thd < max 1 (c.thdLimit - c.hysteresis) →
      (n.thdAlarm, n.thdRun) = if c.persistence ≤ m.thdRun + 1 then (false, 0) else (true, m.thdRun + 1)) ∧
    (m.thdAlarm = true → max 1 (c.thdLimit - c.hysteresis) ≤ st.thd → (n.thdAlarm, n.thdRun) = (true, 0)) ∧
    ∀ (j : Nat) (slot : Slot) (h : Nat) (a : SlotAlarm), c.slots.toList[j]? = some slot → st.h.toList[j]? = some h →
      m.slots.toList[j]? = some a →
      n.slots.toList[j]? = some (slotStep c slot h a) ∧ (slot.order = none → n.slots.toList[j]? = some a)) ∧
  (∀ (delay : Nat) (permitted : Bool) (slot : Slot) (a : SlotAlarm), slot.order.isSome = true →
    shedStep delay permitted slot a =
      { a with shed := if a.alarm = true ∧ permitted = true then min delay (a.shed + 1) else 0 }) ∧
  (∀ (delay : Nat) (permitted : Bool) (slot : Slot) (a : SlotAlarm), slot.order = none →
    shedStep delay permitted slot a = a) ∧
  (∀ (c : Settings) (index : Nat) (slot : Slot) (a : SlotAlarm), qualifies c index slot a = true ↔
    ∃ h, slot.order = some h ∧ a.shed = c.shedDelay ∧ distance index (10 * h) ≤ c.guard) ∧
  (∀ (snap : Snapshot) (s : State), s.store.weak = false →
    let m := monitorAlarms s.settings s.store s.hm
    let n := { m with slots := Six.zipWith (shedStep s.settings.shedDelay s.permitted) s.settings.slots m.slots }
    let marks := Six.zipWith (qualifies s.settings s.presentIndex) s.settings.slots n.slots
    ((∀ b ∈ marks.toList, b = false) ∨ unblocked s snap.inService = [] →
      monitorCycle snap s = if m.alarm = s.hm.alarm then { s with hm := n }
        else { s with
          hm := n, lc := { s.lc with triggerDelay := s.delayTriggered }, alarm := { s with hm := m }.alarmDue, healthy := s.healthyDue }) ∧
    (∀ k, true ∈ marks.toList → (unblocked s snap.inService).getLast? = some k → s.configured k = true →
      (s.stage k).state = .closed →
      let t := monitorCycle snap s
      t.hm = { n with slots := Six.zipWith (fun q a => if q then { a with shed := 0 } else a) marks n.slots } ∧
      t.stage k = s.openTaken k .harmShed 0 ∧ OtherStages k s t ∧ t.inService = s.inService.filter (· ≠ k) ∧
      CycleFrame s t))

/-- R23, R47, R119, R120, R122, R123, R124, R125, R126 (judgement of log 36, notice of log 41): U is the magnitude of the stored
neutral phasor less the null, clamped; a cycle writes U to every configured entry and judges the entries in service alone. When a
cycle trips a stage in service, and with which cause: a high-set run of two comes first; a trip is sent once, and clears the counts.
The judgement hands one notice when the station alarm then stands otherwise than before. At the relay's turn every trip due reaches
its stage as a trip request with its cause, on the stage as it then stands; no other stage is asked. -/
def Obligations.UnbalanceTrips : Prop :=
  (∀ (c : StageSettings) (u : Nat) (e : RelayEntry), 2 ≤ c.tripDelay → e.highCount ≤ 1 →
    ((judgeEntry c u e).2 = some .unbHighset ↔
      e.blanking = 0 ∧ e.tripSent = false ∧ 2 * c.tripLevel ≤ u ∧ e.highCount = 1) ∧
    ((judgeEntry c u e).2 = some .unbTrip ↔
      e.blanking = 0 ∧ e.tripSent = false ∧ ¬(2 * c.tripLevel ≤ u ∧ e.highCount = 1) ∧ c.tripLevel ≤ u ∧
        c.tripDelay ≤ e.tripCount + 1) ∧
    ((judgeEntry c u e).2.isSome = true → (judgeEntry c u e).1.tripSent = true ∧ (judgeEntry c u e).1.tripCount = 0 ∧
      (judgeEntry c u e).1.highCount = 0) ∧
    (0 < e.blanking → judgeEntry c u e = ({ e with blanking := e.blanking - 1 }, none)) ∧
    (judgeEntry c u e).1.null = e.null ∧ (judgeEntry c u e).1.inService = e.inService) ∧
  (∀ p n : Phasor, unbalance p n =
    min 65535 (Nat.sqrt ((p.re - n.re).natAbs ^ 2 + (p.im - n.im).natAbs ^ 2))) ∧
  (∀ (s : State) (k : StageId),
    let e := s.ur.entries.get k
    let u := unbalance (s.store.neutral.get k) e.null
    (s.configured k = false → relayEntry s k = (e, none)) ∧
    (s.configured k = true → e.inService = false → relayEntry s k = ({ e with latestU := u }, none)) ∧
    (s.configured k = true → e.inService = true → relayEntry s k = judgeEntry (s.cfg k) u { e with latestU := u })) ∧
  (∀ s : State, s.ur.capture = none →
    let u := { s with ur := { entries := .ofFn fun k => (relayEntry s k).1, capture := none } }
    (u.unbAlarm = s.unbAlarm → relayJudge s = u) ∧
    (u.unbAlarm ≠ s.unbAlarm → relayJudge s =
      { u with lc := { s.lc with triggerDelay := s.delayTriggered }, alarm := u.alarmDue, healthy := u.healthyDue })) ∧
  (∀ s : State,
    let t := relayJudge s
    NoticeFrame s t ∧ t.vc = s.vc ∧ t.ix = s.ix ∧ t.hm = s.hm ∧
    (∀ k, (∀ c, s.ur.capture = some c → c.stage ≠ k) → t.ur.entries.get k = (relayEntry s k).1) ∧
    (t.unbAlarm = s.unbAlarm → t.alarm = s.alarm ∧ t.healthy = s.healthy) ∧
    (t.unbAlarm ≠ s.unbAlarm → t.alarm = t.alarmDue ∧ t.healthy = t.healthyDue ∧
      t.lc = { s.lc with triggerDelay := s.delayTriggered })) ∧
  (∀ (s : State) (k : StageId), (snapshot s).trips.get k = (relayEntry s k).2) ∧
  (∀ (trips : Four (Option Cause)) (s : State),
    (∀ k c, trips.get k = some c → c = .unbTrip ∨ c = .unbHighset) →
    SwitchFrame s (sendTrips trips s) ∧ ∀ k,
      (∀ cause, s.configured k = true → trips.get k = some cause →
        (sendTrips trips s).stage k = (requestTrip k cause s).stage k) ∧
      (s.configured k = false ∨ trips.get k = none → (sendTrips trips s).stage k = s.stage k))

/-- R121, R129, R130: the stage alarm after a cycle of an entry that is judged: at the alarm level and above it counts to the
alarm delay and sets there, below fifteen sixteenths of it both clear, between the two both stay; so it sets at the alarm-delay-th
cycle in a row at the level and at no earlier one. A capture gathers a cycle of its stage in service; at the sixteenth, when no
trip falls due, its mean becomes the stage's null, the counts and the alarm clear and the order is DONE; a trip of the stage, and
its exit from CLOSED, abandon it, and the order is FAILED with STAGE_CHANGED. -/
def Obligations.UnbalanceAlarmAndCapture : Prop :=
  (∀ (c : StageSettings) (u : Nat) (e : RelayEntry), e.blanking = 0 → e.tripSent = false →
    let n := (judgeEntry c u e).1
    (c.alarmLevel ≤ u → n.alarmCount = min c.alarmDelay (e.alarmCount + 1) ∧
      (n.alarm = true ↔ e.alarm = true ∨ c.alarmDelay ≤ e.alarmCount + 1)) ∧
    (u < c.alarmLevel * 15 / 16 → n.alarmCount = 0 ∧ n.alarm = false) ∧
    (c.alarmLevel * 15 / 16 ≤ u → u < c.alarmLevel → n.alarmCount = e.alarmCount ∧ n.alarm = e.alarm)) ∧
  (∀ (c : StageSettings) (us : List Nat) (e : RelayEntry), e.alarmCount = 0 → e.alarm = false → 1 ≤ c.alarmDelay →
    us.length ≤ c.alarmDelay → (∀ u ∈ us, c.alarmLevel ≤ u) →
    let n := us.foldl (fun x u => alarmUpdate c u x) e
    n.alarmCount = us.length ∧ (n.alarm = true ↔ us.length = c.alarmDelay)) ∧
  (∀ (s : State) (c : Capture), s.ur.capture = some c → s.configured c.stage = true →
    (s.ur.entries.get c.stage).inService = true → (relayEntry s c.stage).2 = none →
    let p := s.store.neutral.get c.stage
    let t := relayJudge s
    (c.count < 15 → t.ur.capture = some { c with
      count := c.count + 1, reSum := c.reSum + p.re, imSum := c.imSum + p.im } ∧ t.oi = s.oi) ∧
    (c.count = 15 → t.ur.capture = none ∧
      (t.ur.entries.get c.stage).null = captureNull (c.reSum + p.re) (c.imSum + p.im) ∧
      (t.ur.entries.get c.stage).alarm = false ∧ (t.ur.entries.get c.stage).alarmCount = 0 ∧
      (t.ur.entries.get c.stage).tripCount = 0 ∧ (t.ur.entries.get c.stage).highCount = 0 ∧
      t.oi = (if s.oi.mark = .capture then { s.oi with last := ⟨c.panel, c.tag, .done, 0⟩, mark := .none } else s.oi)) ∧
    NoticeFrame s t) ∧
  (∀ (s : State) (c : Capture) (trips : StageId → Option Cause), s.ur.capture = some c →
    (trips c.stage).isSome = true →
    let t := settleCapture s trips
    t.ur = { s.ur with capture := none } ∧ NoticeFrame s t ∧
    t.oi = (if s.oi.mark = .capture then { s.oi with last := ⟨c.panel, c.tag, .failed, 21⟩, mark := .none } else s.oi)) ∧
  (∀ (s : State) (c : Capture) (new : StageState), s.ur.capture = some c → new ≠ .closed →
    let t := relayNotice c.stage .closed new s
    t.ur.capture = none ∧ (t.ur.entries.get c.stage).null = (s.ur.entries.get c.stage).null ∧ NoticeFrame s t ∧
    t.oi = (if s.oi.mark = .capture then { s.oi with last := ⟨c.panel, c.tag, .failed, 21⟩, mark := .none } else s.oi))

/-! ### Contact inputs (02) -/

/-- R27, R74, R75, R76, R90: the BLOCK input becoming active, during the presence probe as afterwards, adds BLOCK_INPUT, and the
first cause of all suspends a controller that is not EXECUTING; R162, R165: one in PROPOSING has its intent withdrawn with
SUSPENDED, the OUTCOME placed. Becoming inactive removes the cause, and the last cause of all lets a suspended controller into
QUIET (the change set and the settled pin are log 6). Entry to SUSPENDED and exit from it are bulletin triggers (R182). -/
def Obligations.BlockInputSuspends : Prop :=
  (∀ s : State, s.watchingInputs = true → s.stepDue = false → s.block.active = false →
    ∃ t, exec (.contactChange blockContact) s = .next t ∧ t.block = ⟨true, 0⟩ ∧
      t.vc.causes = { s.vc.causes with blockInput := true } ∧
      (s.vc.causes.isEmpty = true → s.vc.state ≠ .executing →
        t.vc.state = .suspended ∧ t.vc.low = 0 ∧ t.vc.high = 0 ∧ t.vc.stationSettle = none ∧ Triggered s t) ∧
      (∀ i, Proposes i s → Withdrawn i .suspended s t) ∧
      (s.vc.causes.isEmpty = false ∨ s.vc.state = .executing → t.vc.state = s.vc.state ∧ t.ix = s.ix) ∧
      NoticeFrame (takeInputs blockContact s) t ∧ t.oi = s.oi ∧ (s.phase = .running → t.inputs = s.inputs)) ∧
  (∀ s : State, s.watchingInputs = true → s.stepDue = false → s.block.active = true →
    ∃ t, exec (.contactChange blockContact) s = .next t ∧ t.block = ⟨false, 0⟩ ∧
      t.vc.causes = { s.vc.causes with blockInput := false } ∧
      (s.vc.causes = ⟨false, true, false, false, false, false, false⟩ → s.vc.state = .suspended →
        t.vc.state = .quiet ∧ Triggered s t) ∧
      NoticeFrame (takeInputs blockContact s) t ∧ t.oi = s.oi ∧ (s.phase = .running → t.inputs = s.inputs))

/-- R27, R28, R29, R41 to R46, R200 (the change set and the settled pins are log 6): what a contact change does where it makes no
switching. A CLOSED, READY, DISCHARGING or LOCKOUT stage found in TRANSIT or BAD starts its discrepancy timer, unless it runs; found
again where it rests it stops it; a breaker moving under a command on its way, and one in FAULT or ABSENT, changes only the inputs;
so does an attention contact; during the presence probe no position is handed on, and an active position contact is remembered. The
discrepancy timer's expiry is a FAULT, connected when its origin was CLOSED (R45, R26). -/
def Obligations.PositionsInTravel : Prop :=
  (∀ (k : StageId) (changed : BitVec 13) (p : Position) (s : State), Travel k changed p s → s.stepDue = false →
    let u := takeInputs changed s
    (∀ j, j ≠ k → u.inputs.get j = s.inputs.get j) ∧ u.block = s.block ∧
    (p = .transit ∨ p = .bad → (s.stage k).state = .closed ∨ (s.stage k).state.resting = true →
      exec (.contactChange changed) s = .next { u with stages := s.stages.set k { s.stage k with
        disc := match (s.stage k).disc with
          | none => some ⟨(s.stage k).state, 0⟩
          | some d => some d } }) ∧
    ((p = .closed ∧ (s.stage k).state = .closed) ∨ (p = .opened ∧ (s.stage k).state.resting = true) →
      exec (.contactChange changed) s = .next { u with stages := s.stages.set k { s.stage k with disc := none } }) ∧
    ((p ≠ .closed ∧ (s.stage k).state = .closing) ∨ (p ≠ .opened ∧ (s.stage k).state = .opening) ∨
        (s.stage k).state.isFault = true ∨ (s.stage k).state = .absent →
      exec (.contactChange changed) s = .next u)) ∧
  (∀ (k : StageId) (s : State), s.watchingInputs = true → s.configured k = true → s.stepDue = false →
    let u := takeInputs (oneContact k .attention) s
    exec (.contactChange (oneContact k .attention)) s = .next u ∧
    (u.inputs.get k).attention = ⟨!(s.inputs.get k).attention.active, 0⟩ ∧
    (∀ j, j ≠ k → (u.inputs.get j).attention = (s.inputs.get j).attention) ∧
    (∀ j, (u.inputs.get j).closed = (s.inputs.get j).closed ∧ (u.inputs.get j).opened = (s.inputs.get j).opened) ∧
    u.block = s.block) ∧
  (∀ (changed : BitVec 13) (s : State) (n : Nat), s.phase = .probing n → s.stepDue = false →
    changed.getLsbD 12 = false →
    let u := takeInputs changed s
    exec (.contactChange changed) s = .next u ∧ u.block = s.block ∧ ∀ k,
      (u.inputs.get k).seen =
        ((s.inputs.get k).seen || (u.inputs.get k).closed.active || (u.inputs.get k).opened.active) ∧
      (s.configured k = true →
        (u.inputs.get k).closed = (if changed.getLsbD (3 * (k.num - 1)) then ⟨!(s.inputs.get k).closed.active, 0⟩
          else (s.inputs.get k).closed) ∧
        (u.inputs.get k).opened = (if changed.getLsbD (3 * (k.num - 1) + 1) then ⟨!(s.inputs.get k).opened.active, 0⟩
          else (s.inputs.get k).opened))) ∧
  (∀ (k : StageId) (s : State) (d : Discrepancy), s.configured k = true → (s.stage k).disc = some d →
    (s.stage k).state.resting = true ∨ (s.stage k).state = .closed →
    ∃ t, exec (.discrepancyExpiry k) s = .next t ∧
      t.stage k = { s.stage k with
        state := .fault (.discrepancy (d.origin == .closed)), disc := none, op := none } ∧
      ((t.stage k).connected = true ↔ d.origin = .closed) ∧ OtherStages k s t ∧
      t.ready = (if (s.stage k).state = .ready then s.ready.filter (· ≠ k) else s.ready) ∧
      t.inService = (if (s.stage k).state = .closed then s.inService.filter (· ≠ k) else s.inService) ∧
      t.alarm = true ∧ SwitchFrame s t)

/-- R41, R42, R43, R51, R57, R60, R95, R118 (the change set and the settled pins are log 6): a CLOSED stage found open, by a
change of one contact or of both, has been opened outside the part: DISCHARGING with the full discharge time, cause EXT_OPEN. A
READY or DISCHARGING stage found closed has been closed outside the part: CLOSED with no dead line declared, and under a declared
dead line opened at once with DEAD_LINE (the report of the external close first, log 15). Each is reported EXECUTED. R164, R162,
R83: an own intent not committed on a stage so opened, or so closed with no dead line declared, is withdrawn, and the report
leaves the controller in QUIET. A LOCKOUT stage found closed is opened at once, cause LOCKOUT_ENFORCE, and stays latched. -/
def Obligations.ExternalChangesTaken : Prop :=
  (∀ (k : StageId) (changed : BitVec 13) (s : State), Travel k changed .opened s → ChainApart k s →
     (s.stage k).state = .closed →
     ∃ t, exec (.contactChange changed) s = .next t ∧
       t.stage k = { s.stage k with
         state := .discharging, lastCause := .extOpen, discharge := s.fullDischarge k, disc := none, op := none } ∧
       OtherStages k s t ∧ t.position k = .opened ∧ t.inService = s.inService.filter (· ≠ k) ∧ t.ready = s.ready ∧
       t.lc.outcomeSlot = some ⟨0, .executed, .opening, k, .extOpen, .none⟩ ∧
       (t.ur.entries.get k).inService = false ∧ SwitchFrame (takeInputs changed s) t ∧
       ∀ i, s.ix.own = some i → i.phase ≠ .committed → i.stage = k →
         IntentDropped i s t ∧ t.vc.state = .quiet ∧ t.vc.low = 0 ∧ t.vc.high = 0) ∧
  (∀ (k : StageId) (changed : BitVec 13) (s : State), Travel k changed .closed s → ChainApart k s → s.vc.deadLine = false →
     (s.stage k).state = .ready ∨ (s.stage k).state = .discharging →
     let cause : Cause := if (s.stage k).state = .ready then .extClose else .extCloseCharged
     ∃ t, exec (.contactChange changed) s = .next t ∧
       t.stage k = { s.stage k with
         state := .closed, lastCause := cause, discharge := 0, disc := none, op := none
         duty := recordDuty (s.cfg k).dutyLimit s.seconds (s.stage k).duty } ∧
       OtherStages k s t ∧ t.inService = s.inService ++ [k] ∧
       t.ready = (if (s.stage k).state = .ready then s.ready.filter (· ≠ k) else s.ready) ∧
       t.lc.outcomeSlot = some ⟨0, .executed, .close, k, cause, .none⟩ ∧
       (t.ur.entries.get k).inService = true ∧ (t.ur.entries.get k).blanking = (s.cfg k).blanking ∧
       SwitchFrame (takeInputs changed s) t ∧
       ∀ i, s.ix.own = some i → i.phase ≠ .committed → i.stage = k →
         IntentDropped i s t ∧ t.vc.state = .quiet ∧ t.vc.low = 0 ∧ t.vc.high = 0) ∧
  (∀ (k : StageId) (changed : BitVec 13) (s : State), Travel k changed .closed s → s.stepDue = false →
    (s.stage k).state = .lockout →
    ∃ t, exec (.contactChange changed) s = .next t ∧
      t.stage k = { s.stage k with
        state := .opening, lastCause := .lockoutEnforce, discharge := 0, disc := none, openOut := true
        op := some ⟨.opening, .lockoutEnforce, 0, s.ms, none⟩
        pulse := some (s.cfg k).pulseWidth, window := some (s.cfg k).operateWindow
        duty := recordDuty (s.cfg k).dutyLimit s.seconds (s.stage k).duty } ∧
      OtherStages k s t ∧ t.ready = s.ready ∧ t.inService = s.inService ∧
      SwitchFrame (takeInputs changed s) t) ∧
  (∀ (k : StageId) (changed : BitVec 13) (s : State), Travel k changed .closed s → ChainApart k s → s.vc.deadLine = true →
     (s.stage k).state = .ready ∨ (s.stage k).state = .discharging →
     let cause : Cause := if (s.stage k).state = .ready then .extClose else .extCloseCharged
     ∃ t, exec (.contactChange changed) s = .next t ∧
       t.stage k = { s.stage k with
         state := .opening, lastCause := .deadLine, discharge := 0, disc := none, openOut := true
         op := some ⟨.opening, .deadLine, 0, s.ms, none⟩
         pulse := some (s.cfg k).pulseWidth, window := some (s.cfg k).operateWindow
         duty := recordDuty (s.cfg k).dutyLimit s.seconds (s.stage k).duty } ∧
       OtherStages k s t ∧ t.inService = s.inService.filter (· ≠ k) ∧
       t.ready = (if (s.stage k).state = .ready then s.ready.filter (· ≠ k) else s.ready) ∧
       t.lc.outcomeSlot = some ⟨0, .executed, .close, k, cause, .none⟩ ∧
       SwitchFrame (takeInputs changed s) t)

/-- R33, R34, R51, R95 (the change set and the settled pins are log 6): the position that a command awaits, by a change of one
contact or of both, completes it: a close, not cut and with no dead line, leaves CLOSED; one that completes under a declared dead
line is opened at once with DEAD_LINE (after its report, log 15); an open leaves DISCHARGING, or LOCKOUT when the stage is
latched; each is reported EXECUTED with its cause and intent number. -/
def Obligations.CommandsComplete : Prop :=
  (∀ (k : StageId) (changed : BitVec 13) (s : State) (op : Operation), Travel k changed .closed s → ChainApart k s →
    s.vc.deadLine = false → (s.stage k).state = .closing → (s.stage k).op = some op → op.cut = none →
    ∃ t, exec (.contactChange changed) s = .next t ∧
      t.stage k = { s.stage k with
        state := .closed, closeOut := false, pulse := none, window := none, discharge := 0, disc := none, op := none
        lastClose := max 1 (s.ms - op.start) } ∧
      OtherStages k s t ∧ t.inService = s.inService ++ [k] ∧ t.ready = s.ready ∧
      t.lc.outcomeSlot = some ⟨op.intent, .executed, .close, k, op.cause, .none⟩ ∧
      SwitchFrame (takeInputs changed s) t) ∧
  (∀ (k : StageId) (changed : BitVec 13) (s : State) (op : Operation), Travel k changed .opened s → ChainApart k s →
    (s.stage k).state = .opening → (s.stage k).op = some op →
    ∃ t, exec (.contactChange changed) s = .next t ∧
      t.stage k = { s.stage k with
        state := if (s.stage k).tripLatch then .lockout else .discharging
        openOut := false, pulse := none, window := none, discharge := s.fullDischarge k, disc := none, op := none
        lastOpen := max 1 (s.ms - op.start) } ∧
      OtherStages k s t ∧ t.inService = s.inService ∧ t.ready = s.ready ∧
      t.lc.outcomeSlot = some ⟨op.intent, .executed, .opening, k, op.cause, .none⟩ ∧
      SwitchFrame (takeInputs changed s) t) ∧
  (∀ (k : StageId) (changed : BitVec 13) (s : State) (op : Operation), Travel k changed .closed s →
    ChainApart k s → s.vc.deadLine = true →
    (s.stage k).state = .closing → (s.stage k).op = some op → op.cut = none →
    ∃ t, exec (.contactChange changed) s = .next t ∧
      t.stage k = { s.stage k with
        state := .opening, lastCause := .deadLine, closeOut := false, openOut := true, discharge := 0, disc := none
        op := some ⟨.opening, .deadLine, 0, s.ms, none⟩
        pulse := some (s.cfg k).pulseWidth, window := some (s.cfg k).operateWindow
        lastClose := max 1 (s.ms - op.start) } ∧
      OtherStages k s t ∧ t.ready = s.ready ∧ t.inService = s.inService.filter (· ≠ k) ∧
      t.lc.outcomeSlot = some ⟨op.intent, .executed, .close, k, op.cause, .none⟩ ∧
      SwitchFrame (takeInputs changed s) t)

/-! ### The Stage Supervisor's requests (02, 03) -/

/-- R31, R32, R37, R39, R40, R48, R51, R68: an open request passes the open conditions exactly when none of Table 3-4 holds, and
is refused with the reason of the first condition of the table that holds, in the table's order (for a stage number that is not
there, which is in no block set and in no state, that is BAD_STAGE); one that is refused changes nothing. One that passes on a
CLOSED stage, and as a retry on a connected FAULT, issues an open, which completes at once where the breaker stands open already,
reported EXECUTED; on a close in flight it cuts the close; on an open in flight it is absorbed. R164, R162, R90: the stage notice
of any change of state withdraws an own intent on that stage, unless it is committed, with STAGE_CHANGED, its OUTCOME placed, and
the controller is in WATCHING; an intent on another stage stays. So an issued open withdraws such an intent; where it completes at
once, its own OUTCOME and QUIET follow (R34, R83). -/
def Obligations.OpenRequestsAct : Prop :=
  (∀ (s : State) (k : StageId) (cause : Cause), s.configured k = true →
    (openRefusal s k.num cause = none ↔
      (cause = .autoLower ∨ cause = .fastOv ∨ cause = .harmShed → s.blockSet.get k = false ∧ (s.stage k).state = .closed) ∧
      ((s.stage k).state = .closed ∨ (s.stage k).state = .closing ∨ (s.stage k).state = .opening ∨
        ((s.stage k).state.isFault = true ∧ (s.stage k).connected = true))) ∧
    let automatic := cause = .autoLower ∨ cause = .fastOv ∨ cause = .harmShed
    FirstHolds
      [(automatic ∧ s.blockSet.get k = true, .blocked),
       (automatic ∧ (s.stage k).state ≠ .closed, .stageChanged),
       ((s.stage k).state = .absent, .absent),
       ((s.stage k).state = .ready ∨ (s.stage k).state = .discharging ∨ (s.stage k).state = .lockout ∨
         ((s.stage k).state.isFault = true ∧ (s.stage k).connected = false), .already)]
      (openRefusal s k.num cause)) ∧
  (∀ (s : State) (m : Nat) (cause : Cause), ¬(1 ≤ m ∧ m ≤ 4 ∧ m ≤ s.settings.stageCount) →
    openRefusal s m cause = some .badStage) ∧
  (∀ (s : State) (k : StageId) (cause : Cause) (n : Nat) (r : Reason), openRefusal s k.num cause = some r →
    requestOpen k cause n s = s) ∧
  (∀ (s : State) (k : StageId) (cause : Cause) (n : Nat), openRefusal s k.num cause = none →
    (s.stage k).state = .closed ∨ (s.stage k).state.isFault = true →
    let t := requestOpen k cause n s
    t.stage k = s.openTaken k cause n ∧ OtherStages k s t ∧
    t.inService = (if (s.stage k).state = .closed then s.inService.filter (· ≠ k) else s.inService) ∧
    t.ready = s.ready ∧ SwitchFrame s t ∧
    (s.position k = .opened → t.lc.outcomeSlot = some ⟨n, .executed, .opening, k, cause, .none⟩) ∧
    ∀ i, s.ix.own = some i → i.phase ≠ .committed → i.stage = k →
      (s.position k ≠ .opened →
        Withdrawn i .stageChanged s t ∧ t.vc = { s.vc with state := .watching, unserved := .stageChanged }) ∧
      (s.position k = .opened → IntentDropped i s t ∧ t.vc.state = .quiet ∧ t.vc.low = 0 ∧ t.vc.high = 0)) ∧
  (∀ (s : State) (k : StageId) (new : StageState) (i : Intent), s.ix.own = some i →
    let t := changeStage k new s
    (i.phase ≠ .committed → i.stage = k →
      Withdrawn i .stageChanged s t ∧ t.vc = { s.vc with state := .watching, unserved := .stageChanged }) ∧
    (i.phase = .committed ∨ i.stage ≠ k → t.ix = s.ix ∧ t.vc = s.vc)) ∧
  (∀ (s : State) (k : StageId) (cause : Cause) (n : Nat) (op : Operation), openRefusal s k.num cause = none →
    (s.stage k).op = some op →
    ((s.stage k).state = .closing →
      requestOpen k cause n s = { s with stages := s.stages.set k ((s.stage k).cutBy op cause n) }) ∧
    ((s.stage k).state = .opening →
      requestOpen k cause n s = { s with stages := s.stages.set k ((s.stage k).absorbs op cause n) }))

/-- R47, R66 (with R31, R37, R39, R40, R43, R46): a trip request sets the latch of a configured stage that is not ABSENT, whatever
its state, and acts by state: a CLOSED stage and a connected FAULT are opened, a close in flight is cut, an open in flight takes
the trip's cause; a READY or DISCHARGING stage enters LOCKOUT with its countdown as it stands, and its position is then taken; on
a FAULT that is not connected only the cause is kept; a LOCKOUT stage stays. R164, R162: an own intent not committed on a CLOSED
stage so opened is withdrawn, and one on a stage that enters LOCKOUT with its breaker open is withdrawn with STAGE_CHANGED, its
OUTCOME placed. -/
def Obligations.TripRequestsTaken : Prop :=
  (∀ (s : State) (k : StageId) (cause : Cause), cause = .unbTrip ∨ cause = .unbHighset → s.configured k = true →
    (s.stage k).state ≠ .absent →
    let r := { s.stage k with tripLatch := true }
    let u := { s with stages := s.stages.set k r }
    let t := requestTrip k cause s
    (t.stage k).tripLatch = true ∧ OtherStages k s t ∧ SwitchFrame s t ∧
    t.ready = (if (s.stage k).state = .ready then s.ready.filter (· ≠ k) else s.ready) ∧
    t.inService = (if (s.stage k).state = .closed then s.inService.filter (· ≠ k) else s.inService) ∧
    ((s.stage k).state = .closed ∨ ((s.stage k).state.isFault = true ∧ (s.stage k).connected = true) →
      t.stage k = u.openTaken k cause 0) ∧
    (∀ op, (s.stage k).state = .closing → (s.stage k).op = some op →
      t = { s with stages := s.stages.set k (r.cutBy op cause 0) }) ∧
    (∀ op, (s.stage k).state = .opening → (s.stage k).op = some op →
      t = { s with stages := s.stages.set k (r.absorbs op cause 0) }) ∧
    ((s.stage k).state.isFault = true → (s.stage k).connected = false →
      t = { s with stages := s.stages.set k { r with lastCause := cause } }) ∧
    ((s.stage k).state = .ready ∨ (s.stage k).state = .discharging →
      match s.position k with
      | .opened => t.stage k = { r with
          state := .lockout, lastCause := cause, op := none
          disc := r.disc.map fun d => { d with origin := .lockout } }
      | .closed => t.stage k = { r with
          state := .opening, lastCause := .lockoutEnforce, discharge := 0, disc := none, openOut := true
          op := some ⟨.opening, .lockoutEnforce, 0, s.ms, none⟩
          pulse := some (s.cfg k).pulseWidth, window := some (s.cfg k).operateWindow
          duty := recordDuty (s.cfg k).dutyLimit s.seconds r.duty }
      | _ => t.stage k = { r with
          state := .lockout, lastCause := cause, op := none
          disc := match r.disc with
            | some d => some { d with origin := .lockout }
            | none => some ⟨.lockout, 0⟩ }) ∧
    ((s.stage k).state = .lockout → t = u) ∧
    ∀ i, s.ix.own = some i → i.phase ≠ .committed → i.stage = k →
      ((s.stage k).state = .closed → IntentDropped i s t) ∧
      ((s.stage k).state = .ready ∨ (s.stage k).state = .discharging → s.position k = .opened →
        Withdrawn i .stageChanged s t ∧ t.vc = { s.vc with state := .watching, unserved := .stageChanged })) ∧
  (∀ (s : State) (k : StageId) (cause : Cause), s.configured k = false ∨ (s.stage k).state = .absent →
    requestTrip k cause s = s)

/-! ### The Stage Supervisor's timers (02, 03) -/

/-- R32, R35, R36, R51, R57, R26, R201: the end of the command pulse turns the outputs of its stage off, and changes nothing else.
A close whose window runs out without the position CLOSED, and that was not cut, fails; an open whose window runs out fails, and
its stage counts as connected. Each is reported FAILED and turns ALARM on. -/
def Obligations.PulsesAndWindowsEnd : Prop :=
  (∀ (k : StageId) (s : State) (n : Nat), (s.stage k).pulse = some n →
    exec (.pulseEnd k) s = .next { s with
      stages := s.stages.set k { s.stage k with closeOut := false, openOut := false, pulse := none } }) ∧
  (∀ (k : StageId) (s : State) (op : Operation), s.configured k = true → ChainApart k s →
     (s.stage k).state = .closing → (s.stage k).op = some op → op.cut = none →
     ∃ t, exec (.closeWindowExpiry k) s = .next t ∧
       t.stage k = { s.stage k with
         state := .fault .failToClose, closeOut := false, pulse := none, window := none
         discharge := s.fullDischarge k, disc := none, op := none } ∧
       OtherStages k s t ∧ t.ready = s.ready ∧ t.inService = s.inService ∧ t.alarm = true ∧
       t.lc.outcomeSlot = some ⟨op.intent, .failed, .close, k, op.cause, .none⟩ ∧ SwitchFrame s t) ∧
  (∀ (k : StageId) (s : State) (op : Operation), s.configured k = true → ChainApart k s →
     (s.stage k).state = .opening → (s.stage k).op = some op →
     ∃ t, exec (.openWindowExpiry k) s = .next t ∧
       t.stage k = { s.stage k with
         state := .fault .failToOpen, openOut := false, pulse := none, window := none, disc := none, op := none } ∧
       (t.stage k).connected = true ∧
       OtherStages k s t ∧ t.ready = s.ready ∧ t.inService = s.inService ∧ t.alarm = true ∧
       t.lc.outcomeSlot = some ⟨op.intent, .failed, .opening, k, op.cause, .none⟩ ∧ SwitchFrame s t)

/-- R38 (with R31, R33, R46, R95; the change set and the settled pins are log 6): a close that was cut and whose window runs out,
the breaker not closed, goes to DISCHARGING with the cut cause, reported CUT; a breaker not open starts the discrepancy timer.
When the position CLOSED arrives instead, by a change of one contact or of both, the close completes and the stage is opened at
once with the cut cause; under a declared dead line that open takes the dead line's request, and its cause is DEAD_LINE (log 15). -/
def Obligations.CutCloseEnds : Prop :=
  (∀ (k : StageId) (s : State) (op : Operation) (c : Cause), s.configured k = true → ChainApart k s →
     (s.stage k).state = .closing → (s.stage k).op = some op → op.cut = some c → s.position k ≠ .closed →
     ∃ t, exec (.closeWindowExpiry k) s = .next t ∧
       t.stage k = { s.stage k with
         state := .discharging, lastCause := c, closeOut := false, pulse := none, window := none
         discharge := s.fullDischarge k, op := none
         disc := if s.position k = .opened then none else some ⟨.discharging, 0⟩ } ∧
       OtherStages k s t ∧ t.ready = s.ready ∧ t.inService = s.inService ∧
       t.lc.outcomeSlot = some ⟨op.intent, .cut, .close, k, c, .none⟩ ∧ SwitchFrame s t) ∧
  (∀ (k : StageId) (changed : BitVec 13) (s : State) (op : Operation) (c : Cause), Travel k changed .closed s →
    ChainApart k s → s.vc.deadLine = false →
    (s.stage k).state = .closing → (s.stage k).op = some op → op.cut = some c →
    ∃ t, exec (.contactChange changed) s = .next t ∧
      t.stage k = { s.stage k with
        state := .opening, lastCause := c, closeOut := false, openOut := true, discharge := 0, disc := none
        op := some ⟨.opening, c, 0, s.ms, none⟩
        pulse := some (s.cfg k).pulseWidth, window := some (s.cfg k).operateWindow
        lastClose := max 1 (s.ms - op.start) } ∧
      OtherStages k s t ∧ t.ready = s.ready ∧ t.inService = s.inService.filter (· ≠ k) ∧
      t.lc.outcomeSlot = some ⟨op.intent, .executed, .close, k, op.cause, .none⟩ ∧
      SwitchFrame (takeInputs changed s) t) ∧
  (∀ (k : StageId) (changed : BitVec 13) (s : State) (op : Operation) (c : Cause), Travel k changed .closed s →
    ChainApart k s → s.vc.deadLine = true →
    (s.stage k).state = .closing → (s.stage k).op = some op → op.cut = some c →
    ∃ t, exec (.contactChange changed) s = .next t ∧
      t.stage k = { s.stage k with
        state := .opening, lastCause := .deadLine, closeOut := false, openOut := true, discharge := 0, disc := none
        op := some ⟨.opening, .deadLine, 0, s.ms, none⟩
        pulse := some (s.cfg k).pulseWidth, window := some (s.cfg k).operateWindow
        lastClose := max 1 (s.ms - op.start) } ∧
      OtherStages k s t ∧ t.ready = s.ready ∧ t.inService = s.inService.filter (· ≠ k) ∧
      t.lc.outcomeSlot = some ⟨op.intent, .executed, .close, k, op.cause, .none⟩ ∧
      SwitchFrame (takeInputs changed s) t)

/-- R46, R48, R56, R62: at the end of the countdown a DISCHARGING stage becomes READY and joins the tail of the ready list, and
its breaker's position is then taken: OPEN needs nothing; in TRANSIT or BAD the discrepancy timer runs, from READY, one that
already runs going on; a breaker found closed is an external close of a READY stage (R42), which under a declared dead line is
opened at once (R95; log 15). In LOCKOUT and FAULT only the figure reaches 0. The minute pruning drops from the head of every
configured stage's duty list the entries older than 86,400 s, and changes nothing else. -/
def Obligations.DischargesAndDutiesEnd : Prop :=
  (∀ (k : StageId) (s : State), s.stepDue = false → (s.stage k).state = .discharging → s.position k = .opened →
    ∃ t, exec (.dischargeEnd k) s = .next t ∧
      t.stage k = { s.stage k with
        state := .ready, discharge := 0, op := none
        disc := (s.stage k).disc.map fun d => { d with origin := .ready } } ∧
      OtherStages k s t ∧ t.ready = s.ready ++ [k] ∧ t.inService = s.inService ∧ SwitchFrame s t) ∧
  (∀ (k : StageId) (s : State), s.stepDue = false → (s.stage k).state = .discharging →
    s.position k = .transit ∨ s.position k = .bad →
    ∃ t, exec (.dischargeEnd k) s = .next t ∧
      t.stage k = { s.stage k with
        state := .ready, discharge := 0, op := none
        disc := match (s.stage k).disc with
          | some d => some { d with origin := .ready }
          | none => some ⟨.ready, 0⟩ } ∧
      OtherStages k s t ∧ t.ready = s.ready ++ [k] ∧ t.inService = s.inService ∧ SwitchFrame s t) ∧
  (∀ (k : StageId) (s : State), s.configured k = true → ChainApart k s → (s.stage k).state = .discharging →
    s.position k = .closed →
    ∃ t, exec (.dischargeEnd k) s = .next t ∧ OtherStages k s t ∧ t.ready = s.ready.filter (· ≠ k) ∧
      t.lc.outcomeSlot = some ⟨0, .executed, .close, k, .extClose, .none⟩ ∧ SwitchFrame s t ∧
      let duty := recordDuty (s.cfg k).dutyLimit s.seconds (s.stage k).duty
      (s.vc.deadLine = false → t.inService = s.inService ++ [k] ∧ t.stage k = { s.stage k with
        state := .closed, lastCause := .extClose, discharge := 0, disc := none, op := none, duty := duty }) ∧
      (s.vc.deadLine = true → t.inService = s.inService.filter (· ≠ k) ∧ t.stage k = { s.stage k with
        state := .opening, lastCause := .deadLine, discharge := 0, disc := none, openOut := true, duty := duty
        op := some ⟨.opening, .deadLine, 0, s.ms, none⟩
        pulse := some (s.cfg k).pulseWidth, window := some (s.cfg k).operateWindow })) ∧
  (∀ (k : StageId) (s : State), s.stepDue = false →
    (s.stage k).state = .lockout ∨ (s.stage k).state.isFault = true →
    exec (.dischargeEnd k) s = .next { s with stages := s.stages.set k { s.stage k with discharge := 0 } }) ∧
  (∀ s : State, ∃ t, exec .minutePruning s = .next t ∧ t = { s with stages := t.stages } ∧
    (∀ k, s.configured k = false → t.stage k = s.stage k) ∧
    ∀ k, s.configured k = true →
      t.stage k = { s.stage k with duty := (s.stage k).duty.dropWhile fun x => 86400 < s.seconds - x } ∧
      ((s.stage k).duty.Pairwise (· ≤ ·) → ∀ x ∈ (t.stage k).duty, s.seconds - x ≤ 86400))

/-! ### The line (09) -/

/-- R172, R173, R179: a start edge begins a character and stops a deferral; a medium that becomes idle makes a
waiting attempt draw a deferral of the LFSR's lowest four bits, in slot times of 12 bit periods (60 fifths of one); carrier
detect becoming active stops a deferral. The LFSR never becomes 0 from a nonzero state. The model's choices: the medium is awaited
only while the receiver holds no frame (log 38), and a deferral that has ended is stopped too (log 43). -/
def Obligations.LineEventsTaken : Prop :=
  (∀ s : State, s.receiving = true → s.lc.rx.character = false →
    exec .startEdge s = .next { s with lc := { s.lc with
      rx := { s.lc.rx with character := true, idle := 0, mark := false }
      access := match s.lc.access with | .deferring _ _ => .waiting | a => a } }) ∧
  (∀ s : State, s.awaitsIdle = true →
    exec .mediumIdle s = .next { s with lc := { s.lc with
      rx := { s.lc.rx with idle := 75, mark := true }, lfsr := lfsrDraw s.lc.lfsr
      access := .deferring ((lfsrDraw s.lc.lfsr).toNat % 16) (60 * ((lfsrDraw s.lc.lfsr).toNat % 16)) } }) ∧
  (∀ s : State, exec (.carrierDetectChange true) s = .next { s with carrier := true, lc := { s.lc with
      access := match s.lc.access with | .deferring _ _ => .waiting | a => a } }) ∧
  (∀ s : State, exec (.carrierDetectChange false) s = .next { s with carrier := false }) ∧
  (∀ r : BitVec 16, r ≠ 0 → lfsrDraw r ≠ 0)

/-- R172 to R175, R183: every byte sent as a clean character is received as that byte, without noise or framing mark; whatever the
sub-samples of a character that ends, its byte and its marks join the frame, and the line stands at the last of them: while it is
at space no idle count grows (log 8, log 18). At a frame completion the frame leaves the receiver; one that passes Table 9-2 is
counted good and joins the ring with its arrival time, or counts as overrun when the ring holds four; any other is counted by the
first check it fails: noise, framing, more than 103 bytes, a length that does not fit, and the CRC, each in its own count. -/
def Obligations.FramesReceived : Prop :=
  (∀ b : Byte, runChar .atEdge (cleanSamples b) = some (.ended b.toNat false false, true, 0)) ∧
  (∀ (xs : List Bool) (s : State) (v n : Nat) (noisy framing l : Bool), s.receiving = true →
    s.lc.rx.character = true → runChar .atEdge xs = some (.ended v noisy framing, l, n) →
    let a := s.lc.rx.frame.getD ⟨[], 0, false, false⟩
    exec (.characterEnd xs) s = .next { s with lc := { s.lc with rx := {
      character := false, idle := 0, mark := xs.getLastD true
      frame := some ⟨if a.bytes.length < 103 then a.bytes ++ [BitVec.ofNat 8 v] else a.bytes, min 255 (a.count + 1),
        a.noisy || noisy, a.framing || framing⟩ } } }) ∧
  (∀ (xs : List Bool) (s : State) (n : Nat) (l : Bool), s.receiving = true → s.lc.rx.character = true →
    runChar .atEdge xs = some (.falseStart, l, n) →
    exec (.characterEnd xs) s = .next { s with lc := { s.lc with rx := {
      character := false, idle := 0, mark := xs.getLastD true
      frame := s.lc.rx.frame.map fun a => { a with noisy := true } } } }) ∧
  (∀ s : State, s.pending = [] → s.phase ≠ .held → s.due = [] → ∃ t, step s = .next t ∧ t.lc.rx = { s.lc.rx with
    idle := if s.receiving = true ∧ s.lc.rx.character = false ∧ s.lc.rx.mark = true
      then min 75 (s.lc.rx.idle + 3 * 2 ^ s.settings.bitRateCode) else s.lc.rx.idle }) ∧
  (∀ (s : State) (a : Assembly), s.receiving = true → s.lc.rx.character = false → s.lc.rx.frame = some a →
    let stats := s.lc.stats.countCheck (checkFrame a)
    exec .frameCompletion s = .next { s with lc := { s.lc with
      rx := ⟨none, false, 75, true⟩
      stats := if checkFrame a = .good ∧ 4 ≤ s.lc.ring.length
        then { stats with overrun := min 255 (stats.overrun + 1) } else stats
      ring := if checkFrame a = .good ∧ s.lc.ring.length < 4
        then s.lc.ring ++ [⟨s.ms, a.count, a.bytes⟩] else s.lc.ring } }) ∧
  (∀ a : Assembly,
    let clean := a.noisy = false ∧ a.framing = false
    let fits := clean ∧ 7 ≤ a.count ∧ a.count ≤ 103 ∧ byteAt a.bytes 4 = a.count - 7
    let crc := crc16 (a.bytes.take (a.count - 2)) = field a.bytes (a.count - 2) 2
    (checkFrame a = .noise ↔ a.noisy = true) ∧
    (checkFrame a = .framing ↔ a.noisy = false ∧ a.framing = true) ∧
    (checkFrame a = .long ↔ clean ∧ 103 < a.count) ∧
    (checkFrame a = .format ↔ clean ∧ a.count ≤ 103 ∧ (a.count < 7 ∨ byteAt a.bytes 4 ≠ a.count - 7)) ∧
    (checkFrame a = .crc ↔ fits ∧ ¬crc) ∧ (checkFrame a = .good ↔ fits ∧ crc)) ∧
  (∀ st : Stats,
    st.countCheck .noise = { st with noise := min 255 (st.noise + 1) } ∧
    st.countCheck .framing = { st with framing := min 255 (st.framing + 1) } ∧
    st.countCheck .long = { st with long := min 255 (st.long + 1) } ∧
    st.countCheck .format = { st with format := min 255 (st.format + 1) } ∧
    st.countCheck .crc = { st with crc := min 65535 (st.crc + 1) } ∧
    st.countCheck .good = { st with good := min 65535 (st.good + 1) })

/-- R177, R178, R180, R183, R97, R156: at a transmission start the filled slot of highest priority is composed as the state
then stands, its slot is emptied, the sequence counter and the frames sent advance, the channel-busy count and ISOLATED
clear, and an INTENT marks the own intent sent. With no slot eligible the attempt ends; that the momentary keying leaves the
receiver as it was (log 37), and that a frame whose completion has not been taken is dropped at a keying (log 38), are the model's
choices. -/
def Obligations.TransmissionStarts : Prop :=
  (∀ (s : State) (c : Chosen), s.deferring = true → chooseSlot s.lc = some c →
    ∃ t, exec .transmissionStart s = .next t ∧
      t = { s with lc := t.lc, ix := { s.ix with own := markSent c s.ix.own, busyCount := 0, isolated := false } } ∧
      t.lc.access = .transmitting (composeFrame s c)
        (s.settings.keyUp * (3 * 2 ^ s.settings.bitRateCode) + (10 * (composeFrame s c).length + 2) * 5) ∧
      t.lc.rx = ⟨none, false, 0, true⟩ ∧ t.lc.seq = (s.lc.seq + 1) % 256 ∧ t.lc.framesSent = min 8 (s.lc.framesSent + 1) ∧
      t.lc.intentSlot = none ∧ t.lc.ring = s.lc.ring ∧ t.lc.lfsr = s.lc.lfsr ∧ t.lc.working = s.lc.working ∧
      t.lc.outcomeSlot = (if s.lc.intentSlot.isSome then s.lc.outcomeSlot else none) ∧
      t.lc.detailSlot = (if s.lc.intentSlot.isSome || s.lc.outcomeSlot.isSome then s.lc.detailSlot else none) ∧
      (if c = .bulletin
       then t.lc.armed = false ∧ t.lc.triggerDelay = none ∧ t.lc.lastBulletin = some s.ms ∧ t.lc.spacing = some 1000 ∧
         t.lc.periodTimer = some (1000 * s.settings.period)
       else t.lc.armed = s.lc.armed ∧ t.lc.triggerDelay = s.lc.triggerDelay ∧ t.lc.lastBulletin = s.lc.lastBulletin ∧
         t.lc.spacing = s.lc.spacing ∧ t.lc.periodTimer = s.lc.periodTimer) ∧
      (∀ panel, c = .detail 2 panel → t.lc.stats = ⟨0, 0, 0, 0, 0, 0, 0, 0⟩) ∧
      ((∀ panel, c ≠ .detail 2 panel) → t.lc.stats = s.lc.stats)) ∧
  (∀ s : State, s.deferring = true → chooseSlot s.lc = none →
    exec .transmissionStart s = .next { s with lc := { s.lc with access := .noAttempt } })

/-- R180, R156, R157, R179, R181, R182: a transmission end returns the receiver (the line at mark, log 18) and starts the hold-off
of an intent that is QUEUED and sent. A bulletin trigger starts the trigger delay, when it is stopped and no bulletin is armed,
and changes nothing else, and nothing at all otherwise; each stage notice, each write of the last-order record, the controller's
entry to SUSPENDED and its exit are one, also of a Line Channel that has begun work alone (R171). The expiries of the bulletin
schedule arm the bulletin, or make an armed one eligible; an armed bulletin within 1000 ms of the last start waits, one later
begins an access attempt. An attempt that begins on an idle medium draws at once (log 21). -/
def Obligations.TransmissionEndsAndArming : Prop :=
  (∀ (s : State) (frame : List Byte) (n : Nat), s.lc.access = .transmitting frame n →
    exec .transmissionEnd s = .next { s with
      lc := { s.lc with
        rx := ⟨none, false, 0, true⟩
        access := if s.lc.eligible then .waiting else .noAttempt }
      ix := { s.ix with own := s.ix.own.map fun i =>
        match i.phase with
        | .queued true _ => { i with phase := .holding (100 * i.holdOff) }
        | _ => i } }) ∧
  (∀ s : State,
    (s.lc.working = true → s.lc.triggerDelay = none → s.lc.armed = false → trigger s =
      { s with lc := { s.lc with triggerDelay := some (100 + 50 * (s.settings.station % 8)) } }) ∧
    (s.lc.working = false ∨ s.lc.triggerDelay ≠ none ∨ s.lc.armed = true → trigger s = s)) ∧
  (∀ s : State,
    (∀ k new, Triggered s (changeStage k new s)) ∧ (∀ p g o d m, Triggered s (writeOrder p g o d m s)) ∧
    ∀ c : Suspension,
      (s.vc.causes.isEmpty = true → s.vc.state ≠ .executing →
        (addCause c s).vc.state = .suspended ∧ Triggered s (addCause c s)) ∧
      (s.vc.causes.has c = true → (s.vc.causes.put c false).isEmpty = true → s.vc.state = .suspended →
        (removeCause c s).vc.state = .quiet ∧ Triggered s (removeCause c s))) ∧
  (∀ (c : Instr) (s u : State),
    (c = .bulletinPeriodExpiry ∧ s.lc.periodTimer.isSome = true ∧
      u = { s with lc := { s.lc with armed := true, periodTimer := none } }) ∨
    (c = .triggerDelayExpiry ∧ s.lc.triggerDelay.isSome = true ∧
      u = { s with lc := { s.lc with armed := true, triggerDelay := none } }) →
    ∃ t, exec c s = .next t ∧ t = { u with lc := { u.lc with access := t.lc.access, lfsr := t.lc.lfsr } } ∧
      (s.lc.spacing = none → AttemptBegins s t) ∧
      (∀ n, s.lc.spacing = some n → s.lc.access = .noAttempt →
        s.lc.intentSlot = none → s.lc.outcomeSlot = none → s.lc.detailSlot = none → t = u)) ∧
  (∀ (s : State) (n : Nat), s.lc.spacing = some n →
    ∃ t, exec .bulletinSpacingExpiry s = .next t ∧
      t = { s with lc := { s.lc with spacing := none, access := t.lc.access, lfsr := t.lc.lfsr } } ∧
      (s.lc.armed = true → AttemptBegins s t))

/-- R174, R176, R178, R184 to R187: every frame this part composes passes the receiver's checks, and is read back as its kind,
sender, destination, sequence number and body, with the START marker it was sent with. -/
def Obligations.ComposedFramesAreRead : Prop :=
  ∀ (s : State) (c : Chosen), 1 ≤ s.settings.station → s.settings.station ≤ 62 → 1 ≤ s.settings.stageCount →
    s.settings.stageCount ≤ 4 → s.lc.seq < 256 → c.fits →
    checkFrame ⟨composeFrame s c, (composeFrame s c).length, false, false⟩ = .good ∧
    ∃ f, decodeFrame (composeFrame s c) = some f ∧
      f = ⟨c.kind, s.settings.station, c.dest, s.lc.seq, chosenBody s c⟩ ∧ f.start = s.startMarker

/-- R143, R146, R185, R186, R187: every field of an INTENT (Table 9-8) and of an OUTCOME is read back from its body as it was
sent, and the record that R146 keeps of an INTENT is made of those fields; every field and flag of a BULLETIN (Tables 9-6, 9-7)
and of the three DETAIL pages (Tables 9-10 to 9-12) is read back as the state stood, within the width of its field. The model's
choices: the direction bit of the accumulator (log 33), the delay of an OPERATING chain (log 39), and the number and the oldest of
the duty entries as the list stands, not as the latest pruning left it (log 13). R71: page 0 records a reason code: with the step
index of a chain that ended REFUSED its reason, else one of those reported, 0 exactly when none is; its place, the delay's low
byte while no chain is present, and the order of these are the model's choice (log 35). -/
def Obligations.ContentsAreRead : Prop :=
  (∀ (x : IntentContent) (m : Bool) (sender seq now : Nat), x.number < 256 → x.size < 65536 → x.position < 65536 →
    10 ≤ x.holdOff → x.holdOff ≤ 100 →
    heardOf ⟨.intent, sender, 0xFF, seq, intentBody m x⟩ now =
      ⟨sender, x.position, x.dir, x.number, x.holdOff, now, 100 * (2 * x.holdOff + 50)⟩) ∧
  (∀ (x : IntentContent) (m : Bool), IntentRead x m (intentBody m x)) ∧
  (∀ (x : OutcomeContent) (m : Bool) (figure position : Nat), x.number < 256 → figure < 65536 → position < 65536 →
    let b := outcomeBody m figure position x
    byteAt b 0 = x.number ∧ resultOf (byteAt b 1) = x.result.code ∧ directionOf (byteAt b 1) = x.dir ∧
    byteAt b 1 % 8 = x.stage.num ∧ testBit (byteAt b 1) 7 = m ∧
    byteAt b 2 = x.cause.code ∧ byteAt b 3 = x.reason.code ∧ field b 4 2 = figure ∧ field b 6 2 = position) ∧
  (∀ s : State, BulletinRead s (chosenBody s .bulletin)) ∧
  (∀ (s : State) (panel : Nat),
    let d := chosenBody s (.detail 0 panel)
    PageRead s 0 s.stageIds.length d ∧ SupervisionStation s d ∧
    ∀ k, s.configured k = true → SupervisionStage s d k (20 + 16 * (k.num - 1))) ∧
  (∀ (s : State) (panel : Nat),
    let d := chosenBody s (.detail 1 panel)
    PageRead s 1 3 d ∧ MeasurementRead s d) ∧
  (∀ (s : State) (panel : Nat),
    let d := chosenBody s (.detail 2 panel)
    PageRead s 2 s.stageIds.length d ∧ LinePageStation s d ∧
    ∀ k, s.configured k = true → LinePageStage s d k (20 + 16 * (k.num - 1)))

/-! ### The Peer View (07) -/

/-- R134, R135, R136, R138: a difference of 1..128 is new, 0 is a duplicate, 129..255 is out of date. An accepted frame's entry
counts the frames missed before it, up to 255; a frame that is not new is discarded and changes nothing but the ring, be it from a
yard or from a panel, an ORDER among them; a frame that carries the own station number is a number clash,
the setting of whose flag is a bulletin trigger (R182), a further clash none. -/
def Obligations.FramesJudged : Prop :=
  (∀ seq last : Nat, seq < 256 → last < 256 →
    (isNew (seqDiff seq last) = true ↔ ∃ d, 1 ≤ d ∧ d ≤ 128 ∧ seq = (last + d) % 256) ∧
    (seqDiff seq last = 0 ↔ seq = last)) ∧
  (∀ (e : Peer) (d : Nat), e.lastSeq < 256 → 1 ≤ d → d ≤ 128 →
    e.track ((e.lastSeq + d) % 256) =
      { e with lastSeq := (e.lastSeq + d) % 256, missed := min 255 (e.missed + (d - 1)) }) ∧
  (∀ (c : Instr) (want : Taken) (s : State) (f : Frame) (e : Peer),
    (c, want) ∈ [(.bulletinArrival, .bulletin), (.outcomeArrival, .outcome), (.intentArrival, .intent),
      (.detailArrival, .detail), (.frameArrival, .frame)] →
    s.head want = some f → isYard f.sender = true → f.sender ≠ s.settings.station →
    findPeer f.sender s.pv.entries = some e → f.start = false → isNew (seqDiff f.seq e.lastSeq) = false →
    exec c s = .next { s with lc := { s.lc with ring := s.lc.ring.tail } }) ∧
  (∀ (c : Instr) (want : Taken) (s : State) (f : Frame),
    (c, want) = (.frameArrival, .frame) ∨ (c, want) = (.badOrder, .badOrder) ∨
      (∃ code, 1 ≤ code ∧ code ≤ 10 ∧ (c, want) = (orderCommand code, .order code)) →
    s.head want = some f → isYard f.sender = false → s.stepDue = false →
    (s.pv.panels.getD (f.sender - 0x40) ⟨false, 0⟩).valid = true → f.start = false →
    isNew (seqDiff f.seq (s.pv.panels.getD (f.sender - 0x40) ⟨false, 0⟩).lastSeq) = false →
    exec c s = .next { s with lc := { s.lc with ring := s.lc.ring.tail } }) ∧
  (∀ (c : Instr) (want : Taken) (s : State) (f : Frame),
    (c, want) ∈ [(.bulletinArrival, .bulletin), (.outcomeArrival, .outcome), (.intentArrival, .intent),
      (.detailArrival, .detail), (.frameArrival, .frame)] →
    s.head want = some f → isYard f.sender = true → f.sender = s.settings.station →
    ∃ t, exec c s = .next t ∧
      t = { s with
        pv := { s.pv with clash := some ((s.seconds + 60) % 4294967296) }
        lc := { s.lc with
          ring := s.lc.ring.tail, triggerDelay := t.lc.triggerDelay
          stats := { s.lc.stats with clash := min 255 (s.lc.stats.clash + 1) } } } ∧
      (s.pv.clash = none → Triggered s t) ∧
      (s.pv.clash.isSome = true → t.lc.triggerDelay = s.lc.triggerDelay))

/-- R134, R140, R142, R145: an accepted BULLETIN refreshes the sender's entry with its position, period and figure; a sender
not held is entered while there is a free place. -/
def Obligations.BulletinTaken : Prop :=
  (∀ (s : State) (f : Frame) (e : Peer), YardTaken s .bulletin f e →
    exec .bulletinArrival s = .next { s with
      lc := { s.lc with ring := s.lc.ring.tail }
      pv := { s.pv with
        heard := heardAfter f s.pv.heard
        entries := s.pv.entries.map fun x => if x.station = f.sender then
          { x.tracked f with
            position := field f.body 3 2, period := max 4 (min 60 (byteAt f.body 2))
            figure := if field f.body 8 2 ≤ 2000 then some (field f.body 8 2) else none
            ageMs := 0, stale := false }
          else x } }) ∧
  (∀ (s : State) (f : Frame), s.head .bulletin = some f → f.sender ≠ s.settings.station →
    findPeer f.sender s.pv.entries = none → s.pv.entries.length < 12 →
    exec .bulletinArrival s = .next { s with
      lc := { s.lc with ring := s.lc.ring.tail }
      pv := { s.pv with
        heard := heardAfter f s.pv.heard
        entries := s.pv.entries ++ [⟨f.sender, field f.body 3 2, max 4 (min 60 (byteAt f.body 2)),
          if field f.body 8 2 ≤ 2000 then some (field f.body 8 2) else none, f.seq, 0, 0, false⟩] } })

/-- R140, R141, R146: a newcomer is entered in a free place; in a full view in that of the STALE entry of greatest age, of those
the one of the lowest station number, which clears VIEW_FULL; with no STALE entry it is not entered, and VIEW_FULL is set. A
BULLETIN and an OUTCOME make a newcomer, an OUTCOME's with the own bulletin period; entered or not, the newcomer's OUTCOME settles
the heard intents and reaches the controller (R143, R147, R81). An INTENT and a DETAIL make none; the INTENT joins the heard
intents all the same and is judged for precedence, but for one with number 0 (R146, R160). -/
def Obligations.NewcomersEntered : Prop :=
  (∀ (e : Peer) (s : State),
    (s.pv.entries.length < 12 → enterPeer e s = { s with pv := { s.pv with entries := s.pv.entries ++ [e] } }) ∧
    (∀ old, 12 ≤ s.pv.entries.length → oldestStale s.pv.entries = some old →
      enterPeer e s = { s with pv := { s.pv with
        entries := s.pv.entries.filter (·.station ≠ old.station) ++ [e], viewFull := false } }) ∧
    (12 ≤ s.pv.entries.length → oldestStale s.pv.entries = none →
      enterPeer e s = { s with pv := { s.pv with viewFull := true } })) ∧
  (∀ l : List Peer,
    (oldestStale l = none ↔ ∀ x ∈ l, x.stale = false) ∧
    (∀ old, oldestStale l = some old → old ∈ l ∧ old.stale = true ∧ ∀ x ∈ l, x.stale = true →
      x.ageMs / 100 < old.ageMs / 100 ∨ (x.ageMs / 100 = old.ageMs / 100 ∧ old.station ≤ x.station))) ∧
  (∀ (s : State) (f : Frame), s.head .bulletin = some f → f.sender ≠ s.settings.station →
    findPeer f.sender s.pv.entries = none →
    exec .bulletinArrival s = .next (freeHead (enterPeer
      ⟨f.sender, field f.body 3 2, max 4 (min 60 (byteAt f.body 2)),
        if field f.body 8 2 ≤ 2000 then some (field f.body 8 2) else none, f.seq, 0, 0, false⟩
      { s with pv := { s.pv with heard := heardAfter f s.pv.heard } }))) ∧
  (∀ (s : State) (f : Frame), s.head .outcome = some f → f.sender ≠ s.settings.station →
    findPeer f.sender s.pv.entries = none →
    let p := (enterPeer
      ⟨f.sender, field f.body 6 2, s.settings.period,
        if field f.body 4 2 ≤ 2000 then some (field f.body 4 2) else none, f.seq, 0, 0, false⟩
      { s with pv := { s.pv with heard := heardAfter f s.pv.heard } }).pv
    ∃ t, exec .outcomeArrival s = .next t ∧
      t.pv = { p with heard := p.heard.filter fun h =>
        !(byteAt f.body 0 != 0 && h.sender == f.sender && h.number == byteAt f.body 0) } ∧
      PeerSwitchingTaken (resultOf (byteAt f.body 1)) (directionOf (byteAt f.body 1)) (field f.body 6 2) s t ∧
      ArrivalKept s t) ∧
  (∀ (s : State) (f : Frame), f.sender ≠ s.settings.station → findPeer f.sender s.pv.entries = none →
    (s.head .intent = some f → byteAt f.body 0 ≠ 0 → ∃ t, exec .intentArrival s = .next t ∧
      t.pv = { s.pv with heard := recordIntent (heardOf f s.tenths) s.pv.heard } ∧
      PrecedenceJudged (heardOf f s.tenths) s t ∧ ArrivalKept s t) ∧
    (s.head .intent = some f → byteAt f.body 0 = 0 → exec .intentArrival s = .next { s with
      lc := { s.lc with ring := s.lc.ring.tail } }) ∧
    (s.head .detail = some f → exec .detailArrival s = .next { s with
      lc := { s.lc with ring := s.lc.ring.tail }, pv := { s.pv with heard := heardAfter f s.pv.heard } }))

/-- R81, R134, R143, R147: an accepted OUTCOME refreshes the sender's entry and ends the heard intent it settles; an
EXECUTED one from within far reach starts the peer settle, takes WATCHING to QUIET, and withdraws an own proposal of its
direction; in QUIET, SUSPENDED and EXECUTING, and for a proposal of the other direction, it does no more than start the peer settle;
one that is not EXECUTED, or comes from farther, leaves the controller and the own intent as they were. -/
def Obligations.OutcomeTaken : Prop :=
  ∀ (s : State) (f : Frame) (e : Peer), YardTaken s .outcome f e →
    ∃ t, exec .outcomeArrival s = .next t ∧
      t.pv = { s.pv with
        heard := (heardAfter f s.pv.heard).filter fun h =>
          !(byteAt f.body 0 != 0 && h.sender == f.sender && h.number == byteAt f.body 0)
        entries := s.pv.entries.map fun x => if x.station = f.sender then
          { x.tracked f with
            position := field f.body 6 2
            figure := if field f.body 4 2 ≤ 2000 then some (field f.body 4 2) else none
            ageMs := 0, stale := false }
          else x } ∧
      PeerSwitchingTaken (resultOf (byteAt f.body 1)) (directionOf (byteAt f.body 1)) (field f.body 6 2) s t ∧
      ArrivalKept s t

/-- R134, R144, R146, R160: an accepted INTENT with a number refreshes the entry's age and position and joins the heard
intents, in place of the record of the same sender, else after the others, where a list of four loses its oldest; one with number 0
refreshes the entry alone. When it has precedence over an own intent of its direction, from within far reach, that one is
withdrawn. -/
def Obligations.IntentTaken : Prop :=
  (∀ (h : Heard) (l : List Heard),
    ((∃ x ∈ l, x.sender = h.sender) → recordIntent h l = l.filter (·.sender ≠ h.sender) ++ [h]) ∧
    ((∀ x ∈ l, x.sender ≠ h.sender) → l.length < 4 → recordIntent h l = l ++ [h]) ∧
    (∀ oldest rest, (∀ x ∈ l, x.sender ≠ h.sender) → l = oldest :: rest → l.length = 4 →
      recordIntent h l = rest ++ [h])) ∧
  (∀ (s : State) (f : Frame) (e : Peer), YardTaken s .intent f e → byteAt f.body 0 = 0 →
    exec .intentArrival s = .next { s with
      lc := { s.lc with ring := s.lc.ring.tail }
      pv := { s.pv with entries := s.pv.entries.map fun x => if x.station = f.sender then
        { x.tracked f with position := field f.body 4 2, ageMs := 0, stale := false } else x } }) ∧
  ∀ (s : State) (f : Frame) (e : Peer), YardTaken s .intent f e → byteAt f.body 0 ≠ 0 →
    let h := heardOf f s.tenths
    ∃ t, exec .intentArrival s = .next t ∧
      t.pv = { s.pv with
        heard := recordIntent h s.pv.heard
        entries := s.pv.entries.map fun x => if x.station = f.sender then
          { x.tracked f with position := h.position, ageMs := 0, stale := false } else x } ∧
      PrecedenceJudged h s t ∧ ArrivalKept s t

/-- R134, R138, R144, R176, R183: an accepted DETAIL refreshes the entry's age; an accepted frame that no block takes moves
only the tracking, an ORDER from a yard among them, which leaves the age (the model's reading of R145, log 16); a record of no
known form is counted and freed. -/
def Obligations.OtherFramesTaken : Prop :=
  (∀ (s : State) (f : Frame) (e : Peer), YardTaken s .detail f e →
    exec .detailArrival s = .next { s with
      lc := { s.lc with ring := s.lc.ring.tail }
      pv := { s.pv with
        heard := heardAfter f s.pv.heard
        entries := s.pv.entries.map fun x => if x.station = f.sender then
          { x.tracked f with ageMs := 0, stale := false } else x } }) ∧
  (∀ (s : State) (f : Frame) (e : Peer), YardTaken s .frame f e → isYard f.sender = true → f.kind ≠ .intent →
    exec .frameArrival s = .next { s with
      lc := { s.lc with ring := s.lc.ring.tail }
      pv := { s.pv with
        heard := heardAfter f s.pv.heard
        entries := s.pv.entries.map fun x => if x.station = f.sender then x.tracked f else x } }) ∧
  (∀ (s : State) (f : Frame), s.head .frame = some f → isYard f.sender = false →
    (s.pv.panels.getD (f.sender - 0x40) ⟨false, 0⟩).valid = false ∨ f.start = true ∨
      isNew (seqDiff f.seq (s.pv.panels.getD (f.sender - 0x40) ⟨false, 0⟩).lastSeq) = true →
    exec .frameArrival s = .next (s.judged f)) ∧
  (∀ (s : State) (r : Record) (rest : List Record), s.lc.ring = r :: rest → decodeFrame r.bytes = none →
    exec .formatDiscard s = .next { s with lc := { s.lc with
      ring := rest, stats := { s.lc.stats with format := min 255 (s.lc.stats.format + 1) } } })

/-- R135, R145, R148: an entry whose age has reached three periods becomes STALE, and one whose age has reached twelve is removed,
which clears VIEW_FULL; an entry that a frame of the same moment has refreshed stays FRESH (its age as the frame left it, log 44).
A heard intent whose lifetime has run
leaves the list, and a newer record of its sender stays. The end of a number clash is a bulletin trigger (R182). -/
def Obligations.PeerAgesEnd : Prop :=
  (∀ (s : State) (n : Byte), exec (.peerStale n) s = .next { s with pv := { s.pv with
    entries := s.pv.entries.map fun e => if e.station = n.toNat ∧ 3000 * e.period ≤ e.ageMs
      then { e with stale := true } else e } }) ∧
  (∀ (s : State) (n : Byte) (e : Peer), findPeer n.toNat s.pv.entries = some e →
    exec (.peerRemoval n) s = .next (if 12000 * e.period ≤ e.ageMs
      then { s with pv := { s.pv with entries := s.pv.entries.filter (·.station ≠ n.toNat), viewFull := false } }
      else s)) ∧
  (∀ e : Peer, 1 ≤ e.period → e.fresh.age = e.fresh ∧ e.fresh.ageMs < removalAge e.period) ∧
  (∀ (s : State) (n : Byte), exec (.heardIntentExpiry n) s = .next { s with pv := { s.pv with
    heard := s.pv.heard.filter fun h => !(h.sender == n.toNat && h.left == 0) } }) ∧
  (∀ (l : List Heard) (f : Frame) (now : Nat),
    heardOf f now ∈ expireHeard (heardOf f now).sender (recordIntent (heardOf f now) l)) ∧
  (∀ (s : State) (at' : Nat), s.pv.clash = some at' →
    ∃ t, exec .numberClashExpiry s = .next t ∧ Triggered s t ∧
      t = { s with pv := { s.pv with clash := none }, lc := { s.lc with triggerDelay := t.lc.triggerDelay } })

/-! ### The own intent (08) -/

/-- R89, R90, R156, R158, R97, R165: a hold-off that runs out commits an intent whose stage passes the re-test, and issues its
operation on a breaker that stands at the other position: the intent is COMMITTED, the controller EXECUTING. One whose stage fails
the re-test is withdrawn with the reason of the failure, and the controller returns to WATCHING with its accumulators kept, for
every reason but those of a suspension, which the permission rules out (R75). An intent not sent within the queue time is withdrawn
with CHANNEL_BUSY; the third such in a row sets ISOLATED. -/
def Obligations.IntentTimersEnd : Prop :=
  (∀ (s : State) (i : Intent) (n : Nat), s.ix.own = some i → i.phase = .holding n → s.permitted = true →
    s.stepDue = false →
    let u := { s with ix := { s.ix with own := some { i with phase := .committed } } }
    (i.dir = .close → s.configured i.stage = true → s.position i.stage ≠ .closed →
      closeTest (pruneFor u i.stage.num) i.stage.num .autoRaise i.number = none →
      ∃ t, exec .holdOffExpiry s = .next t ∧ t.ix = u.ix ∧
        t.vc = { s.vc with state := .executing, unserved := .none, ownOp := some ⟨i.stage, .close, i.number⟩ } ∧
        t.stage i.stage = s.closeIssued i.stage .autoRaise i.number ∧
        OtherStages i.stage s t ∧ t.ready = s.ready.filter (· ≠ i.stage) ∧ t.inService = s.inService ∧
        SwitchFrame s t) ∧
    (i.dir = .opening → s.position i.stage ≠ .opened → openRefusal u i.stage.num .autoLower = none →
      ∃ t, exec .holdOffExpiry s = .next t ∧ t.ix = u.ix ∧
        t.vc = { s.vc with state := .executing, unserved := .none, ownOp := some ⟨i.stage, .opening, i.number⟩ } ∧
        t.stage i.stage = s.openIssued i.stage .autoLower i.number ∧
        OtherStages i.stage s t ∧ t.ready = s.ready ∧ t.inService = s.inService.filter (· ≠ i.stage) ∧
        SwitchFrame s t) ∧
    (∀ r, commitRefusal (pruneRequest u i.dir i.stage.num) i = some r → r ≠ .deadLine → r ≠ .measLost →
      ∃ t, exec .holdOffExpiry s = .next t ∧ t.ix = { s.ix with own := none } ∧
        t.vc = { s.vc with state := .watching, unserved := r } ∧
        t.lc.outcomeSlot = some (withdrawalContent { i with phase := .committed } r) ∧
        t.stages = (pruneRequest s i.dir i.stage.num).stages ∧ t.ready = s.ready ∧ t.inService = s.inService ∧
        t.oi = s.oi ∧ t.ur = s.ur ∧ SwitchFrame s t)) ∧
  (∀ (s : State) (i : Intent) (q : Nat), s.ix.own = some i → i.phase = .queued false q →
    ∃ t, exec .queueTimeExpiry s = .next t ∧
      t.ix = { s.ix with
        own := none, busyCount := min 3 (s.ix.busyCount + 1), isolated := s.ix.isolated || 2 ≤ s.ix.busyCount } ∧
      t.vc.state = .quiet ∧ t.vc.low = 0 ∧ t.vc.high = 0 ∧ t.vc.causes = s.vc.causes ∧
      t.vc.stationSettle = some (1000 * s.settings.stationSettle) ∧ t.lc.intentSlot = none ∧
      t.lc.outcomeSlot = some (withdrawalContent i .channelBusy) ∧ t.oi = s.oi ∧ t.ur = s.ur ∧
      NoticeFrame { s with ix := t.ix } t)

/-! ### Orders and chains (10) -/

/-- R188, R191, R30, R31, R37, R68: a CLOSE or an OPEN order is refused BUSY while a chain is present. An own intent in PROPOSING
is then withdrawn with ORDER, and the order taken as the state stands. It is refused BUSY, a CLOSE in EXECUTING or while any stage
moves, an OPEN while any stage closes or its own is in OPENING; a refusal of the close test or of the open conditions is recorded
with its reason. One that is accepted is recorded IN_PROGRESS, awaiting the stage's report, and its command is issued on a stage
that stands at the other position, an open also on a connected FAULT; on a breaker at its target already the command completes at
its issue and the order is DONE. Each write of the last-order record is a bulletin trigger (R182, R189). -/
def Obligations.SwitchOrdersIssue : Prop :=
  (∀ (s : State) (f : Frame) (k : StageId), OrderTaken s 1 f → s.oi.chain = none → s.vc.state ≠ .proposing →
    s.orderBusy .close f.order.stage = false → stageOf s.settings.stageCount f.order.stage = some k →
    closeTest (s.prune k) f.order.stage .order 0 = none → s.position k ≠ .closed →
    ∃ t, exec .orderClose s = .next t ∧
      t.oi = { s.oi with last := ⟨f.sender, byteAt f.body 0, .inProgress, 0⟩, mark := .report k } ∧
      t.stage k = { s.stage k with
        state := .closing, lastCause := .order, disc := none, closeOut := true
        op := some ⟨.close, .order, 0, s.ms, none⟩
        pulse := some (s.cfg k).pulseWidth, window := some (s.cfg k).operateWindow
        duty := pruneDuty s.seconds (s.stage k).duty ++ [s.seconds] } ∧
      OtherStages k s t ∧ t.ready = s.ready.filter (· ≠ k) ∧ t.inService = s.inService ∧
      Triggered s t ∧ SwitchFrame (s.judged f) t) ∧
  (∀ (s : State) (f : Frame) (k : StageId), OrderTaken s 2 f → s.oi.chain = none → s.vc.state ≠ .proposing →
    s.orderBusy .opening f.order.stage = false → stageOf s.settings.stageCount f.order.stage = some k →
    (s.stage k).state = .closed → s.position k ≠ .opened →
    ∃ t, exec .orderOpen s = .next t ∧
      t.oi = { s.oi with last := ⟨f.sender, byteAt f.body 0, .inProgress, 0⟩, mark := .report k } ∧
      t.stage k = { s.stage k with
        state := .opening, lastCause := .order, disc := none, openOut := true
        op := some ⟨.opening, .order, 0, s.ms, none⟩
        pulse := some (s.cfg k).pulseWidth, window := some (s.cfg k).operateWindow } ∧
      OtherStages k s t ∧ t.inService = s.inService.filter (· ≠ k) ∧ t.ready = s.ready ∧
      Triggered s t ∧ SwitchFrame (s.judged f) t) ∧
  (∀ (c : Instr) (code : Nat) (dir : Direction) (s : State) (f : Frame),
    (c, code, dir) = (.orderClose, 1, .close) ∨ (c, code, dir) = (.orderOpen, 2, .opening) →
    OrderTaken s code f → s.oi.chain.isSome = true →
    ∃ t, exec c s = .next t ∧
      t.oi = { s.oi with last := ⟨f.sender, byteAt f.body 0, .refused, 8⟩, mark := .none } ∧
      Triggered s t ∧ NoticeFrame (s.judged f) t ∧ t.vc = s.vc ∧ t.ix = s.ix ∧ t.ur = s.ur) ∧
  (∀ (c : Instr) (code : Nat) (dir : Direction) (s : State) (f : Frame),
    (c, code, dir) = (.orderClose, 1, .close) ∨ (c, code, dir) = (.orderOpen, 2, .opening) →
    OrderTaken s code f → s.oi.chain = none → s.vc.state ≠ .proposing → s.orderBusy dir f.order.stage = true →
    ∃ t, exec c s = .next t ∧
      t.oi = { s.oi with last := ⟨f.sender, byteAt f.body 0, .refused, 8⟩, mark := .none } ∧
      Triggered s t ∧ NoticeFrame (s.judged f) t ∧ t.vc = s.vc ∧ t.ix = s.ix ∧ t.ur = s.ur) ∧
  (∀ (s : State) (n : Nat),
    (s.orderBusy .close n = true ↔ s.vc.state = .executing ∨
      ∃ j, s.configured j = true ∧ ((s.stage j).state = .closing ∨ (s.stage j).state = .opening)) ∧
    (s.orderBusy .opening n = true ↔ (∃ j, s.configured j = true ∧ (s.stage j).state = .closing) ∨
      ∃ k, stageOf s.settings.stageCount n = some k ∧ (s.stage k).state = .opening)) ∧
  (∀ (c : Instr) (code : Nat) (dir : Direction) (s : State) (f : Frame) (i : Intent),
    (c, code, dir) = (.orderClose, 1, .close) ∨ (c, code, dir) = (.orderOpen, 2, .opening) →
    OrderTaken s code f → s.oi.chain = none → s.vc.state = .proposing → s.ix.own = some i → i.phase ≠ .committed →
    let x := withdraw .order s
    x.ix = { s.ix with own := none } ∧ x.vc = { s.vc with state := .watching, unserved := .order } ∧
    x.lc.outcomeSlot = some (withdrawalContent i .order) ∧ x.oi = s.oi ∧ x.ur = s.ur ∧ NoticeFrame s x ∧
    OrderTaken x code f ∧ exec c s = exec c x) ∧
  (∀ (c : Instr) (code : Nat) (dir : Direction) (s : State) (f : Frame) (r : Reason),
    (c, code, dir) = (.orderClose, 1, .close) ∨ (c, code, dir) = (.orderOpen, 2, .opening) →
    OrderTaken s code f → s.oi.chain = none → s.vc.state ≠ .proposing → s.orderBusy dir f.order.stage = false →
    requestRefusal (pruneRequest s dir f.order.stage) dir f.order.stage .order = some r →
    ∃ t, exec c s = .next t ∧
      t.oi = { s.oi with last := ⟨f.sender, byteAt f.body 0, .refused, r.code⟩, mark := .none } ∧
      t.stages = (pruneRequest s dir f.order.stage).stages ∧ t.ready = s.ready ∧ t.inService = s.inService ∧
      Triggered s t ∧ SwitchFrame (s.judged f) t ∧ t.vc = s.vc ∧ t.ix = s.ix ∧ t.ur = s.ur) ∧
  (∀ (s : State) (f : Frame) (k : StageId), OrderTaken s 2 f → s.oi.chain = none → s.vc.state ≠ .proposing →
    s.orderBusy .opening f.order.stage = false → stageOf s.settings.stageCount f.order.stage = some k →
    (s.stage k).state = .closed ∨ ((s.stage k).state.isFault = true ∧ (s.stage k).connected = true) →
    ∃ t, exec .orderOpen s = .next t ∧ t.stage k = s.openTaken k .order 0 ∧ OtherStages k s t ∧
      t.inService = (if (s.stage k).state = .closed then s.inService.filter (· ≠ k) else s.inService) ∧
      t.ready = s.ready ∧ Triggered s t ∧ SwitchFrame (s.judged f) t ∧
      t.oi = { s.oi with
        last := ⟨f.sender, byteAt f.body 0, if s.position k = .opened then .done else .inProgress, 0⟩
        mark := if s.position k = .opened then .none else .report k } ∧
      (s.position k = .opened → t.lc.outcomeSlot = some ⟨0, .executed, .opening, k, .order, .none⟩)) ∧
  (∀ (s : State) (f : Frame) (k : StageId), OrderTaken s 1 f → s.oi.chain = none → s.vc.state ≠ .proposing →
    s.orderBusy .close f.order.stage = false → stageOf s.settings.stageCount f.order.stage = some k →
    closeTest (s.prune k) f.order.stage .order 0 = none → s.position k = .closed →
    ∃ t, exec .orderClose s = .next t ∧
      t.stage k = { s.stage k with
        state := .closed, lastCause := .order, discharge := 0, disc := none, op := none
        closeOut := false, pulse := none, window := none
        duty := pruneDuty s.seconds (s.stage k).duty ++ [s.seconds] } ∧
      OtherStages k s t ∧ t.ready = s.ready.filter (· ≠ k) ∧ t.inService = s.inService ++ [k] ∧
      t.oi = { s.oi with last := ⟨f.sender, byteAt f.body 0, .done, 0⟩, mark := .none } ∧
      t.lc.outcomeSlot = some ⟨0, .executed, .close, k, .order, .none⟩ ∧ Triggered s t ∧ SwitchFrame (s.judged f) t)

/-- R188, R189: an order that is addressed to the part is refused with NOT_PERMITTED when its panel is not permitted, and with
BAD_ORDER when its form does not fit, a code outside 1..10 among them; the refusal is recorded, which is a bulletin trigger
(R182), and nothing is switched. An order addressed elsewhere is ignored, and the last-order record stays. -/
def Obligations.OrdersRefused : Prop :=
  (∀ (s : State) (f : Frame) (code : Nat), 1 ≤ code → code ≤ 10 → OrderHeard s (.order code) f → s.stepDue = false →
    s.panelPermitted f.sender = false ∨ f.order.formOk = false →
    ∃ t, exec (orderCommand code) s = .next t ∧
      t.oi = { s.oi with
        mark := .none
        last := ⟨f.sender, byteAt f.body 0, .refused, if s.panelPermitted f.sender then 27 else 26⟩ } ∧
      Triggered s t ∧ NoticeFrame (s.judged f) t ∧ t.vc = s.vc ∧ t.ix = s.ix ∧ t.ur = s.ur) ∧
  (∀ (s : State) (f : Frame), OrderHeard s .badOrder f →
    ∃ t, exec .badOrder s = .next t ∧
      t.oi = { s.oi with
        mark := .none
        last := ⟨f.sender, byteAt f.body 0, .refused, if s.panelPermitted f.sender then 27 else 26⟩ } ∧
      Triggered s t ∧ NoticeFrame (s.judged f) t ∧ t.vc = s.vc ∧ t.ix = s.ix ∧ t.ur = s.ur) ∧
  (∀ (c : Instr) (want : Taken) (s : State) (f : Frame),
    (c, want) = (.badOrder, .badOrder) ∨ (∃ code, 1 ≤ code ∧ code ≤ 10 ∧ (c, want) = (orderCommand code, .order code)) →
    s.head want = some f → s.stepDue = false →
    (s.pv.panels.getD (f.sender - 0x40) ⟨false, 0⟩).valid = false ∨ f.start = true ∨
      isNew (seqDiff f.seq (s.pv.panels.getD (f.sender - 0x40) ⟨false, 0⟩).lastSeq) = true →
    s.addressed f.dest = false → exec c s = .next (s.judged f))

/-- R190, R50, R74, R128, R177: MODE sets the mode and its suspension cause, and where it suspends a controller in PROPOSING the
intent is withdrawn with SUSPENDED, its OUTCOME placed (R75, R162, R165); BLOCK_SET and BLOCK_CLEAR move the named configured
stages in or out of the block set; REPORT fills the DETAIL slot; CAPTURE_NULL of a stage in service opens a fresh capture, in
place of one of that stage. Each is recorded DONE, the capture IN_PROGRESS. A CAPTURE_NULL of a stage that is not there is refused
BAD_STAGE, one while another stage is being captured BUSY, one of a stage out of service or blanked NOT_CLOSED; the refusal is
recorded, and nothing else changes. Each write of the last-order record is a bulletin trigger (R182). -/
def Obligations.SingleOrdersServed : Prop :=
  (∀ (s : State) (f : Frame), OrderTaken s 3 f →
    ∃ t, exec .orderMode s = .next t ∧ t.vc.manual = (byteAt f.order.arg 0 == 1) ∧
      t.vc.causes = (if s.vc.manual = (byteAt f.order.arg 0 == 1) then s.vc.causes
        else { s.vc.causes with manual := byteAt f.order.arg 0 == 1 }) ∧
      (s.vc.manual = false → byteAt f.order.arg 0 = 1 → s.vc.causes.isEmpty = true → s.vc.state ≠ .executing →
        t.vc.state = .suspended) ∧
      (∀ i, s.vc.manual = false → byteAt f.order.arg 0 = 1 → Proposes i s → Withdrawn i .suspended s t) ∧
      (s.vc.manual = true → byteAt f.order.arg 0 = 0 → s.vc.causes = ⟨true, false, false, false, false, false, false⟩ →
        s.vc.state = .suspended → t.vc.state = .quiet) ∧
      t.oi = { s.oi with last := ⟨f.sender, byteAt f.body 0, .done, 0⟩, mark := .none } ∧
      Triggered s t ∧ NoticeFrame (s.judged f) t ∧ t.ur = s.ur) ∧
  (∀ (s : State) (f : Frame) (member : Bool), OrderTaken s (if member then 4 else 5) f →
    ∃ t, exec (if member then .orderBlockSet else .orderBlockClear) s = .next t ∧
      (∀ k, t.blockSet.get k =
        if testBit (byteAt f.order.arg 0) (k.num - 1) && s.configured k then member else s.blockSet.get k) ∧
      t.oi = { s.oi with last := ⟨f.sender, byteAt f.body 0, .done, 0⟩, mark := .none } ∧
      Triggered s t ∧ NoticeFrame { s.judged f with blockSet := t.blockSet } t ∧ t.vc = s.vc ∧ t.ix = s.ix ∧ t.ur = s.ur) ∧
  (∀ (s : State) (f : Frame), OrderTaken s 10 f →
    ∃ t, exec .orderReport s = .next t ∧
      t.lc.detailSlot = some (if f.order.argLen = 0 then 0 else byteAt f.order.arg 0, f.sender) ∧
      t.oi = { s.oi with mark := .none, last :=
        ⟨f.sender, byteAt f.body 0, .done, if f.order.argLen = 0 then 0 else byteAt f.order.arg 0⟩ } ∧
      Triggered s t ∧
      NoticeFrame { s.judged f with lc := { (s.judged f).lc with detailSlot := t.lc.detailSlot } } t ∧
      t.vc = s.vc ∧ t.ix = s.ix ∧ t.ur = s.ur) ∧
  (∀ (s : State) (f : Frame) (k : StageId), OrderTaken s 7 f → stageOf s.settings.stageCount f.order.stage = some k →
    (∀ c, s.ur.capture = some c → c.stage = k) → (s.ur.entries.get k).inService = true →
    (s.ur.entries.get k).blanking = 0 →
    ∃ t, exec .orderCaptureNull s = .next t ∧
      t.ur = { s.ur with capture := some ⟨k, 0, 0, 0, f.sender, byteAt f.body 0⟩ } ∧
      t.oi = { s.oi with last := ⟨f.sender, byteAt f.body 0, .inProgress, 0⟩, mark := .capture } ∧
      Triggered s t ∧ NoticeFrame (s.judged f) t ∧ t.vc = s.vc ∧ t.ix = s.ix) ∧
  (∀ (s : State) (n : Nat),
    (captureRefusal s n = some .badStage ↔ ¬(1 ≤ n ∧ n ≤ 4 ∧ n ≤ s.settings.stageCount)) ∧
    (∀ k, stageOf s.settings.stageCount n = some k →
      (captureRefusal s n = some .busy ↔ ∃ c, s.ur.capture = some c ∧ c.stage ≠ k) ∧
      (captureRefusal s n = some .notClosed ↔ (∀ c, s.ur.capture = some c → c.stage = k) ∧
        ((s.ur.entries.get k).inService = false ∨ 0 < (s.ur.entries.get k).blanking)) ∧
      (captureRefusal s n = none ↔ (∀ c, s.ur.capture = some c → c.stage = k) ∧
        (s.ur.entries.get k).inService = true ∧ (s.ur.entries.get k).blanking = 0))) ∧
  (∀ (s : State) (f : Frame) (r : Reason), OrderTaken s 7 f → captureRefusal s f.order.stage = some r →
    ∃ t, exec .orderCaptureNull s = .next t ∧
      t.oi = { s.oi with last := ⟨f.sender, byteAt f.body 0, .refused, r.code⟩, mark := .none } ∧
      Triggered s t ∧ NoticeFrame (s.judged f) t ∧ t.vc = s.vc ∧ t.ix = s.ix ∧ t.ur = s.ur)

/-- R69, R70, R190: RESET_STAGE clears the trip latch of a stage in LOCKOUT or FAULT, and leaves it READY when no discharge
remains, DISCHARGING otherwise; a stage that counted as connected discharges in full; the order is DONE. Its breaker's position is
then taken anew: in TRANSIT or BAD the discrepancy timer runs from the new state; a breaker found closed is an external close
(R43), which under a declared dead line is opened at once (R95; log 15). Any other stage is refused, with the first reason that
holds: BAD_STAGE for a stage that is not there, ABSENT for one in ABSENT, ALREADY for one in any of the other five states; the
refusal is recorded, and no stage changes. Each write of the last-order record is a bulletin trigger (R182). -/
def Obligations.StageResets : Prop :=
  (∀ (s : State) (f : Frame) (k : StageId), OrderTaken s 6 f → s.stepDue = false →
    stageOf s.settings.stageCount f.order.stage = some k →
    (s.stage k).state = .lockout ∨ (s.stage k).state.isFault = true → s.position k = .opened →
    let left := if (s.stage k).connected then s.fullDischarge k else (s.stage k).discharge
    let new : StageState := if left = 0 then .ready else .discharging
    ∃ t, exec .orderResetStage s = .next t ∧ (t.stage k).state = new ∧ (t.stage k).tripLatch = false ∧
      (t.stage k).discharge = left ∧ (t.stage k).duty = (s.stage k).duty ∧
      (t.stage k).lastCause = (s.stage k).lastCause ∧ OtherStages k s t ∧
      t.ready = (if left = 0 then s.ready ++ [k] else s.ready) ∧ t.inService = s.inService ∧
      t.oi = { s.oi with last := ⟨f.sender, byteAt f.body 0, .done, 0⟩, mark := .none } ∧
      Triggered s t ∧ SwitchFrame (s.judged f) t) ∧
  (∀ (s : State) (n : Nat),
    (resetRefusal s n = some .badStage ↔ ¬(1 ≤ n ∧ n ≤ 4 ∧ n ≤ s.settings.stageCount)) ∧
    (∀ k, stageOf s.settings.stageCount n = some k →
      (resetRefusal s n = some .absent ↔ (s.stage k).state = .absent) ∧
      (resetRefusal s n = some .already ↔ (s.stage k).state = .ready ∨ (s.stage k).state = .discharging ∨
        (s.stage k).state = .closing ∨ (s.stage k).state = .closed ∨ (s.stage k).state = .opening) ∧
      (resetRefusal s n = none ↔ (s.stage k).state = .lockout ∨ (s.stage k).state.isFault = true))) ∧
  (∀ (s : State) (f : Frame) (r : Reason), OrderTaken s 6 f → s.stepDue = false →
    resetRefusal s f.order.stage = some r →
    ∃ t, exec .orderResetStage s = .next t ∧
      t.oi = { s.oi with last := ⟨f.sender, byteAt f.body 0, .refused, r.code⟩, mark := .none } ∧
      Triggered s t ∧ NoticeFrame (s.judged f) t ∧ t.vc = s.vc ∧ t.ix = s.ix ∧ t.ur = s.ur) ∧
  (∀ (s : State) (f : Frame) (k : StageId), OrderTaken s 6 f → ChainApart k s →
    stageOf s.settings.stageCount f.order.stage = some k →
    (s.stage k).state = .lockout ∨ (s.stage k).state.isFault = true →
    let left := if (s.stage k).connected then s.fullDischarge k else (s.stage k).discharge
    let new : StageState := if left = 0 then .ready else .discharging
    ∃ t, exec .orderResetStage s = .next t ∧ OtherStages k s t ∧
      t.oi = { s.oi with last := ⟨f.sender, byteAt f.body 0, .done, 0⟩, mark := .none } ∧
      Triggered s t ∧ SwitchFrame (s.judged f) t ∧
      (s.position k = .transit ∨ s.position k = .bad →
        t.stage k = { s.stage k with
          state := new, tripLatch := false, discharge := left, op := none
          disc := match (s.stage k).state, (s.stage k).disc with
            | .lockout, some d => some { d with origin := new }
            | _, _ => some ⟨new, 0⟩ } ∧
        t.ready = (if left = 0 then s.ready ++ [k] else s.ready) ∧ t.inService = s.inService) ∧
      (s.position k = .closed →
        t.ready = (if left = 0 then s.ready.filter (· ≠ k) else s.ready) ∧
        (s.vc.deadLine = false →
          t.stage k = { s.stage k with
            state := .closed, tripLatch := false, discharge := 0, disc := none, op := none
            lastCause := if left = 0 then .extClose else .extCloseCharged
            duty := recordDuty (s.cfg k).dutyLimit s.seconds (s.stage k).duty } ∧
          t.inService = s.inService ++ [k]) ∧
        (s.vc.deadLine = true →
          t.stage k = { s.stage k with
            state := .opening, tripLatch := false, discharge := 0, disc := none, lastCause := .deadLine
            openOut := true, op := some ⟨.opening, .deadLine, 0, s.ms, none⟩
            pulse := some (s.cfg k).pulseWidth, window := some (s.cfg k).operateWindow
            duty := recordDuty (s.cfg k).dutyLimit s.seconds (s.stage k).duty } ∧
          t.inService = s.inService.filter (· ≠ k))))

/-- R190, R192, R193, R194: a SEQUENCE makes a WAITING chain and suspends control, by which the intent of a controller in
PROPOSING is withdrawn with SUSPENDED, its OUTCOME placed (R75, R162, R165). A first step with a delay waits; one with delay 0 is
served at that event, as a CHAIN_STEP serves it (log 14): a step that is accepted is issued, and the chain is OPERATING; a step
that is refused ends the chain REFUSED. While a chain is present it is refused BUSY. STOP_SEQUENCE ends the chain, its step index
held (no refusal with it, log 35), and removes its suspension cause; with no chain it is refused ALREADY. Each write of the
last-order record is a bulletin trigger (R182). -/
def Obligations.ChainsBeginAndStop : Prop :=
  (∀ (s : State) (f : Frame) (st : Sys2Proof.Machine.Step) (rest : List Sys2Proof.Machine.Step), OrderTaken s 8 f →
    s.oi.chain = none → stepsOf (f.order.arg.take f.order.argLen) = st :: rest → 0 < st.delay →
    ∃ t, exec .orderSequence s = .next t ∧
      t.oi = { s.oi with
        last := ⟨f.sender, byteAt f.body 0, .inProgress, 1⟩, mark := .chain
        chain := some ⟨st :: rest, 1, false, st.delay, f.sender, byteAt f.body 0⟩ } ∧
      t.vc.causes = { s.vc.causes with chainActive := true } ∧
      (s.vc.causes.isEmpty = true → s.vc.state ≠ .executing → t.vc.state = .suspended) ∧
      (∀ i, Proposes i s → Withdrawn i .suspended s t) ∧
      Triggered s t ∧ NoticeFrame (s.judged f) t ∧ t.ur = s.ur) ∧
  (∀ (s : State) (f : Frame) (st : Sys2Proof.Machine.Step) (rest : List Sys2Proof.Machine.Step), OrderTaken s 8 f →
    s.oi.chain = none → stepsOf (f.order.arg.take f.order.argLen) = st :: rest → st.delay = 0 →
    ∃ u, exec .orderSequence s = exec .chainStep u ∧
      u.oi = { s.oi with
        last := ⟨f.sender, byteAt f.body 0, .inProgress, 1⟩, mark := .chain
        chain := some ⟨st :: rest, 1, false, 0, f.sender, byteAt f.body 0⟩ } ∧
      u.vc.causes = { s.vc.causes with chainActive := true } ∧
      (s.vc.causes.isEmpty = true → s.vc.state ≠ .executing → u.vc.state = .suspended) ∧
      (∀ i, Proposes i s → Withdrawn i .suspended s u) ∧
      Triggered s u ∧ NoticeFrame (s.judged f) u ∧ u.ur = s.ur ∧
      (∀ k, st.dir = .close → stageOf s.settings.stageCount st.stage = some k → s.orderBusy .close st.stage = false →
        closeTest (s.prune k) st.stage .sequence 0 = none → s.position k ≠ .closed →
        ∃ t, exec .orderSequence s = .next t ∧
          t.oi = { u.oi with chain := some ⟨st :: rest, 1, true, 0, f.sender, byteAt f.body 0⟩ } ∧
          t.stage k = s.closeIssued k .sequence 0 ∧ OtherStages k s t ∧ t.ready = s.ready.filter (· ≠ k) ∧
          t.inService = s.inService ∧ SwitchFrame (s.judged f) t) ∧
      (∀ k, st.dir = .opening → stageOf s.settings.stageCount st.stage = some k →
        s.orderBusy .opening st.stage = false → openRefusal s st.stage .sequence = none → s.position k ≠ .opened →
        (s.stage k).state = .closed ∨ (s.stage k).state.isFault = true →
        ∃ t, exec .orderSequence s = .next t ∧
          t.oi = { u.oi with chain := some ⟨st :: rest, 1, true, 0, f.sender, byteAt f.body 0⟩ } ∧
          t.stage k = s.openIssued k .sequence 0 ∧ OtherStages k s t ∧ t.ready = s.ready ∧
          t.inService = (if (s.stage k).state = .closed then s.inService.filter (· ≠ k) else s.inService) ∧
          SwitchFrame (s.judged f) t) ∧
      (∀ r, (s.orderBusy st.dir st.stage = true ∧ r = .busy) ∨ (s.orderBusy st.dir st.stage = false ∧
          requestRefusal (pruneRequest s st.dir st.stage) st.dir st.stage .sequence = some r) →
        ∃ t, exec .orderSequence s = .next t ∧
          t.oi = ⟨⟨f.sender, byteAt f.body 0, .refused, r.code⟩, .none, none, 1, r⟩ ∧
          t.vc.causes = { s.vc.causes with chainActive := false } ∧
          t.stages = (if s.orderBusy st.dir st.stage then s else pruneRequest s st.dir st.stage).stages ∧
          t.ready = s.ready ∧ t.inService = s.inService ∧ Triggered s t ∧ SwitchFrame (s.judged f) t)) ∧
  (∀ (s : State) (f : Frame) (c : Chain), OrderTaken s 9 f → s.oi.chain = some c →
    ∃ t, exec .orderStopSequence s = .next t ∧
      t.oi = ⟨⟨c.panel, c.tag, .stopped, c.index⟩, .none, none, c.index, .none⟩ ∧
      t.vc.causes = { s.vc.causes with chainActive := false } ∧
      Triggered s t ∧ NoticeFrame (s.judged f) t ∧ t.ur = s.ur ∧ t.ix = s.ix) ∧
  (∀ (s : State) (f : Frame), OrderTaken s 8 f → s.oi.chain.isSome = true → s.stepDue = false →
    ∃ t, exec .orderSequence s = .next t ∧
      t.oi = { s.oi with last := ⟨f.sender, byteAt f.body 0, .refused, 8⟩, mark := .none } ∧
      Triggered s t ∧ NoticeFrame (s.judged f) t ∧ t.vc = s.vc ∧ t.ix = s.ix ∧ t.ur = s.ur) ∧
  (∀ (s : State) (f : Frame), OrderTaken s 9 f → s.oi.chain = none →
    ∃ t, exec .orderStopSequence s = .next t ∧
      t.oi = { s.oi with last := ⟨f.sender, byteAt f.body 0, .refused, 3⟩, mark := .none } ∧
      Triggered s t ∧ NoticeFrame (s.judged f) t ∧ t.vc = s.vc ∧ t.ix = s.ix ∧ t.ur = s.ur)

/-- R192, R193, R194: the step of a WAITING chain is issued with cause SEQUENCE when its request is accepted, and the chain is
OPERATING; a step that is refused, as busy, by the close test or by the open conditions, ends the chain REFUSED with the reason,
and the step index and the reason are held for DETAIL (R71; log 35); the write of the last-order record is a bulletin trigger
(R182). -/
def Obligations.ChainStepServed : Prop :=
  (∀ (s : State) (c : Chain) (st : Sys2Proof.Machine.Step) (k : StageId), s.oi.chain = some c → c.operating = false →
    c.current = some st → st.dir = .close → s.orderBusy .close st.stage = false →
    stageOf s.settings.stageCount st.stage = some k → closeTest (s.prune k) st.stage .sequence 0 = none →
    s.position k ≠ .closed →
    ∃ t, exec .chainStep s = .next t ∧
      t.oi = { s.oi with chain := some { c with operating := true, delay := 0 } } ∧
      t.stage k = s.closeIssued k .sequence 0 ∧
      OtherStages k s t ∧ t.ready = s.ready.filter (· ≠ k) ∧ t.inService = s.inService ∧ SwitchFrame s t) ∧
  (∀ (s : State) (c : Chain) (st : Sys2Proof.Machine.Step) (k : StageId), s.oi.chain = some c → c.operating = false →
    c.current = some st → st.dir = .opening → s.orderBusy .opening st.stage = false →
    stageOf s.settings.stageCount st.stage = some k → openRefusal s st.stage .sequence = none →
    s.position k ≠ .opened → s.ur.capture = none →
    ∃ t, exec .chainStep s = .next t ∧
      t.oi = { s.oi with chain := some { c with operating := true, delay := 0 } } ∧
      t.stage k = s.openIssued k .sequence 0 ∧ OtherStages k s t ∧ t.ready = s.ready ∧
      t.inService = (if (s.stage k).state = .closed then s.inService.filter (· ≠ k) else s.inService) ∧
      SwitchFrame s t) ∧
  (∀ (s : State) (c : Chain) (st : Sys2Proof.Machine.Step) (r : Reason), s.oi.chain = some c → c.operating = false →
    c.current = some st →
    (s.orderBusy st.dir st.stage = true ∧ r = .busy) ∨ (s.orderBusy st.dir st.stage = false ∧
      requestRefusal (pruneRequest s st.dir st.stage) st.dir st.stage .sequence = some r) →
    ∃ t, exec .chainStep s = .next t ∧ t.oi = ⟨⟨c.panel, c.tag, .refused, r.code⟩, .none, none, c.index, r⟩ ∧
      t.vc.causes = { s.vc.causes with chainActive := false } ∧
      t.stages = (if s.orderBusy st.dir st.stage then s else pruneRequest s st.dir st.stage).stages ∧
      t.ready = s.ready ∧ t.inService = s.inService ∧ Triggered s t ∧ SwitchFrame s t)

/-- R51, R83, R91, R159, R165, R191, R193, R194: what a switching report does. Its OUTCOME is placed and a COMMITTED intent of its
stage ends; it ends the controller's own operation on its stage, and otherwise takes WATCHING to QUIET and restarts the settle of
QUIET; the first report that names the stage of an ordered switching settles the order, which is a bulletin trigger (R182), a CUT
by the cut causes that R191 names; the report of the step in flight advances the chain, ends it DONE at the last step, and ends it
FAILED at a failure, its step index held (no refusal with it, log 35). -/
def Obligations.ReportsTaken : Prop :=
  (∀ (r : SwitchReport) (s : State), NoticeFrame s (report r s) ∧
    (report r s).lc.outcomeSlot = some (reportContent r) ∧
    (report r s).ix = { s.ix with own := match s.ix.own with
      | some i => if i.phase = .committed ∧ i.stage = r.stage then none else some i
      | none => none }) ∧
  (∀ (r : SwitchReport) (s : State), s.oi.chain = none →
    (∀ o, s.vc.state = .executing → s.vc.ownOp = some o → o.stage = r.stage →
      (report r s).vc.ownOp = none ∧ (report r s).vc.low = 0 ∧ (report r s).vc.high = 0 ∧
      ((report r s).vc.state = if s.vc.causes.isEmpty then .quiet else .suspended) ∧
      (s.vc.causes.isEmpty = false → Triggered s (report r s))) ∧
    (s.vc.state = .watching → (report r s).vc.state = .quiet ∧ (report r s).vc.low = 0 ∧ (report r s).vc.high = 0 ∧
      (report r s).vc.stationSettle = some (1000 * s.settings.stationSettle)) ∧
    (s.vc.state = .quiet → (report r s).vc =
      { s.vc with stationSettle := some (1000 * s.settings.stationSettle) }) ∧
    (s.vc.state = .proposing ∨ s.vc.state = .suspended ∨
      (s.vc.state = .executing ∧ ∀ o, s.vc.ownOp = some o → o.stage ≠ r.stage) → (report r s).vc = s.vc)) ∧
  (∀ (r : SwitchReport) (s : State), s.oi.chain = none →
    (s.oi.mark ≠ .report r.stage → (report r s).oi = s.oi) ∧
    (s.oi.mark = .report r.stage → Triggered s (report r s) ∧
      (r.result = .executed → (report r s).oi =
        { s.oi with last := ⟨s.oi.last.panel, s.oi.last.tag, .done, 0⟩, mark := .none }) ∧
      (r.result = .failed → (report r s).oi =
        { s.oi with last := ⟨s.oi.last.panel, s.oi.last.tag, .failed, 6⟩, mark := .none }) ∧
      (r.result = .cut → r.cause = .deadLine ∨ r.cause = .unbTrip ∨ r.cause = .unbHighset → (report r s).oi =
        { s.oi with
          last := ⟨s.oi.last.panel, s.oi.last.tag, .failed, if r.cause = .deadLine then 9 else 5⟩, mark := .none }))) ∧
  (∀ (r : SwitchReport) (s : State) (c : Chain) (st : Sys2Proof.Machine.Step), s.oi.chain = some c →
    s.oi.mark ≠ .report r.stage → c.current = some st →
    (c.operating = false ∨ st.stage ≠ r.stage.num → (report r s).oi = s.oi) ∧
    (c.operating = true → st.stage = r.stage.num →
      (r.result = .failed →
        (report r s).oi = ⟨⟨c.panel, c.tag, .stepFailed, c.index⟩, .none, none, c.index, .none⟩ ∧
        Triggered s (report r s) ∧
        (report r s).vc.causes = { s.vc.causes with chainActive := false }) ∧
      (r.result ≠ .failed → c.steps.length ≤ c.index →
        (report r s).oi = ⟨⟨c.panel, c.tag, .done, 0⟩, .none, none, c.index, .none⟩ ∧
        Triggered s (report r s) ∧
        (report r s).vc.causes = { s.vc.causes with chainActive := false }) ∧
      (∀ next, r.result ≠ .failed → c.steps[c.index]? = some next →
        (report r s).oi = { s.oi with
          chain := some { c with index := c.index + 1, operating := false, delay := next.delay }
          last := if s.oi.mark = .chain then ⟨c.panel, c.tag, .inProgress, c.index + 1⟩ else s.oi.last } ∧
        (s.oi.mark = .chain → Triggered s (report r s)) ∧
        (report r s).vc.causes = s.vc.causes)))

/-! ### Invariants -/

/-- R26, R32, R48, R56, R65: the invariant of the Stage Supervisor is kept by every step, from every state that has it. -/
def Obligations.StagesStaySafe : Prop :=
  ∀ s t : State, StagesSafe s → step s = .next t → StagesSafe t

/-- R133, R139, R146, R175, R78: every step keeps the bounds of the collections, and the bounds of the accumulators, of
which one is always 0. -/
def Obligations.RecordsStayBounded : Prop :=
  (∀ s t : State, CollectionsBounded s → step s = .next t → CollectionsBounded t) ∧
  (∀ s t : State, AccumulatorsBounded s → step s = .next t → AccumulatorsBounded t)

/-- R47, R70: a trip latch, once set, is cleared by nothing but a start and a RESET_STAGE order. -/
def Obligations.TripLatchHolds : Prop :=
  ∀ (c : Instr) (s t : State) (k : StageId), exec c s = .next t → (s.stage k).tripLatch = true →
    (t.stage k).tripLatch = true ∨ c = .orderResetStage ∨ c = .externalReset ∨ (∃ x, c = .powerOn x) ∨
      ∃ x, c = .resetRelease x

/-- R201, R195, R8, R10, R52, R103, R122: ALARM and HEALTHY follow their conditions at every step, from every state in which they
do and the Stage Supervisor's invariant stands; before the end of the image check both are off. -/
def Obligations.StatusOutputsFollow : Prop :=
  ∀ s t : State, StagesSafe s → StatusFollows s → step s = .next t → StatusFollows t

/-- R195: the state before the first start has every invariant (starting values of log 9). -/
def Obligations.ResetHasTheInvariants : Prop :=
  StagesSafe State.reset ∧ CollectionsBounded State.reset ∧ AccumulatorsBounded State.reset ∧ StatusFollows State.reset
end

