-- ==== Sys2Proof/Laws/State.lean ====
section
/-! SUPPORT. The update operations of the state, field by field. -/

namespace Sys2Proof.Machine

/-! ### A change of one stage record -/

@[simp] theorem modStage_pending (s : State) (k : StageId) (f : Stage → Stage) : (s.modStage k f).pending = s.pending := rfl
@[simp] theorem modStage_resetInput (s : State) (k : StageId) (f : Stage → Stage) : (s.modStage k f).resetInput = s.resetInput := rfl
@[simp] theorem modStage_phase (s : State) (k : StageId) (f : Stage → Stage) : (s.modStage k f).phase = s.phase := rfl
@[simp] theorem modStage_strap (s : State) (k : StageId) (f : Stage → Stage) : (s.modStage k f).strap = s.strap := rfl
@[simp] theorem modStage_ms (s : State) (k : StageId) (f : Stage → Stage) : (s.modStage k f).ms = s.ms := rfl
@[simp] theorem modStage_settings (s : State) (k : StageId) (f : Stage → Stage) : (s.modStage k f).settings = s.settings := rfl
@[simp] theorem modStage_fallbackPulse (s : State) (k : StageId) (f : Stage → Stage) : (s.modStage k f).fallbackPulse = s.fallbackPulse := rfl
@[simp] theorem modStage_pins (s : State) (k : StageId) (f : Stage → Stage) : (s.modStage k f).pins = s.pins := rfl
@[simp] theorem modStage_carrier (s : State) (k : StageId) (f : Stage → Stage) : (s.modStage k f).carrier = s.carrier := rfl
@[simp] theorem modStage_inputs (s : State) (k : StageId) (f : Stage → Stage) : (s.modStage k f).inputs = s.inputs := rfl
@[simp] theorem modStage_block (s : State) (k : StageId) (f : Stage → Stage) : (s.modStage k f).block = s.block := rfl
@[simp] theorem modStage_port (s : State) (k : StageId) (f : Stage → Stage) : (s.modStage k f).port = s.port := rfl
@[simp] theorem modStage_store (s : State) (k : StageId) (f : Stage → Stage) : (s.modStage k f).store = s.store := rfl
@[simp] theorem modStage_ready (s : State) (k : StageId) (f : Stage → Stage) : (s.modStage k f).ready = s.ready := rfl
@[simp] theorem modStage_inService (s : State) (k : StageId) (f : Stage → Stage) : (s.modStage k f).inService = s.inService := rfl
@[simp] theorem modStage_blockSet (s : State) (k : StageId) (f : Stage → Stage) : (s.modStage k f).blockSet = s.blockSet := rfl
@[simp] theorem modStage_vc (s : State) (k : StageId) (f : Stage → Stage) : (s.modStage k f).vc = s.vc := rfl
@[simp] theorem modStage_hm (s : State) (k : StageId) (f : Stage → Stage) : (s.modStage k f).hm = s.hm := rfl
@[simp] theorem modStage_ur (s : State) (k : StageId) (f : Stage → Stage) : (s.modStage k f).ur = s.ur := rfl
@[simp] theorem modStage_pv (s : State) (k : StageId) (f : Stage → Stage) : (s.modStage k f).pv = s.pv := rfl
@[simp] theorem modStage_ix (s : State) (k : StageId) (f : Stage → Stage) : (s.modStage k f).ix = s.ix := rfl
@[simp] theorem modStage_lc (s : State) (k : StageId) (f : Stage → Stage) : (s.modStage k f).lc = s.lc := rfl
@[simp] theorem modStage_oi (s : State) (k : StageId) (f : Stage → Stage) : (s.modStage k f).oi = s.oi := rfl
@[simp] theorem modStage_alarm (s : State) (k : StageId) (f : Stage → Stage) : (s.modStage k f).alarm = s.alarm := rfl
@[simp] theorem modStage_healthy (s : State) (k : StageId) (f : Stage → Stage) : (s.modStage k f).healthy = s.healthy := rfl

@[simp] theorem modStage_stage (s : State) (k : StageId) (f : Stage → Stage) :
    (s.modStage k f).stage k = f (s.stage k) := by simp [State.modStage, State.stage]

theorem modStage_stage_ne (s : State) {k j : StageId} (f : Stage → Stage) (h : j ≠ k) :
    (s.modStage k f).stage j = s.stage j := by
  simp [State.modStage, State.stage, Four.get_set_ne _ _ h]

theorem modStage_others (s : State) (k : StageId) (f : Stage → Stage) : OtherStages k s (s.modStage k f) :=
  fun _ h => modStage_stage_ne s f h

@[simp] theorem modStage_modStage (s : State) (k : StageId) (f g : Stage → Stage) :
    (s.modStage k f).modStage k g = s.modStage k (fun r => g (f r)) := by simp [State.modStage]

@[simp] theorem modStage_cfg (s : State) (k j : StageId) (f : Stage → Stage) : (s.modStage k f).cfg j = s.cfg j := rfl

@[simp] theorem modStage_position (s : State) (k j : StageId) (f : Stage → Stage) :
    (s.modStage k f).position j = s.position j := rfl

@[simp] theorem modStage_seconds (s : State) (k : StageId) (f : Stage → Stage) :
    (s.modStage k f).seconds = s.seconds := rfl

@[simp] theorem modStage_fullDischarge (s : State) (k j : StageId) (f : Stage → Stage) :
    (s.modStage k f).fullDischarge j = s.fullDischarge j := rfl

@[simp] theorem modStage_configured (s : State) (k j : StageId) (f : Stage → Stage) :
    (s.modStage k f).configured j = s.configured j := rfl

@[simp] theorem modStage_stageIds (s : State) (k : StageId) (f : Stage → Stage) :
    (s.modStage k f).stageIds = s.stageIds := rfl

/-! ### A change of a stage's state -/

/-- The stage record after a change of state (R45, Table 2-1). -/
def Stage.moved (new : StageState) (r : Stage) : Stage :=
  { r with
    state := new
    disc := rediscrepancy r.state new r.disc
    op := if new = .closing ∨ new = .opening then r.op else none }

@[simp] theorem moveStage_pending (s : State) (k : StageId) (new : StageState) : (s.moveStage k new).pending = s.pending := rfl
@[simp] theorem moveStage_resetInput (s : State) (k : StageId) (new : StageState) : (s.moveStage k new).resetInput = s.resetInput := rfl
@[simp] theorem moveStage_phase (s : State) (k : StageId) (new : StageState) : (s.moveStage k new).phase = s.phase := rfl
@[simp] theorem moveStage_strap (s : State) (k : StageId) (new : StageState) : (s.moveStage k new).strap = s.strap := rfl
@[simp] theorem moveStage_ms (s : State) (k : StageId) (new : StageState) : (s.moveStage k new).ms = s.ms := rfl
@[simp] theorem moveStage_settings (s : State) (k : StageId) (new : StageState) : (s.moveStage k new).settings = s.settings := rfl
@[simp] theorem moveStage_fallbackPulse (s : State) (k : StageId) (new : StageState) : (s.moveStage k new).fallbackPulse = s.fallbackPulse := rfl
@[simp] theorem moveStage_pins (s : State) (k : StageId) (new : StageState) : (s.moveStage k new).pins = s.pins := rfl
@[simp] theorem moveStage_carrier (s : State) (k : StageId) (new : StageState) : (s.moveStage k new).carrier = s.carrier := rfl
@[simp] theorem moveStage_inputs (s : State) (k : StageId) (new : StageState) : (s.moveStage k new).inputs = s.inputs := rfl
@[simp] theorem moveStage_block (s : State) (k : StageId) (new : StageState) : (s.moveStage k new).block = s.block := rfl
@[simp] theorem moveStage_port (s : State) (k : StageId) (new : StageState) : (s.moveStage k new).port = s.port := rfl
@[simp] theorem moveStage_store (s : State) (k : StageId) (new : StageState) : (s.moveStage k new).store = s.store := rfl
@[simp] theorem moveStage_blockSet (s : State) (k : StageId) (new : StageState) : (s.moveStage k new).blockSet = s.blockSet := rfl
@[simp] theorem moveStage_vc (s : State) (k : StageId) (new : StageState) : (s.moveStage k new).vc = s.vc := rfl
@[simp] theorem moveStage_hm (s : State) (k : StageId) (new : StageState) : (s.moveStage k new).hm = s.hm := rfl
@[simp] theorem moveStage_ur (s : State) (k : StageId) (new : StageState) : (s.moveStage k new).ur = s.ur := rfl
@[simp] theorem moveStage_pv (s : State) (k : StageId) (new : StageState) : (s.moveStage k new).pv = s.pv := rfl
@[simp] theorem moveStage_ix (s : State) (k : StageId) (new : StageState) : (s.moveStage k new).ix = s.ix := rfl
@[simp] theorem moveStage_lc (s : State) (k : StageId) (new : StageState) : (s.moveStage k new).lc = s.lc := rfl
@[simp] theorem moveStage_oi (s : State) (k : StageId) (new : StageState) : (s.moveStage k new).oi = s.oi := rfl
@[simp] theorem moveStage_alarm (s : State) (k : StageId) (new : StageState) : (s.moveStage k new).alarm = s.alarm := rfl
@[simp] theorem moveStage_healthy (s : State) (k : StageId) (new : StageState) : (s.moveStage k new).healthy = s.healthy := rfl

@[simp] theorem moveStage_stages (s : State) (k : StageId) (new : StageState) :
    (s.moveStage k new).stages = s.stages.set k ((s.stage k).moved new) := rfl

@[simp] theorem moveStage_ready (s : State) (k : StageId) (new : StageState) :
    (s.moveStage k new).ready = relist .ready k (s.stage k).state new s.ready := rfl

@[simp] theorem moveStage_inService (s : State) (k : StageId) (new : StageState) :
    (s.moveStage k new).inService = relist .closed k (s.stage k).state new s.inService := rfl

@[simp] theorem moveStage_stage (s : State) (k : StageId) (new : StageState) :
    (s.moveStage k new).stage k = (s.stage k).moved new := by simp [State.stage]

theorem moveStage_others (s : State) (k : StageId) (new : StageState) : OtherStages k s (s.moveStage k new) :=
  fun _ h => by simp [State.stage, Four.get_set_ne _ _ h]

@[simp] theorem moved_state (new : StageState) (r : Stage) : (r.moved new).state = new := rfl
@[simp] theorem moved_tripLatch (new : StageState) (r : Stage) : (r.moved new).tripLatch = r.tripLatch := rfl
@[simp] theorem moved_discharge (new : StageState) (r : Stage) : (r.moved new).discharge = r.discharge := rfl
@[simp] theorem moved_lastCause (new : StageState) (r : Stage) : (r.moved new).lastCause = r.lastCause := rfl
@[simp] theorem moved_lastClose (new : StageState) (r : Stage) : (r.moved new).lastClose = r.lastClose := rfl
@[simp] theorem moved_lastOpen (new : StageState) (r : Stage) : (r.moved new).lastOpen = r.lastOpen := rfl
@[simp] theorem moved_duty (new : StageState) (r : Stage) : (r.moved new).duty = r.duty := rfl
@[simp] theorem moved_closeOut (new : StageState) (r : Stage) : (r.moved new).closeOut = r.closeOut := rfl
@[simp] theorem moved_openOut (new : StageState) (r : Stage) : (r.moved new).openOut = r.openOut := rfl
@[simp] theorem moved_pulse (new : StageState) (r : Stage) : (r.moved new).pulse = r.pulse := rfl
@[simp] theorem moved_window (new : StageState) (r : Stage) : (r.moved new).window = r.window := rfl

/-! ### A change of one relay entry, one peer entry -/

@[simp] theorem modEntry_pending (s : State) (k : StageId) (f : RelayEntry → RelayEntry) : (s.modEntry k f).pending = s.pending := rfl
@[simp] theorem modEntry_resetInput (s : State) (k : StageId) (f : RelayEntry → RelayEntry) : (s.modEntry k f).resetInput = s.resetInput := rfl
@[simp] theorem modEntry_phase (s : State) (k : StageId) (f : RelayEntry → RelayEntry) : (s.modEntry k f).phase = s.phase := rfl
@[simp] theorem modEntry_strap (s : State) (k : StageId) (f : RelayEntry → RelayEntry) : (s.modEntry k f).strap = s.strap := rfl
@[simp] theorem modEntry_ms (s : State) (k : StageId) (f : RelayEntry → RelayEntry) : (s.modEntry k f).ms = s.ms := rfl
@[simp] theorem modEntry_settings (s : State) (k : StageId) (f : RelayEntry → RelayEntry) : (s.modEntry k f).settings = s.settings := rfl
@[simp] theorem modEntry_fallbackPulse (s : State) (k : StageId) (f : RelayEntry → RelayEntry) : (s.modEntry k f).fallbackPulse = s.fallbackPulse := rfl
@[simp] theorem modEntry_pins (s : State) (k : StageId) (f : RelayEntry → RelayEntry) : (s.modEntry k f).pins = s.pins := rfl
@[simp] theorem modEntry_carrier (s : State) (k : StageId) (f : RelayEntry → RelayEntry) : (s.modEntry k f).carrier = s.carrier := rfl
@[simp] theorem modEntry_inputs (s : State) (k : StageId) (f : RelayEntry → RelayEntry) : (s.modEntry k f).inputs = s.inputs := rfl
@[simp] theorem modEntry_block (s : State) (k : StageId) (f : RelayEntry → RelayEntry) : (s.modEntry k f).block = s.block := rfl
@[simp] theorem modEntry_port (s : State) (k : StageId) (f : RelayEntry → RelayEntry) : (s.modEntry k f).port = s.port := rfl
@[simp] theorem modEntry_store (s : State) (k : StageId) (f : RelayEntry → RelayEntry) : (s.modEntry k f).store = s.store := rfl
@[simp] theorem modEntry_stages (s : State) (k : StageId) (f : RelayEntry → RelayEntry) : (s.modEntry k f).stages = s.stages := rfl
@[simp] theorem modEntry_ready (s : State) (k : StageId) (f : RelayEntry → RelayEntry) : (s.modEntry k f).ready = s.ready := rfl
@[simp] theorem modEntry_inService (s : State) (k : StageId) (f : RelayEntry → RelayEntry) : (s.modEntry k f).inService = s.inService := rfl
@[simp] theorem modEntry_blockSet (s : State) (k : StageId) (f : RelayEntry → RelayEntry) : (s.modEntry k f).blockSet = s.blockSet := rfl
@[simp] theorem modEntry_vc (s : State) (k : StageId) (f : RelayEntry → RelayEntry) : (s.modEntry k f).vc = s.vc := rfl
@[simp] theorem modEntry_hm (s : State) (k : StageId) (f : RelayEntry → RelayEntry) : (s.modEntry k f).hm = s.hm := rfl
@[simp] theorem modEntry_pv (s : State) (k : StageId) (f : RelayEntry → RelayEntry) : (s.modEntry k f).pv = s.pv := rfl
@[simp] theorem modEntry_ix (s : State) (k : StageId) (f : RelayEntry → RelayEntry) : (s.modEntry k f).ix = s.ix := rfl
@[simp] theorem modEntry_lc (s : State) (k : StageId) (f : RelayEntry → RelayEntry) : (s.modEntry k f).lc = s.lc := rfl
@[simp] theorem modEntry_oi (s : State) (k : StageId) (f : RelayEntry → RelayEntry) : (s.modEntry k f).oi = s.oi := rfl
@[simp] theorem modEntry_alarm (s : State) (k : StageId) (f : RelayEntry → RelayEntry) : (s.modEntry k f).alarm = s.alarm := rfl
@[simp] theorem modEntry_healthy (s : State) (k : StageId) (f : RelayEntry → RelayEntry) : (s.modEntry k f).healthy = s.healthy := rfl

@[simp] theorem modEntry_entry (s : State) (k : StageId) (f : RelayEntry → RelayEntry) :
    (s.modEntry k f).ur.entries.get k = f (s.ur.entries.get k) := by simp [State.modEntry]

@[simp] theorem modPeer_pending (s : State) (n : Nat) (f : Peer → Peer) : (s.modPeer n f).pending = s.pending := rfl
@[simp] theorem modPeer_resetInput (s : State) (n : Nat) (f : Peer → Peer) : (s.modPeer n f).resetInput = s.resetInput := rfl
@[simp] theorem modPeer_phase (s : State) (n : Nat) (f : Peer → Peer) : (s.modPeer n f).phase = s.phase := rfl
@[simp] theorem modPeer_strap (s : State) (n : Nat) (f : Peer → Peer) : (s.modPeer n f).strap = s.strap := rfl
@[simp] theorem modPeer_ms (s : State) (n : Nat) (f : Peer → Peer) : (s.modPeer n f).ms = s.ms := rfl
@[simp] theorem modPeer_settings (s : State) (n : Nat) (f : Peer → Peer) : (s.modPeer n f).settings = s.settings := rfl
@[simp] theorem modPeer_fallbackPulse (s : State) (n : Nat) (f : Peer → Peer) : (s.modPeer n f).fallbackPulse = s.fallbackPulse := rfl
@[simp] theorem modPeer_pins (s : State) (n : Nat) (f : Peer → Peer) : (s.modPeer n f).pins = s.pins := rfl
@[simp] theorem modPeer_carrier (s : State) (n : Nat) (f : Peer → Peer) : (s.modPeer n f).carrier = s.carrier := rfl
@[simp] theorem modPeer_inputs (s : State) (n : Nat) (f : Peer → Peer) : (s.modPeer n f).inputs = s.inputs := rfl
@[simp] theorem modPeer_block (s : State) (n : Nat) (f : Peer → Peer) : (s.modPeer n f).block = s.block := rfl
@[simp] theorem modPeer_port (s : State) (n : Nat) (f : Peer → Peer) : (s.modPeer n f).port = s.port := rfl
@[simp] theorem modPeer_store (s : State) (n : Nat) (f : Peer → Peer) : (s.modPeer n f).store = s.store := rfl
@[simp] theorem modPeer_stages (s : State) (n : Nat) (f : Peer → Peer) : (s.modPeer n f).stages = s.stages := rfl
@[simp] theorem modPeer_ready (s : State) (n : Nat) (f : Peer → Peer) : (s.modPeer n f).ready = s.ready := rfl
@[simp] theorem modPeer_inService (s : State) (n : Nat) (f : Peer → Peer) : (s.modPeer n f).inService = s.inService := rfl
@[simp] theorem modPeer_blockSet (s : State) (n : Nat) (f : Peer → Peer) : (s.modPeer n f).blockSet = s.blockSet := rfl
@[simp] theorem modPeer_vc (s : State) (n : Nat) (f : Peer → Peer) : (s.modPeer n f).vc = s.vc := rfl
@[simp] theorem modPeer_hm (s : State) (n : Nat) (f : Peer → Peer) : (s.modPeer n f).hm = s.hm := rfl
@[simp] theorem modPeer_ur (s : State) (n : Nat) (f : Peer → Peer) : (s.modPeer n f).ur = s.ur := rfl
@[simp] theorem modPeer_ix (s : State) (n : Nat) (f : Peer → Peer) : (s.modPeer n f).ix = s.ix := rfl
@[simp] theorem modPeer_lc (s : State) (n : Nat) (f : Peer → Peer) : (s.modPeer n f).lc = s.lc := rfl
@[simp] theorem modPeer_oi (s : State) (n : Nat) (f : Peer → Peer) : (s.modPeer n f).oi = s.oi := rfl
@[simp] theorem modPeer_alarm (s : State) (n : Nat) (f : Peer → Peer) : (s.modPeer n f).alarm = s.alarm := rfl
@[simp] theorem modPeer_healthy (s : State) (n : Nat) (f : Peer → Peer) : (s.modPeer n f).healthy = s.healthy := rfl

@[simp] theorem modPeer_entries (s : State) (n : Nat) (f : Peer → Peer) :
    (s.modPeer n f).pv.entries = updatePeer n f s.pv.entries := rfl
@[simp] theorem modPeer_heard (s : State) (n : Nat) (f : Peer → Peer) : (s.modPeer n f).pv.heard = s.pv.heard := rfl
@[simp] theorem modPeer_panels (s : State) (n : Nat) (f : Peer → Peer) : (s.modPeer n f).pv.panels = s.pv.panels := rfl

/-! ### The release of the record at the head of the ring, the status outputs -/

@[simp] theorem freeHead_pending (s : State) : (freeHead s).pending = s.pending := rfl
@[simp] theorem freeHead_resetInput (s : State) : (freeHead s).resetInput = s.resetInput := rfl
@[simp] theorem freeHead_phase (s : State) : (freeHead s).phase = s.phase := rfl
@[simp] theorem freeHead_strap (s : State) : (freeHead s).strap = s.strap := rfl
@[simp] theorem freeHead_ms (s : State) : (freeHead s).ms = s.ms := rfl
@[simp] theorem freeHead_settings (s : State) : (freeHead s).settings = s.settings := rfl
@[simp] theorem freeHead_fallbackPulse (s : State) : (freeHead s).fallbackPulse = s.fallbackPulse := rfl
@[simp] theorem freeHead_pins (s : State) : (freeHead s).pins = s.pins := rfl
@[simp] theorem freeHead_carrier (s : State) : (freeHead s).carrier = s.carrier := rfl
@[simp] theorem freeHead_inputs (s : State) : (freeHead s).inputs = s.inputs := rfl
@[simp] theorem freeHead_block (s : State) : (freeHead s).block = s.block := rfl
@[simp] theorem freeHead_port (s : State) : (freeHead s).port = s.port := rfl
@[simp] theorem freeHead_store (s : State) : (freeHead s).store = s.store := rfl
@[simp] theorem freeHead_stages (s : State) : (freeHead s).stages = s.stages := rfl
@[simp] theorem freeHead_ready (s : State) : (freeHead s).ready = s.ready := rfl
@[simp] theorem freeHead_inService (s : State) : (freeHead s).inService = s.inService := rfl
@[simp] theorem freeHead_blockSet (s : State) : (freeHead s).blockSet = s.blockSet := rfl
@[simp] theorem freeHead_vc (s : State) : (freeHead s).vc = s.vc := rfl
@[simp] theorem freeHead_hm (s : State) : (freeHead s).hm = s.hm := rfl
@[simp] theorem freeHead_ur (s : State) : (freeHead s).ur = s.ur := rfl
@[simp] theorem freeHead_pv (s : State) : (freeHead s).pv = s.pv := rfl
@[simp] theorem freeHead_ix (s : State) : (freeHead s).ix = s.ix := rfl
@[simp] theorem freeHead_oi (s : State) : (freeHead s).oi = s.oi := rfl
@[simp] theorem freeHead_alarm (s : State) : (freeHead s).alarm = s.alarm := rfl
@[simp] theorem freeHead_healthy (s : State) : (freeHead s).healthy = s.healthy := rfl

@[simp] theorem freeHead_ring (s : State) : (freeHead s).lc.ring = s.lc.ring.tail := rfl

@[simp] theorem rejudge_pending (s : State) : (rejudge s).pending = s.pending := rfl
@[simp] theorem rejudge_resetInput (s : State) : (rejudge s).resetInput = s.resetInput := rfl
@[simp] theorem rejudge_phase (s : State) : (rejudge s).phase = s.phase := rfl
@[simp] theorem rejudge_strap (s : State) : (rejudge s).strap = s.strap := rfl
@[simp] theorem rejudge_ms (s : State) : (rejudge s).ms = s.ms := rfl
@[simp] theorem rejudge_settings (s : State) : (rejudge s).settings = s.settings := rfl
@[simp] theorem rejudge_fallbackPulse (s : State) : (rejudge s).fallbackPulse = s.fallbackPulse := rfl
@[simp] theorem rejudge_pins (s : State) : (rejudge s).pins = s.pins := rfl
@[simp] theorem rejudge_carrier (s : State) : (rejudge s).carrier = s.carrier := rfl
@[simp] theorem rejudge_inputs (s : State) : (rejudge s).inputs = s.inputs := rfl
@[simp] theorem rejudge_block (s : State) : (rejudge s).block = s.block := rfl
@[simp] theorem rejudge_port (s : State) : (rejudge s).port = s.port := rfl
@[simp] theorem rejudge_store (s : State) : (rejudge s).store = s.store := rfl
@[simp] theorem rejudge_stages (s : State) : (rejudge s).stages = s.stages := rfl
@[simp] theorem rejudge_ready (s : State) : (rejudge s).ready = s.ready := rfl
@[simp] theorem rejudge_inService (s : State) : (rejudge s).inService = s.inService := rfl
@[simp] theorem rejudge_blockSet (s : State) : (rejudge s).blockSet = s.blockSet := rfl
@[simp] theorem rejudge_vc (s : State) : (rejudge s).vc = s.vc := rfl
@[simp] theorem rejudge_hm (s : State) : (rejudge s).hm = s.hm := rfl
@[simp] theorem rejudge_ur (s : State) : (rejudge s).ur = s.ur := rfl
@[simp] theorem rejudge_pv (s : State) : (rejudge s).pv = s.pv := rfl
@[simp] theorem rejudge_ix (s : State) : (rejudge s).ix = s.ix := rfl
@[simp] theorem rejudge_lc (s : State) : (rejudge s).lc = s.lc := rfl
@[simp] theorem rejudge_oi (s : State) : (rejudge s).oi = s.oi := rfl

@[simp] theorem rejudge_alarm (s : State) : (rejudge s).alarm = s.alarmDue := rfl
@[simp] theorem rejudge_healthy (s : State) : (rejudge s).healthy = s.healthyDue := rfl

/-! ### A start -/

@[simp] theorem cleared_pending (s : State) : (cleared s).pending = s.pending := rfl
@[simp] theorem cleared_resetInput (s : State) : (cleared s).resetInput = s.resetInput := rfl
@[simp] theorem cleared_phase (s : State) : (cleared s).phase = State.reset.phase := rfl
@[simp] theorem cleared_strap (s : State) : (cleared s).strap = s.strap := rfl
@[simp] theorem cleared_ms (s : State) : (cleared s).ms = State.reset.ms := rfl
@[simp] theorem cleared_settings (s : State) : (cleared s).settings = State.reset.settings := rfl
@[simp] theorem cleared_fallbackPulse (s : State) : (cleared s).fallbackPulse = State.reset.fallbackPulse := rfl
@[simp] theorem cleared_pins (s : State) : (cleared s).pins = s.pins := rfl
@[simp] theorem cleared_carrier (s : State) : (cleared s).carrier = s.carrier := rfl
@[simp] theorem cleared_inputs (s : State) : (cleared s).inputs = State.reset.inputs := rfl
@[simp] theorem cleared_block (s : State) : (cleared s).block = State.reset.block := rfl
@[simp] theorem cleared_port (s : State) : (cleared s).port = State.reset.port := rfl
@[simp] theorem cleared_store (s : State) : (cleared s).store = State.reset.store := rfl
@[simp] theorem cleared_stages (s : State) : (cleared s).stages = State.reset.stages := rfl
@[simp] theorem cleared_ready (s : State) : (cleared s).ready = State.reset.ready := rfl
@[simp] theorem cleared_inService (s : State) : (cleared s).inService = State.reset.inService := rfl
@[simp] theorem cleared_blockSet (s : State) : (cleared s).blockSet = State.reset.blockSet := rfl
@[simp] theorem cleared_vc (s : State) : (cleared s).vc = State.reset.vc := rfl
@[simp] theorem cleared_hm (s : State) : (cleared s).hm = State.reset.hm := rfl
@[simp] theorem cleared_ur (s : State) : (cleared s).ur = State.reset.ur := rfl
@[simp] theorem cleared_pv (s : State) : (cleared s).pv = State.reset.pv := rfl
@[simp] theorem cleared_ix (s : State) : (cleared s).ix = State.reset.ix := rfl
@[simp] theorem cleared_lc (s : State) : (cleared s).lc = State.reset.lc := rfl
@[simp] theorem cleared_oi (s : State) : (cleared s).oi = State.reset.oi := rfl
@[simp] theorem cleared_alarm (s : State) : (cleared s).alarm = State.reset.alarm := rfl
@[simp] theorem cleared_healthy (s : State) : (cleared s).healthy = State.reset.healthy := rfl

end Sys2Proof.Machine
end

