-- ==== Sys2Proof/Laws/Frames.lean ====
section
/-! SUPPORT. One lemma for each shared operation: what it leaves unchanged. -/

namespace Sys2Proof.Machine

theorem LineKept.refl (l : LineChannel) : LineKept l l := by constructor <;> rfl

theorem LineKept.trans {l m n : LineChannel} (h : LineKept l m) (h' : LineKept m n) : LineKept l n where
  working := h'.working.trans h.working
  rx := h'.rx.trans h.rx
  ring := h'.ring.trans h.ring
  detailSlot := h'.detailSlot.trans h.detailSlot
  armed := h'.armed.trans h.armed
  seq := h'.seq.trans h.seq
  framesSent := h'.framesSent.trans h.framesSent
  periodTimer := h'.periodTimer.trans h.periodTimer
  lastBulletin := h'.lastBulletin.trans h.lastBulletin
  spacing := h'.spacing.trans h.spacing
  stats := h'.stats.trans h.stats

theorem kept_or_zero {a b c : Nat} (h : b = a ∨ b = 0) (h' : c = b ∨ c = 0) : c = a ∨ c = 0 := by omega

theorem ControlKept.refl (v : Controller) : ControlKept v v where
  low := .inl rfl
  high := .inl rfl
  peerSettle := rfl
  listenIn := rfl
  deadLine := rfl
  deadRun := rfl
  restore := rfl
  fovRun := rfl
  fovRep := rfl

theorem ControlKept.trans {u v w : Controller} (h : ControlKept u v) (h' : ControlKept v w) : ControlKept u w where
  low := kept_or_zero h.low h'.low
  high := kept_or_zero h.high h'.high
  peerSettle := h'.peerSettle.trans h.peerSettle
  listenIn := h'.listenIn.trans h.listenIn
  deadLine := h'.deadLine.trans h.deadLine
  deadRun := h'.deadRun.trans h.deadRun
  restore := h'.restore.trans h.restore
  fovRun := h'.fovRun.trans h.fovRun
  fovRep := h'.fovRep.trans h.fovRep

/-! ### Bulletin triggers -/

/-- What a trigger does to the trigger delay (R182). -/
theorem trigger_triggered (s : State) : Triggered s (trigger s) := by
  unfold Triggered State.delayTriggered trigger triggerTime
  cases s.lc.working <;> cases s.lc.armed <;> cases h : s.lc.triggerDelay <;> simp [h]

/-- The Line Channel's part in a trigger is left as it was, or a trigger has been taken. -/
structure DelayKept (s t : State) : Prop where
  station : t.settings.station = s.settings.station
  working : t.lc.working = s.lc.working
  armed : t.lc.armed = s.lc.armed
  delay : Triggered s t ∨ t.lc.triggerDelay = s.lc.triggerDelay

/-- A second trigger changes nothing. -/
theorem DelayKept.triggered {s t u : State} (h : DelayKept s t) (h' : Triggered t u) : Triggered s u := by
  unfold Triggered State.delayTriggered at *
  rw [h', h.station, h.working, h.armed]
  rcases h.delay with hd | hd
  · unfold Triggered State.delayTriggered at hd
    rw [hd]
    by_cases hc : s.lc.working = true ∧ s.lc.triggerDelay = none ∧ s.lc.armed = false
    · simp [hc]
    · simp only [if_neg hc]
  · rw [hd]

theorem Triggered.kept {s t u : State} (h : Triggered s t) (h' : DelayKept t u) (hk : DelayKept s t) : Triggered s u := by
  rcases h'.delay with hd | hd
  · exact hk.triggered hd
  · exact hd.trans h

theorem Announces.kept {s t : State} (h : Announces s t) : DelayKept s t :=
  ⟨h.station, h.working, h.armed, h.news.imp_right (·.2)⟩

theorem DelayKept.trans {s t u : State} (h : DelayKept s t) (h' : DelayKept t u) : DelayKept s u where
  station := h'.station.trans h.station
  working := h'.working.trans h.working
  armed := h'.armed.trans h.armed
  delay := by
    rcases h'.delay with hd | hd
    · exact .inl (h.triggered hd)
    · rcases h.delay with he | he
      · exact .inl (hd.trans he)
      · exact .inr (hd.trans he)

/-- An event on whose way a trigger is taken announces whatever it changes. -/
theorem DelayKept.announces {s t u : State} (h : DelayKept s t) (h' : DelayKept t u) (ht : Triggered t u) : Announces s u :=
  ⟨(h.trans h').station, (h.trans h').working, (h.trans h').armed, .inl (h.triggered ht)⟩

theorem SameNews.trans {s t u : State} (h : SameNews s t) (h' : SameNews t u) : SameNews s u where
  stages k := (h'.stages k).trans (h.stages k)
  deadLine := h'.deadLine.trans h.deadLine
  harmonic := h'.harmonic.trans h.harmonic
  unbalance := h'.unbalance.trans h.unbalance
  clash := h'.clash.trans h.clash
  lastOrder := h'.lastOrder.trans h.lastOrder

theorem Announces.trans {s t u : State} (h : Announces s t) (h' : Announces t u) : Announces s u where
  station := h'.station.trans h.station
  working := h'.working.trans h.working
  armed := h'.armed.trans h.armed
  news := by
    rcases h.news with ht | ⟨hn, hd⟩
    · exact .inl (ht.kept h'.kept h.kept)
    · rcases h'.news with ht | ⟨hn', hd'⟩
      · exact .inl (h.kept.triggered ht)
      · exact .inr ⟨hn.trans hn', hd'.trans hd⟩

/-! ### Frames -/

/-- A change of the stage records and lists, of the controller, the relay, the own intent, the orders, the outputs. -/
theorem switchKept_of (s : State) (stages ready inService) (vc : Controller) (ur) (own : Option Intent)
    (lc : LineChannel) (oi) (alarm healthy : Bool) (hv : ControlKept s.vc vc) (hl : LineKept s.lc lc) :
    SwitchKept s { s with
      stages := stages, ready := ready, inService := inService, vc := vc, ur := ur, ix := { s.ix with own := own }
      lc := lc, oi := oi, alarm := alarm, healthy := healthy } where
  pending := rfl
  resetInput := rfl
  phase := rfl
  strap := rfl
  ms := rfl
  settings := rfl
  fallbackPulse := rfl
  pins := rfl
  carrier := rfl
  inputs := rfl
  block := rfl
  port := rfl
  store := rfl
  blockSet := rfl
  hm := rfl
  pv := rfl
  nextNumber := rfl
  busyCount := rfl
  isolated := rfl
  control := hv
  line := hl

theorem SwitchKept.trans {s t u : State} (h : SwitchKept s t) (h' : SwitchKept t u) : SwitchKept s u where
  pending := h'.pending.trans h.pending
  resetInput := h'.resetInput.trans h.resetInput
  phase := h'.phase.trans h.phase
  strap := h'.strap.trans h.strap
  ms := h'.ms.trans h.ms
  settings := h'.settings.trans h.settings
  fallbackPulse := h'.fallbackPulse.trans h.fallbackPulse
  pins := h'.pins.trans h.pins
  carrier := h'.carrier.trans h.carrier
  inputs := h'.inputs.trans h.inputs
  block := h'.block.trans h.block
  port := h'.port.trans h.port
  store := h'.store.trans h.store
  blockSet := h'.blockSet.trans h.blockSet
  hm := h'.hm.trans h.hm
  pv := h'.pv.trans h.pv
  nextNumber := h'.nextNumber.trans h.nextNumber
  busyCount := h'.busyCount.trans h.busyCount
  isolated := h'.isolated.trans h.isolated
  control := h.control.trans h'.control
  line := h.line.trans h'.line

/-- The frame of a change that is no news, the trigger delay as it was. -/
theorem SwitchKept.silent {s t : State} (h : SwitchKept s t) (hd : t.lc.triggerDelay = s.lc.triggerDelay)
    (hs : ∀ k, (t.stage k).state = (s.stage k).state) (hu : t.ur.entries = s.ur.entries) (ho : t.oi.last = s.oi.last) :
    SwitchFrame s t :=
  ⟨h, ⟨by rw [h.settings], h.line.working, h.line.armed, .inr ⟨⟨hs, h.control.deadLine, by simp only [State.harmAlarm, h.hm],
    by simp only [State.unbAlarm, State.stageIds, h.settings, hu], by rw [h.pv], ho⟩, hd⟩⟩⟩

/-- The frame of a change on whose way a trigger is taken. -/
theorem SwitchKept.told {s t : State} (h : SwitchKept s t) (ht : Triggered s t) : SwitchFrame s t :=
  ⟨h, ⟨by rw [h.settings], h.line.working, h.line.armed, .inl ht⟩⟩

theorem SwitchKept.delay {s t : State} (h : SwitchKept s t) (hd : t.lc.triggerDelay = s.lc.triggerDelay) : DelayKept s t :=
  ⟨by rw [h.settings], h.line.working, h.line.armed, .inr hd⟩

theorem SwitchFrame.refl (s : State) : SwitchFrame s s :=
  (switchKept_of s s.stages s.ready s.inService s.vc s.ur s.ix.own s.lc s.oi s.alarm s.healthy (.refl _) (.refl _)).silent
    rfl (fun _ => rfl) rfl rfl

theorem SwitchFrame.trans {s t u : State} (h : SwitchFrame s t) (h' : SwitchFrame t u) : SwitchFrame s u :=
  ⟨h.toSwitchKept.trans h'.toSwitchKept, h.toAnnounces.trans h'.toAnnounces⟩

theorem NoticeFrame.refl (s : State) : NoticeFrame s s := ⟨.refl s, rfl, rfl, rfl⟩

theorem NoticeFrame.trans {s t u : State} (h : NoticeFrame s t) (h' : NoticeFrame t u) : NoticeFrame s u where
  toSwitchFrame := h.toSwitchFrame.trans h'.toSwitchFrame
  stages := h'.stages.trans h.stages
  ready := h'.ready.trans h.ready
  inService := h'.inService.trans h.inService

theorem NoticeFrame.stage {s t : State} (h : NoticeFrame s t) (k : StageId) : t.stage k = s.stage k := by
  simp only [State.stage, h.stages]

/-- A change of the controller, the relay, the own intent, the orders, the outputs and the Line Channel. -/
theorem noticeKept_of (s : State) (vc ur) (own : Option Intent) (lc : LineChannel) (oi) (alarm healthy : Bool)
    (hv : ControlKept s.vc vc) (hl : LineKept s.lc lc) :
    SwitchKept s { s with
      vc := vc, ur := ur, ix := { s.ix with own := own }, lc := lc, oi := oi, alarm := alarm, healthy := healthy } :=
  switchKept_of s s.stages s.ready s.inService vc ur own lc oi alarm healthy hv hl

/-- A change of the controller, the own intent, the outputs, and of the relay and the orders but for what they announce. -/
theorem noticeFrame_of (s : State) (vc ur) (own : Option Intent) (oi) (alarm healthy : Bool)
    (hv : ControlKept s.vc vc) (hu : ur.entries = s.ur.entries) (ho : oi.last = s.oi.last) :
    NoticeFrame s { s with
      vc := vc, ur := ur, ix := { s.ix with own := own }, oi := oi, alarm := alarm, healthy := healthy } :=
  ⟨(noticeKept_of s vc ur own s.lc oi alarm healthy hv (.refl _)).silent rfl (fun _ => rfl) hu ho, rfl, rfl, rfl⟩

/-- A change of the Line Channel's slots or access alone. -/
theorem lineFrame_of (s : State) (lc : LineChannel) (hl : LineKept s.lc lc) (hd : lc.triggerDelay = s.lc.triggerDelay) :
    NoticeFrame s { s with lc := lc } :=
  ⟨(noticeKept_of s s.vc s.ur s.ix.own lc s.oi s.alarm s.healthy (.refl _) hl).silent hd (fun _ => rfl) rfl rfl,
    rfl, rfl, rfl⟩

/-- A change of the order and chain records alone, the last order as it was. -/
theorem orderFrame_of (s : State) (oi : Interpreter) (ho : oi.last = s.oi.last) : NoticeFrame s { s with oi := oi } :=
  noticeFrame_of s s.vc s.ur s.ix.own oi s.alarm s.healthy (.refl _) rfl ho

/-- A change of the relay's capture alone. -/
theorem relayFrame_of (s : State) (ur : Relay) (hu : ur.entries = s.ur.entries) : NoticeFrame s { s with ur := ur } :=
  noticeFrame_of s s.vc ur s.ix.own s.oi s.alarm s.healthy (.refl _) hu rfl

/-- A change of the controller alone. -/
theorem controlFrame_of (s : State) (vc : Controller) (hv : ControlKept s.vc vc) : NoticeFrame s { s with vc := vc } :=
  noticeFrame_of s vc s.ur s.ix.own s.oi s.alarm s.healthy hv rfl rfl

/-! ### Line Channel -/

/-- All that an attempt's beginning or end can touch: the access and the draw. -/
theorem refreshAccess_only (s : State) : ∃ a l, refreshAccess s = { s with lc := { s.lc with access := a, lfsr := l } } := by
  have same : ∃ a l, s = { s with lc := { s.lc with access := a, lfsr := l } } := ⟨s.lc.access, s.lc.lfsr, rfl⟩
  unfold refreshAccess
  split
  · exact same
  · exact same
  · split
    · split
      · exact ⟨_, _, rfl⟩
      · exact ⟨_, s.lc.lfsr, rfl⟩
    · exact same
  · split
    · exact same
    · exact ⟨_, s.lc.lfsr, rfl⟩
  · split
    · exact same
    · exact ⟨_, s.lc.lfsr, rfl⟩

theorem refreshAccess_frame (s : State) : NoticeFrame s (refreshAccess s) := by
  obtain ⟨a, l, h⟩ := refreshAccess_only s
  rw [h]
  exact lineFrame_of s { s.lc with access := a, lfsr := l } (by constructor <;> rfl) rfl

theorem trigger_frame (s : State) : NoticeFrame s (trigger s) := by
  have ht := trigger_triggered s
  revert ht
  unfold trigger
  split
  · exact fun ht => ⟨(noticeKept_of s s.vc s.ur s.ix.own { s.lc with triggerDelay := some (triggerTime s.settings.station) }
      s.oi s.alarm s.healthy (.refl _) (by constructor <;> rfl)).told ht, rfl, rfl, rfl⟩
  · exact fun _ => .refl s

theorem placeIntent_frame (x : IntentContent) (s : State) : NoticeFrame s (placeIntent x s) :=
  (lineFrame_of s { s.lc with intentSlot := some x } (by constructor <;> rfl) rfl).trans (refreshAccess_frame _)

theorem placeOutcome_frame (x : OutcomeContent) (s : State) : NoticeFrame s (placeOutcome x s) :=
  (lineFrame_of s { s.lc with outcomeSlot := some x } (by constructor <;> rfl) rfl).trans (refreshAccess_frame _)

theorem rejudge_frame (s : State) : NoticeFrame s (rejudge s) :=
  noticeFrame_of s s.vc s.ur s.ix.own s.oi _ _ (.refl _) rfl rfl

/-! ### Controller and own intent -/

theorem enterQuiet_frame (s : State) : NoticeFrame s (enterQuiet s) := by
  unfold enterQuiet; exact controlFrame_of s _ ⟨.inr rfl, .inr rfl, rfl, rfl, rfl, rfl, rfl, rfl, rfl⟩

theorem enterSuspended_frame (s : State) : NoticeFrame s (enterSuspended s) := by
  unfold enterSuspended
  exact (controlFrame_of s { s.vc with state := .suspended, low := 0, high := 0, unserved := .none, stationSettle := none }
    ⟨.inr rfl, .inr rfl, rfl, rfl, rfl, rfl, rfl, rfl, rfl⟩).trans (trigger_frame _)

theorem returnWatching_frame (r : Reason) (s : State) : NoticeFrame s (returnWatching r s) := by
  unfold returnWatching; exact controlFrame_of s _ (by constructor <;> first | rfl | exact .inl rfl)

theorem afterWithdrawal_frame (r : Reason) (s : State) : NoticeFrame s (afterWithdrawal r s) := by
  unfold afterWithdrawal
  split <;> first | exact enterQuiet_frame s | exact enterSuspended_frame s | exact returnWatching_frame _ s

theorem dropIntent_frame (i : Intent) (r : Reason) (s : State) : NoticeFrame s (dropIntent i r s) := by
  unfold dropIntent
  exact ((lineFrame_of s { s.lc with intentSlot := if unsent i then none else s.lc.intentSlot }
    (by constructor <;> rfl) rfl).trans (noticeFrame_of _ s.vc s.ur none s.oi s.alarm s.healthy (.refl _) rfl rfl)).trans
    ((refreshAccess_frame _).trans (placeOutcome_frame _ _))

theorem withdraw_frame (r : Reason) (s : State) : NoticeFrame s (withdraw r s) := by
  unfold withdraw
  split
  · exact .refl s
  · split
    · exact .refl s
    · exact (dropIntent_frame _ _ s).trans (afterWithdrawal_frame _ _)

theorem withdrawCommitted_frame (r : Reason) (s : State) : NoticeFrame s (withdrawCommitted r s) := by
  unfold withdrawCommitted
  split
  · exact .refl s
  · exact (dropIntent_frame _ _ s).trans (afterWithdrawal_frame _ _)

theorem addCause_frame (c : Suspension) (s : State) : NoticeFrame s (addCause c s) := by
  have h := controlFrame_of s { s.vc with causes := s.vc.causes.put c true } (by constructor <;> first | rfl | exact .inl rfl)
  unfold addCause
  dsimp only
  split
  · split
    · exact h
    · exact h.trans ((withdraw_frame _ _).trans (enterSuspended_frame _))
    · exact h.trans (enterSuspended_frame _)
  · exact h

theorem removeCause_frame (c : Suspension) (s : State) : NoticeFrame s (removeCause c s) := by
  have h := controlFrame_of s { s.vc with causes := s.vc.causes.put c false } (by constructor <;> first | rfl | exact .inl rfl)
  unfold removeCause
  dsimp only
  split
  · exact h.trans ((enterQuiet_frame _).trans (trigger_frame _))
  · exact h

theorem setMode_frame (m : Bool) (s : State) : NoticeFrame s (setMode m s) := by
  unfold setMode
  split
  · exact .refl s
  · split
    · exact (controlFrame_of s { s.vc with manual := true } (by constructor <;> first | rfl | exact .inl rfl)).trans
        (addCause_frame _ _)
    · exact (controlFrame_of s { s.vc with manual := false } (by constructor <;> first | rfl | exact .inl rfl)).trans
        (removeCause_frame _ _)

/-! ### Orders -/

theorem writeOrder_frame (p g : Nat) (o : OrderOutcome) (d : Nat) (m : SettleMark) (s : State) :
    NoticeFrame s (writeOrder p g o d m s) := by
  have h : SwitchKept s { s with oi := { s.oi with last := ⟨p, g, o, d⟩, mark := m } } :=
    noticeKept_of s s.vc s.ur s.ix.own s.lc _ s.alarm s.healthy (.refl _) (.refl _)
  have f := trigger_frame { s with oi := { s.oi with last := ⟨p, g, o, d⟩, mark := m } }
  exact ⟨(h.trans f.toSwitchKept).told ((h.delay rfl).triggered (trigger_triggered _)), f.stages, f.ready, f.inService⟩

theorem captureEnded_frame (c : Capture) (o : OrderOutcome) (d : Nat) (s : State) :
    NoticeFrame s (captureEnded c o d s) := by
  unfold captureEnded
  split
  · exact writeOrder_frame ..
  · exact .refl s

theorem endChain_frame (c : Chain) (e : ChainEnd) (s : State) :
    NoticeFrame s (endChain c e s) := by
  unfold endChain
  exact ((orderFrame_of s { s.oi with chain := none, stepIndex := c.index, stepReason := e.reason } rfl).trans (writeOrder_frame ..)).trans
    (removeCause_frame ..)

theorem refuseOrder_frame (o : Order) (r : Reason) (s : State) : NoticeFrame s (refuseOrder o r s) :=
  writeOrder_frame ..

theorem chainDeadLine_frame (s : State) : NoticeFrame s (chainDeadLine s) := by
  unfold chainDeadLine
  split
  · exact endChain_frame ..
  · exact .refl s

/-! ### Switching reports (R51) -/

theorem exchangeReport_frame (r : SwitchReport) (s : State) : NoticeFrame s (exchangeReport r s) := by
  unfold exchangeReport
  exact NoticeFrame.trans (noticeFrame_of s s.vc s.ur _ s.oi s.alarm s.healthy (.refl _) rfl rfl) (placeOutcome_frame _ _)

theorem controllerReport_frame (r : SwitchReport) (s : State) : NoticeFrame s (controllerReport r s) := by
  unfold controllerReport
  split
  · split
    · split
      · have h := controlFrame_of s { s.vc with ownOp := none } (by constructor <;> first | rfl | exact .inl rfl)
        dsimp only
        split
        · exact h.trans (enterQuiet_frame _)
        · exact h.trans (enterSuspended_frame _)
      · exact .refl s
    · exact .refl s
  · exact enterQuiet_frame s
  · exact controlFrame_of s { s.vc with stationSettle := _ } (by constructor <;> first | rfl | exact .inl rfl)
  · exact .refl s

theorem settleOrder_frame (r : SwitchReport) (s : State) : NoticeFrame s (settleOrder r s) := by
  unfold settleOrder
  split
  · split <;> exact writeOrder_frame ..
  · exact .refl s

theorem advanceChain_frame (c : Chain) (s : State) : NoticeFrame s (advanceChain c s) := by
  have h : ∀ x, NoticeFrame s { s with oi.chain := x } := fun x =>
    orderFrame_of s { s.oi with chain := x } rfl
  unfold advanceChain
  dsimp only
  split
  · exact (h _).trans (writeOrder_frame ..)
  · exact h _

theorem settleChain_frame (r : SwitchReport) (s : State) : NoticeFrame s (settleChain r s) := by
  unfold settleChain
  split
  · exact .refl s
  · split
    · exact .refl s
    · split
      · split
        · exact endChain_frame ..
        · split
          · exact advanceChain_frame ..
          · exact endChain_frame ..
      · exact .refl s

/-- R51: a switching report changes no stage record. -/
theorem report_frame (r : SwitchReport) (s : State) : NoticeFrame s (report r s) :=
  (((exchangeReport_frame r s).trans (controllerReport_frame r _)).trans (settleOrder_frame r _)).trans
    (settleChain_frame r _)

/-! ### Stage notices (R52) -/

theorem modEntry_kept (k : StageId) (f : RelayEntry → RelayEntry) (s : State) : SwitchKept s (s.modEntry k f) :=
  noticeKept_of s s.vc _ s.ix.own s.lc s.oi s.alarm s.healthy (.refl _) (.refl _)

/-- R122: a change of the relay that stands before a notice is announced by it. -/
theorem unbalanceNotice_frame {s t : State} (h : SwitchKept s t) (hn : t.stages = s.stages ∧ t.ready = s.ready ∧
    t.inService = s.inService) (hd : Triggered s t ∨ (t.lc.triggerDelay = s.lc.triggerDelay ∧ t.oi.last = s.oi.last)) :
    NoticeFrame s (unbalanceNotice s.unbAlarm t) := by
  have hk : DelayKept s t := ⟨by rw [h.settings], h.line.working, h.line.armed, hd.imp_right (·.1)⟩
  unfold unbalanceNotice
  split
  · rename_i hb
    rcases hd with hd | ⟨hd, ho⟩
    · exact ⟨h.told hd, hn.1, hn.2.1, hn.2.2⟩
    · exact ⟨⟨h, ⟨hk.station, hk.working, hk.armed, .inr ⟨⟨fun k => by simp only [State.stage, hn.1], h.control.deadLine,
        by simp only [State.harmAlarm, h.hm], hb, by rw [h.pv], ho⟩, hd⟩⟩⟩, hn.1, hn.2.1, hn.2.2⟩
  · have f := (trigger_frame t).trans (rejudge_frame _)
    exact ⟨(h.trans f.toSwitchKept).told (hk.triggered ((trigger_triggered t).kept (rejudge_frame _).toAnnounces.kept
      (trigger_frame t).toAnnounces.kept)), f.stages.trans hn.1, f.ready.trans hn.2.1, f.inService.trans hn.2.2⟩

theorem abandonCapture_frame (k : StageId) (s : State) : NoticeFrame s (abandonCapture k s) := by
  unfold abandonCapture
  split
  · split
    · exact (relayFrame_of s { s.ur with capture := none } rfl).trans (captureEnded_frame ..)
    · exact .refl s
  · exact .refl s

/-- R118: an entry to CLOSED leaves the alarm flags. -/
theorem enterService_frame (k : StageId) (s : State) :
    NoticeFrame s (s.modEntry k (RelayEntry.enterService (s.cfg k).blanking)) := by
  have h := modEntry_kept k (RelayEntry.enterService (s.cfg k).blanking) s
  refine ⟨⟨h, ⟨rfl, rfl, rfl, .inr ⟨⟨fun _ => rfl, rfl, rfl, ?_, rfl, rfl⟩, rfl⟩⟩⟩, rfl, rfl, rfl⟩
  have e : ∀ j, ((s.modEntry k (RelayEntry.enterService (s.cfg k).blanking)).ur.entries.get j).alarm =
      (s.ur.entries.get j).alarm := by
    intro j
    by_cases hj : j = k
    · subst hj; simp [State.modEntry, RelayEntry.enterService]
    · simp [State.modEntry, Four.get_set_ne _ _ hj]
  simp only [State.unbAlarm, e]
  rfl

theorem relayNotice_frame (k : StageId) (old new : StageState) (s : State) :
    NoticeFrame s (relayNotice k old new s) := by
  unfold relayNotice
  split
  · exact .refl s
  · split
    · exact enterService_frame k s
    · split
      · have hm := modEntry_kept k RelayEntry.leaveService s
        have f := abandonCapture_frame k (s.modEntry k RelayEntry.leaveService)
        exact unbalanceNotice_frame (hm.trans f.toSwitchKept) ⟨f.stages, f.ready, f.inService⟩
          (f.news.imp (hm.delay rfl).triggered fun h => ⟨h.2, h.1.lastOrder⟩)
      · exact .refl s

theorem exchangeNotice_frame (k : StageId) (s : State) : NoticeFrame s (exchangeNotice k s) := by
  unfold exchangeNotice
  split
  · split
    · exact withdraw_frame ..
    · exact .refl s
  · exact .refl s

/-- R52: a stage notice changes no stage record. -/
theorem stageNotice_frame (k : StageId) (old new : StageState) (s : State) :
    NoticeFrame s (stageNotice k old new s) := by
  unfold stageNotice
  exact (((trigger_frame s).trans (relayNotice_frame ..)).trans (exchangeNotice_frame ..)).trans (rejudge_frame _)

/-- R52, R182: and is a bulletin trigger. -/
theorem stageNotice_triggered (k : StageId) (old new : StageState) (s : State) :
    Triggered s (stageNotice k old new s) := by
  unfold stageNotice
  exact (trigger_triggered s).kept
    (((relayNotice_frame ..).trans (exchangeNotice_frame ..)).trans (rejudge_frame _)).toAnnounces.kept
    (trigger_frame s).toAnnounces.kept

/-! ### The Stage Supervisor -/

/-- A change of the stage records and lists alone. -/
theorem stagesKept_of (s : State) (stages ready inService) :
    SwitchKept s { s with stages := stages, ready := ready, inService := inService } :=
  switchKept_of s stages ready inService s.vc s.ur s.ix.own s.lc s.oi s.alarm s.healthy (.refl _) (.refl _)

theorem modStage_kept (k : StageId) (f : Stage → Stage) (s : State) : SwitchKept s (s.modStage k f) :=
  stagesKept_of s _ s.ready s.inService

/-- A change of a stage record that leaves its state. -/
theorem modStage_frame (k : StageId) (f : Stage → Stage) (s : State) (hf : (f (s.stage k)).state = (s.stage k).state) :
    SwitchFrame s (s.modStage k f) := by
  refine (modStage_kept k f s).silent rfl (fun j => ?_) rfl rfl
  by_cases hj : j = k
  · subst hj; simpa using hf
  · rw [modStage_stage_ne s f hj]

theorem prune_frame (k : StageId) (s : State) : SwitchFrame s (s.prune k) := modStage_frame _ _ _ rfl

theorem addDuty_frame (k : StageId) (s : State) : SwitchFrame s (s.addDuty k) := modStage_frame _ _ _ rfl

theorem addExternalDuty_frame (k : StageId) (s : State) : SwitchFrame s (s.addExternalDuty k) := modStage_frame _ _ _ rfl

theorem startDiscrepancy_frame (k : StageId) (o : StageState) (s : State) : SwitchFrame s (s.startDiscrepancy k o) :=
  modStage_frame _ _ _ rfl

theorem stopDiscrepancy_frame (k : StageId) (s : State) : SwitchFrame s (s.stopDiscrepancy k) := modStage_frame _ _ _ rfl

/-- A change of a stage's state is a bulletin trigger (R52, R182). -/
theorem changeStage_triggered (k : StageId) (new : StageState) (s : State) : Triggered s (changeStage k new s) := by
  have hs : (s.moveStage k new).delayTriggered = s.delayTriggered := rfl
  unfold changeStage
  exact (stageNotice_triggered ..).trans hs

theorem changeStage_frame (k : StageId) (new : StageState) (s : State) : SwitchFrame s (changeStage k new s) :=
  ((stagesKept_of s _ _ _).trans (stageNotice_frame ..).toSwitchKept).told (changeStage_triggered k new s)

theorem pruneFor_frame (s : State) (n : Nat) : SwitchFrame s (pruneFor s n) := by
  unfold pruneFor
  split
  · exact prune_frame ..
  · exact .refl s

theorem completeOpen_frame (k : StageId) (op : Operation) (timed : Bool) (s : State) :
    SwitchFrame s (completeOpen k op timed s) := by
  unfold completeOpen
  exact ((modStage_frame _ _ _ rfl).trans (changeStage_frame ..)).trans (report_frame ..).toSwitchFrame

theorem issueOpen_frame (k : StageId) (cause : Cause) (n : Nat) (s : State) :
    SwitchFrame s (issueOpen k cause n s) := by
  unfold issueOpen
  dsimp only
  split
  · exact ((modStage_frame _ _ _ rfl).trans (changeStage_frame ..)).trans (completeOpen_frame ..)
  · exact (modStage_frame _ _ _ rfl).trans (changeStage_frame ..)

theorem cutClose_frame (k : StageId) (op : Operation) (cause : Cause) (n : Nat) (s : State) :
    SwitchFrame s (cutClose k op cause n s) := by unfold cutClose; exact modStage_frame _ _ _ rfl

theorem absorbOpen_frame (k : StageId) (op : Operation) (cause : Cause) (n : Nat) (s : State) :
    SwitchFrame s (absorbOpen k op cause n s) := by unfold absorbOpen; exact modStage_frame _ _ _ rfl

theorem actOpen_frame (k : StageId) (cause : Cause) (n : Nat) (s : State) : SwitchFrame s (actOpen k cause n s) := by
  unfold actOpen
  split
  · exact issueOpen_frame ..
  · split
    · exact cutClose_frame ..
    · exact .refl s
  · split
    · exact absorbOpen_frame ..
    · exact .refl s
  · split
    · exact issueOpen_frame ..
    · exact .refl s
  · exact .refl s

theorem requestOpen_frame (k : StageId) (cause : Cause) (n : Nat) (s : State) :
    SwitchFrame s (requestOpen k cause n s) := by
  unfold requestOpen
  split
  · exact .refl s
  · exact actOpen_frame ..

theorem deadLineNotice_frame (k : StageId) (s : State) : SwitchFrame s (deadLineNotice k s) := by
  unfold deadLineNotice
  split
  · exact requestOpen_frame ..
  · exact .refl s

theorem completeClose_frame (k : StageId) (op : Operation) (timed : Bool) (s : State) :
    SwitchFrame s (completeClose k op timed s) := by
  unfold completeClose
  dsimp only
  split
  · exact ((((modStage_frame _ _ _ rfl).trans (changeStage_frame ..)).trans (report_frame ..).toSwitchFrame).trans
      (issueOpen_frame ..)).trans (deadLineNotice_frame ..)
  · exact (((modStage_frame _ _ _ rfl).trans (changeStage_frame ..)).trans (report_frame ..).toSwitchFrame).trans
      (deadLineNotice_frame ..)

theorem issueClose_frame (k : StageId) (cause : Cause) (n : Nat) (s : State) :
    SwitchFrame s (issueClose k cause n s) := by
  unfold issueClose
  dsimp only
  split
  · exact (((addDuty_frame ..).trans (modStage_frame _ _ _ rfl)).trans (changeStage_frame ..)).trans (completeClose_frame ..)
  · exact ((addDuty_frame ..).trans (modStage_frame _ _ _ rfl)).trans (changeStage_frame ..)

theorem externalOpen_frame (k : StageId) (s : State) : SwitchFrame s (externalOpen k s) := by
  unfold externalOpen
  exact ((modStage_frame _ _ _ rfl).trans (changeStage_frame ..)).trans (report_frame ..).toSwitchFrame

theorem externalClose_frame (k : StageId) (s : State) : SwitchFrame s (externalClose k s) := by
  unfold externalClose
  exact (((((addExternalDuty_frame ..).trans (modStage_frame _ _ _ rfl)).trans (changeStage_frame ..)).trans
    (report_frame ..).toSwitchFrame).trans (deadLineNotice_frame ..))

theorem enforceLockout_frame (k : StageId) (s : State) : SwitchFrame s (enforceLockout k s) :=
  (addExternalDuty_frame ..).trans (issueOpen_frame ..)

theorem takePosition_frame (k : StageId) (s : State) : SwitchFrame s (takePosition k s) := by
  unfold takePosition
  dsimp only
  split
  · split
    · split
      · exact enforceLockout_frame ..
      · exact externalClose_frame ..
    · exact startDiscrepancy_frame ..
    · exact startDiscrepancy_frame ..
    · exact .refl s
  · exact .refl s

theorem positionChange_frame (k : StageId) (p : Position) (s : State) : SwitchFrame s (positionChange k p s) := by
  unfold positionChange
  dsimp only
  repeat' split
  all_goals with_reducible first
    | exact externalOpen_frame ..
    | exact externalClose_frame ..
    | exact enforceLockout_frame ..
    | exact stopDiscrepancy_frame ..
    | exact startDiscrepancy_frame ..
    | exact completeClose_frame ..
    | exact completeOpen_frame ..
    | exact .refl s

theorem tripRefused_frame (k : StageId) (cause : Cause) (s : State) : SwitchFrame s (tripRefused k cause s) := by
  unfold tripRefused
  split
  · exact ((modStage_frame _ _ _ rfl).trans (changeStage_frame ..)).trans (takePosition_frame ..)
  · exact ((modStage_frame _ _ _ rfl).trans (changeStage_frame ..)).trans (takePosition_frame ..)
  · exact modStage_frame _ _ _ rfl
  · exact .refl s

theorem requestTrip_frame (k : StageId) (cause : Cause) (s : State) : SwitchFrame s (requestTrip k cause s) := by
  unfold requestTrip
  split
  · exact .refl s
  · dsimp only
    split
    · exact (modStage_frame _ _ _ rfl).trans (tripRefused_frame ..)
    · exact (modStage_frame _ _ _ rfl).trans (actOpen_frame ..)

theorem endPulse_frame (k : StageId) (s : State) : SwitchFrame s (endPulse k s) := by
  unfold endPulse
  split
  · exact modStage_frame _ _ _ rfl
  · exact .refl s

theorem closeWindow_frame (k : StageId) (s : State) : SwitchFrame s (closeWindow k s) := by
  unfold closeWindow
  dsimp only
  split
  · split
    · exact ((modStage_frame _ _ _ rfl).trans (changeStage_frame ..)).trans (report_frame ..).toSwitchFrame
    · exact ((((modStage_frame _ _ _ rfl).trans (modStage_frame _ _ _ rfl)).trans (changeStage_frame ..)).trans
        (report_frame ..).toSwitchFrame).trans (takePosition_frame ..)
  · exact .refl s

theorem openWindow_frame (k : StageId) (s : State) : SwitchFrame s (openWindow k s) := by
  unfold openWindow
  dsimp only
  split
  · exact ((modStage_frame _ _ _ rfl).trans (changeStage_frame ..)).trans (report_frame ..).toSwitchFrame
  · exact .refl s

theorem expireDiscrepancy_frame (k : StageId) (s : State) : SwitchFrame s (expireDiscrepancy k s) := by
  unfold expireDiscrepancy
  dsimp only
  split
  · exact .refl s
  · split
    · exact changeStage_frame ..
    · exact .refl s

theorem endDischarge_frame (k : StageId) (s : State) : SwitchFrame s (endDischarge k s) := by
  unfold endDischarge
  dsimp only
  split
  · exact ((modStage_frame _ _ _ rfl).trans (changeStage_frame ..)).trans (takePosition_frame ..)
  · exact modStage_frame _ _ _ rfl
  · exact modStage_frame _ _ _ rfl
  · exact .refl s

theorem resetStage_frame (k : StageId) (s : State) : SwitchFrame s (resetStage k s) := by
  unfold resetStage
  exact ((modStage_frame _ _ _ rfl).trans (changeStage_frame ..)).trans (takePosition_frame ..)

/-! ### Requests and chains -/

theorem pruneRequest_frame (s : State) (dir : Direction) (n : Nat) : SwitchFrame s (pruneRequest s dir n) := by
  unfold pruneRequest
  split
  · exact pruneFor_frame ..
  · exact .refl s

theorem actRequest_frame (dir : Direction) (k : StageId) (cause : Cause) (s : State) :
    SwitchFrame s (actRequest dir k cause s) := by
  unfold actRequest
  split
  · exact issueClose_frame ..
  · exact actOpen_frame ..

theorem serveSwitch_frame (dir : Direction) (n : Nat) (cause : Cause) (refused : Reason → State → State)
    (accepted : StageId → State → State) (s : State) (hr : ∀ r t, SwitchFrame t (refused r t))
    (ha : ∀ k t, SwitchFrame t (accepted k t)) : SwitchFrame s (serveSwitch dir n cause refused accepted s) := by
  unfold serveSwitch
  split
  · exact hr _ s
  · dsimp only
    split
    · exact (pruneRequest_frame ..).trans (hr _ _)
    · split
      · exact ((pruneRequest_frame ..).trans (ha _ _)).trans (actRequest_frame ..)
      · exact pruneRequest_frame ..

theorem serveOrderSwitch_frame (dir : Direction) (o : Order) (s : State) :
    SwitchFrame s (serveOrderSwitch dir o s) := by
  unfold serveOrderSwitch
  split
  · exact (refuseOrder_frame ..).toSwitchFrame
  · dsimp only
    refine SwitchFrame.trans (t := if s.vc.state = .proposing then withdraw .order s else s) ?_
      (serveSwitch_frame _ _ _ _ _ _ (fun _ _ => (refuseOrder_frame ..).toSwitchFrame)
        (fun _ _ => (writeOrder_frame ..).toSwitchFrame))
    split
    · exact (withdraw_frame ..).toSwitchFrame
    · exact .refl s

theorem serveStep_frame (s : State) : SwitchFrame s (serveStep s) := by
  unfold serveStep
  split
  · exact .refl s
  · rename_i c _
    split
    · exact .refl s
    · split
      · exact .refl s
      · exact serveSwitch_frame _ _ _ _ _ _ (fun _ _ => (endChain_frame ..).toSwitchFrame)
          (fun _ t => (orderFrame_of t { t.oi with chain := some { c with operating := true } } rfl).toSwitchFrame)

theorem serveDue_frame (n : Nat) (s : State) : SwitchFrame s (serveDue n s) := by
  induction n generalizing s with
  | zero => exact .refl s
  | succ n ih =>
    unfold serveDue
    split
    · exact (serveStep_frame s).trans (ih _)
    · exact .refl s

theorem settleDue_frame (s : State) : SwitchFrame s (settleDue s) := serveDue_frame 6 s

/-- A step whose delay has not run out is left alone at the end of an event. -/
theorem settleDue_of_not_due {s : State} (h : s.stepDue = false) : settleDue s = s := by
  simp [settleDue, serveDue, h]

/-- With no chain there is nothing to serve. -/
theorem settleDue_of_no_chain {s : State} (h : s.oi.chain = none) : settleDue s = s :=
  settleDue_of_not_due (by simp [State.stepDue, h])

end Sys2Proof.Machine
end

