-- ==== Sys2Proof/Laws/CycleFrames.lean ====
section
/-! SUPPORT. One lemma for each operation of a cycle: what it leaves unchanged. -/

namespace Sys2Proof.Machine

theorem SwitchKept.cycle {s t : State} (h : SwitchKept s t) : CycleKept s t where
  pending := h.pending
  resetInput := h.resetInput
  phase := h.phase
  strap := h.strap
  ms := h.ms
  settings := h.settings
  fallbackPulse := h.fallbackPulse
  pins := h.pins
  carrier := h.carrier
  inputs := h.inputs
  block := h.block
  portWorking := by rw [h.port]
  blockSet := h.blockSet
  pv := h.pv
  busyCount := h.busyCount
  isolated := h.isolated
  listenIn := h.control.listenIn
  peerSettle := h.control.peerSettle
  line := h.line

theorem SwitchFrame.cycle {s t : State} (h : SwitchFrame s t) : CycleFrame s t := ⟨h.toSwitchKept.cycle, h.toAnnounces⟩

theorem CycleFrame.refl (s : State) : CycleFrame s s := (SwitchFrame.refl s).cycle

theorem CycleKept.trans {s t u : State} (h : CycleKept s t) (h' : CycleKept t u) : CycleKept s u where
  pending := h'.pending.trans h.pending
  resetInput := h'.resetInput.trans h.resetInput
  phase := h'.phase.trans h.phase
  strap := h'.strap.trans h.strap
  ms := h'.ms.trans h.ms
  settings := h'.settings.trans h.settings
  fallbackPulse := h'.fallbackPulse.trans h.fallbackPulse
  pins := h'.pins.trans h.pins
  carrier := h'.carrier.trans h.carrier
  inputs := h'.inputs.trans h.inputs
  block := h'.block.trans h.block
  portWorking := h'.portWorking.trans h.portWorking
  blockSet := h'.blockSet.trans h.blockSet
  pv := h'.pv.trans h.pv
  busyCount := h'.busyCount.trans h.busyCount
  isolated := h'.isolated.trans h.isolated
  listenIn := h'.listenIn.trans h.listenIn
  peerSettle := h'.peerSettle.trans h.peerSettle
  line := h.line.trans h'.line

theorem CycleFrame.trans {s t u : State} (h : CycleFrame s t) (h' : CycleFrame t u) : CycleFrame s u :=
  ⟨h.toCycleKept.trans h'.toCycleKept, h.toAnnounces.trans h'.toAnnounces⟩

/-- A change of the store, the port's counts, the controller, the monitor and the exchange's numbers. -/
theorem cycleKept_of (s : State) (port : Port) (store : Store) (vc : Controller) (hm : Monitor)
    (own : Option Intent) (next : Nat) (hp : port.working = s.port.working) (hl : vc.listenIn = s.vc.listenIn)
    (hv : vc.peerSettle = s.vc.peerSettle) :
    CycleKept s { s with
      port := port, store := store, vc := vc, hm := hm
      ix := { s.ix with own := own, nextNumber := next } } where
  pending := rfl
  resetInput := rfl
  phase := rfl
  strap := rfl
  ms := rfl
  settings := rfl
  fallbackPulse := rfl
  pins := rfl
  carrier := rfl
  inputs := rfl
  block := rfl
  portWorking := hp
  blockSet := rfl
  pv := rfl
  busyCount := rfl
  isolated := rfl
  listenIn := hl
  peerSettle := hv
  line := .refl _

/-- The same, with no change of the dead line or the station harmonic alarm. -/
theorem cycleFrame_of (s : State) (port : Port) (store : Store) (vc : Controller) (hm : Monitor)
    (own : Option Intent) (next : Nat) (hp : port.working = s.port.working) (hl : vc.listenIn = s.vc.listenIn)
    (hv : vc.peerSettle = s.vc.peerSettle) (hd : vc.deadLine = s.vc.deadLine) (hh : hm.alarm = s.hm.alarm) :
    CycleFrame s { s with
      port := port, store := store, vc := vc, hm := hm
      ix := { s.ix with own := own, nextNumber := next } } :=
  ⟨cycleKept_of s port store vc hm own next hp hl hv, ⟨rfl, rfl, rfl, .inr ⟨⟨fun _ => rfl, hd, hh, rfl, rfl, rfl⟩, rfl⟩⟩⟩

theorem controlCycle_of (s : State) (vc : Controller) (hl : vc.listenIn = s.vc.listenIn)
    (hv : vc.peerSettle = s.vc.peerSettle) (hd : vc.deadLine = s.vc.deadLine) : CycleFrame s { s with vc := vc } :=
  cycleFrame_of s s.port s.store vc s.hm s.ix.own s.ix.nextNumber rfl hl hv hd rfl

/-- A change of the controller, the dead line among it, and then a trigger. -/
theorem controlTold_of (s : State) (vc : Controller) (hl : vc.listenIn = s.vc.listenIn)
    (hv : vc.peerSettle = s.vc.peerSettle) {t : State} (h : CycleFrame { s with vc := vc } t) :
    CycleFrame s (trigger t) ∧ Triggered s (trigger t) := by
  have hk : DelayKept s { s with vc := vc } := ⟨rfl, rfl, rfl, .inr rfl⟩
  have ht := (hk.trans h.toAnnounces.kept).triggered (trigger_triggered t)
  have f := h.trans (trigger_frame t).toSwitchFrame.cycle
  exact ⟨⟨(cycleKept_of s s.port s.store vc s.hm s.ix.own s.ix.nextNumber rfl hl hv).trans f.toCycleKept,
    ⟨f.station, f.working, f.armed, .inl ht⟩⟩, ht⟩

theorem portCycle_of (s : State) (port : Port) (hp : port.working = s.port.working) :
    CycleFrame s { s with port := port } :=
  cycleFrame_of s port s.store s.vc s.hm s.ix.own s.ix.nextNumber hp rfl rfl rfl rfl

theorem foldl_cycle {α : Type} (f : State → α → State) (hf : ∀ s a, CycleFrame s (f s a)) (l : List α) (s : State) :
    CycleFrame s (l.foldl f s) := by
  induction l generalizing s with
  | nil => exact .refl s
  | cons a l ih => exact (hf s a).trans (ih _)

theorem foldl_switch {α : Type} (f : State → α → State) (hf : ∀ s a, SwitchFrame s (f s a)) (l : List α) (s : State) :
    SwitchFrame s (l.foldl f s) := by
  induction l generalizing s with
  | nil => exact .refl s
  | cons a l ih => exact (hf s a).trans (ih _)

/-! ### The Voltage Controller -/

theorem declareDead_told (l : List StageId) (s : State) : CycleFrame s (declareDead l s) ∧ Triggered s (declareDead l s) := by
  unfold declareDead
  obtain ⟨f, ht⟩ := controlTold_of s { s.vc with deadLine := true, deadRun := 0, restore := 0 } rfl rfl
    (addCause_frame .deadLine _).toSwitchFrame.cycle
  have g (x : State) := (foldl_cycle _ (fun t k => (requestOpen_frame k .deadLine 0 t).cycle) l x).trans
    (chainDeadLine_frame _).toSwitchFrame.cycle
  exact ⟨f.trans (g _), ht.kept (g _).toAnnounces.kept f.toAnnounces.kept⟩

theorem declareDead_frame (l : List StageId) (s : State) : CycleFrame s (declareDead l s) := (declareDead_told l s).1

theorem endDead_told (s : State) : CycleFrame s (endDead s) ∧ Triggered s (endDead s) := by
  unfold endDead
  exact controlTold_of s { s.vc with deadLine := false, deadRun := 0, restore := 0 } rfl rfl
    (removeCause_frame .deadLine _).toSwitchFrame.cycle

theorem endDead_frame (s : State) : CycleFrame s (endDead s) := (endDead_told s).1

theorem deadLineTest_frame (l : List StageId) (s : State) : CycleFrame s (deadLineTest l s) := by
  unfold deadLineTest
  split
  · extract_lets n; split
    · exact endDead_frame s
    · exact controlCycle_of s _ rfl rfl rfl
  · extract_lets n; split
    · exact declareDead_frame l s
    · exact controlCycle_of s _ rfl rfl rfl

theorem fastOpen_frame (l : List StageId) (s : State) : SwitchFrame s (fastOpen l s) := by
  unfold fastOpen
  split
  · exact requestOpen_frame ..
  · exact .refl s

theorem overvoltageWithdraw_frame (s : State) : NoticeFrame s (overvoltageWithdraw s) := by
  unfold overvoltageWithdraw
  split
  · split
    · exact withdraw_frame ..
    · exact .refl s
  · exact .refl s

theorem fastOvTest_frame (l : List StageId) (s : State) : CycleFrame s (fastOvTest l s) := by
  have h (v : Controller) (hl : v.listenIn = s.vc.listenIn) (hv : v.peerSettle = s.vc.peerSettle)
      (hd : v.deadLine = s.vc.deadLine) :
      CycleFrame s (overvoltageWithdraw (fastOpen l { s with vc := v })) :=
    ((controlCycle_of s v hl hv hd).trans (fastOpen_frame ..).cycle).trans (overvoltageWithdraw_frame _).cycle
  unfold fastOvTest
  split
  · split
    · split
      · exact h _ rfl rfl rfl
      · exact controlCycle_of s _ rfl rfl rfl
    · split
      · exact h _ rfl rfl rfl
      · refine CycleFrame.trans ?_ (overvoltageWithdraw_frame _).cycle
        exact controlCycle_of s _ rfl rfl rfl
  · exact controlCycle_of s _ rfl rfl rfl

/-- The raise walk prunes duty lists and does nothing else. -/
theorem raiseWalk_frame (l : List StageId) (s : State) : SwitchFrame s (raiseWalk l s).1 := by
  induction l generalizing s with
  | nil => exact .refl s
  | cons k l ih =>
    unfold raiseWalk
    dsimp only
    split
    · exact prune_frame k s
    · have h := ih (s.prune k)
      revert h
      generalize raiseWalk l (s.prune k) = x
      obtain ⟨a, b, c⟩ := x
      exact fun h => (prune_frame k s).trans h

theorem propose_frame (dir : Direction) (k : StageId) (s : State) : CycleFrame s (propose dir k s) := by
  unfold propose
  dsimp only
  refine CycleFrame.trans ?_ (placeIntent_frame _ _).cycle
  exact cycleFrame_of s s.port s.store _ s.hm _ _ rfl rfl rfl rfl rfl

theorem enterExecuting_frame (k : StageId) (dir : Direction) (n : Nat) (s : State) :
    NoticeFrame s (enterExecuting k dir n s) := by
  unfold enterExecuting
  exact controlFrame_of s _ (by constructor <;> first | rfl | exact .inl rfl)

theorem demandRaise_frame (s : State) : CycleFrame s (demandRaise s) := by
  unfold demandRaise
  have h := (raiseWalk_frame (unblocked s s.ready) s).cycle
  revert h
  generalize raiseWalk (unblocked s s.ready) s = x
  obtain ⟨a, b, c⟩ := x
  intro h
  dsimp only at h ⊢
  split
  · rename_i heq; cases heq
    split
    · exact (h.trans (enterExecuting_frame ..).cycle).trans (issueClose_frame ..).cycle
    · exact h.trans (propose_frame ..)
  · rename_i heq; cases heq; exact h.trans (controlCycle_of _ _ rfl rfl rfl)
  · rename_i heq; cases heq; exact h.trans (controlCycle_of _ _ rfl rfl rfl)

theorem demandLower_frame (s : State) : CycleFrame s (demandLower s) := by
  unfold demandLower
  split
  · split
    · split
      · exact (enterExecuting_frame ..).cycle.trans (actOpen_frame ..).cycle
      · exact controlCycle_of _ _ rfl rfl rfl
    · exact propose_frame ..
  · exact controlCycle_of _ _ rfl rfl rfl

theorem demand_frame (s : State) : CycleFrame s (demand s) := by
  unfold demand
  repeat' split
  all_goals with_reducible first
    | exact demandRaise_frame s
    | exact demandLower_frame s
    | exact controlCycle_of s _ rfl rfl rfl

theorem accumulate_frame (s : State) : CycleFrame s (accumulate s) := by
  unfold accumulate
  split
  · refine CycleFrame.trans ?_ (demand_frame _)
    exact controlCycle_of s _ rfl rfl rfl
  · exact .refl s

theorem controllerCycle_frame (x : Snapshot) (s : State) : CycleFrame s (controllerCycle x s) := by
  unfold controllerCycle
  exact ((deadLineTest_frame ..).trans (fastOvTest_frame ..)).trans (accumulate_frame _)

/-! ### The Harmonic Monitor and the Unbalance Relay -/

theorem monitorKept_of (s : State) (hm : Monitor) : CycleKept s { s with hm := hm } :=
  cycleKept_of s s.port s.store s.vc hm s.ix.own s.ix.nextNumber rfl rfl rfl

/-- The run and shed counts are no part of the station alarm. -/
theorem alarm_of_slots {α : Type} (m : Monitor) (x : Six α) (f : α → SlotAlarm → SlotAlarm)
    (hf : ∀ y a, (f y a).alarm = a.alarm) (run : Nat) :
    Monitor.alarm { m with slots := Six.zipWith f x m.slots, thdRun := run } = m.alarm := by
  simp [Monitor.alarm, Six.zipWith, Six.toList, hf]

/-- A change of the monitor that leaves the station harmonic alarm. -/
theorem monitorFrame_of (s : State) (hm : Monitor) (hh : hm.alarm = s.hm.alarm) : CycleFrame s { s with hm := hm } :=
  cycleFrame_of s s.port s.store s.vc hm s.ix.own s.ix.nextNumber rfl rfl rfl rfl hh

theorem shedTest_frame (l : List StageId) (s : State) : CycleFrame s (shedTest l s) := by
  unfold shedTest
  dsimp only
  split
  · split
    · refine (monitorFrame_of s _ ?_).trans (requestOpen_frame ..).cycle
      exact alarm_of_slots _ _ _ (fun q a => by split <;> rfl) _
    · exact .refl s
  · exact .refl s

/-- R103: a change of the monitor that stands before a notice is announced by it. -/
theorem harmonicNotice_frame (s : State) (hm : Monitor) :
    CycleFrame s (harmonicNotice s.harmAlarm { s with hm := hm }) := by
  unfold harmonicNotice
  split
  · rename_i hb; exact monitorFrame_of s hm hb
  · have f := (trigger_frame { s with hm := hm }).trans (rejudge_frame _)
    exact ⟨(monitorKept_of s hm).trans f.toSwitchFrame.cycle.toCycleKept, ⟨f.station, f.working, f.armed,
      .inl ((trigger_triggered { s with hm := hm }).kept (rejudge_frame _).toAnnounces.kept (trigger_frame _).toAnnounces.kept)⟩⟩

theorem monitorCycle_frame (x : Snapshot) (s : State) : CycleFrame s (monitorCycle x s) := by
  unfold monitorCycle
  split
  · exact .refl s
  · refine ((harmonicNotice_frame s _).trans (monitorFrame_of _ _ ?_)).trans (shedTest_frame ..)
    exact alarm_of_slots _ _ _ (fun sl a => by unfold shedStep; split <;> [rfl; split] <;> rfl) _

theorem relayKept_of (s : State) (ur : Relay) : SwitchKept s { s with ur := ur } :=
  noticeKept_of s s.vc ur s.ix.own s.lc s.oi s.alarm s.healthy (.refl _) (.refl _)

/-- A change of the relay, then events that settle nothing but a capture: the notice that follows announces the alarm. -/
theorem relayNoticed_of (s : State) (ur : Relay) {t : State} (h : NoticeFrame { s with ur := ur } t) :
    NoticeFrame s (unbalanceNotice s.unbAlarm t) :=
  unbalanceNotice_frame ((relayKept_of s ur).trans h.toSwitchKept) ⟨h.stages, h.ready, h.inService⟩
    (h.news.imp ((relayKept_of s ur).delay rfl).triggered fun x => ⟨x.2, x.1.lastOrder⟩)

/-- R129, R130: the settling is a change of the relay and the events of the capture's end. -/
theorem settleCapture_cases (s : State) (trips : StageId → Option Cause) :
    ∃ ur, NoticeFrame { s with ur := ur } (settleCapture s trips) := by
  unfold settleCapture
  split
  · exact ⟨s.ur, .refl s⟩
  · split
    · exact ⟨s.ur, abandonCapture_frame ..⟩
    · split
      · exact ⟨_, captureEnded_frame ..⟩
      · exact ⟨s.ur, .refl s⟩

theorem relayJudge_frame (s : State) : NoticeFrame s (relayJudge s) := by
  obtain ⟨ur, h⟩ := settleCapture_cases { s with ur := ⟨.ofFn fun k => (relayEntry s k).1, captureStep s.store s.ur⟩ }
    fun k => (relayEntry s k).2
  exact relayNoticed_of s ur h

theorem sendTrips_frame (trips : Four (Option Cause)) (s : State) : SwitchFrame s (sendTrips trips s) := by
  unfold sendTrips
  refine foldl_switch _ (fun t k => ?_) _ _
  split
  · exact requestTrip_frame ..
  · exact .refl t

/-! ### The cycle completion -/

theorem evaluate_frame (order : CycleOrder) (s : State) : CycleFrame s (evaluate order s) := by
  unfold evaluate
  refine (relayJudge_frame s).cycle.trans (foldl_cycle _ (fun t b => ?_) _ _)
  unfold evaluateBlock
  split
  · exact controllerCycle_frame ..
  · exact monitorCycle_frame ..
  · exact (sendTrips_frame ..).cycle

theorem storeCycle_of (s : State) (store : Store) (port : Port) (hp : port.working = s.port.working) :
    CycleFrame s { s with store := store, port := port } :=
  cycleFrame_of s port store s.vc s.hm s.ix.own s.ix.nextNumber hp rfl rfl rfl rfl

theorem controllerLost_frame (s : State) : CycleFrame s (controllerLost s) := by
  unfold controllerLost
  exact (addCause_frame .measLost s).cycle.trans (controlCycle_of _ _ rfl rfl rfl)

theorem relayLost_frame (s : State) : NoticeFrame s (relayLost s) := by
  unfold relayLost
  exact relayNoticed_of s _ (.refl _)

theorem lost_alarm (m : Monitor) : m.lost.alarm = m.alarm := by
  simp [Monitor.lost, Monitor.alarm, Six.map, Six.toList]

theorem declareLost_frame (s : State) : CycleFrame s (declareLost s) := by
  unfold declareLost
  dsimp only
  refine CycleFrame.trans ?_ (rejudge_frame _).cycle
  refine CycleFrame.trans ?_ (relayLost_frame _).cycle
  refine CycleFrame.trans ?_ (monitorFrame_of _ _ (lost_alarm _))
  refine CycleFrame.trans ?_ (controllerLost_frame _)
  exact portCycle_of s _ rfl

theorem declareRecovered_frame (s : State) : CycleFrame s (declareRecovered s) := by
  unfold declareRecovered
  exact ((portCycle_of s { s.port with lost := false, recovery := 0 } rfl).trans (removeCause_frame .measLost _).cycle).trans
    (rejudge_frame _).cycle

theorem markedSet_frame (w : SampleSet) (order : CycleOrder) (s : State) : CycleFrame s (markedSet w order s) := by
  have h0 : CycleFrame s { s with port.run := some (newRun s.settings w), port.markTimer := some (markTimeout s.strap) } :=
    portCycle_of s _ rfl
  unfold markedSet
  dsimp only
  split
  · exact h0
  · split
    · refine h0.trans ?_
      unfold acceptCycle
      dsimp only
      split
      · split
        · refine CycleFrame.trans ?_ (evaluate_frame _ _)
          refine CycleFrame.trans ?_ (declareRecovered_frame _)
          exact storeCycle_of _ _ _ rfl
        · exact storeCycle_of _ _ _ rfl
      · refine CycleFrame.trans ?_ (evaluate_frame _ _)
        exact storeCycle_of _ _ _ rfl
    · refine h0.trans ?_
      unfold discardCycle
      dsimp only
      split
      · exact portCycle_of _ _ rfl
      · split
        · refine CycleFrame.trans ?_ (declareLost_frame _)
          exact portCycle_of _ _ rfl
        · exact portCycle_of _ _ rfl

end Sys2Proof.Machine
end

