-- ==== Sys2Proof/Laws/Collections.lean ====
section
/-! SUPPORT. The operations that act on a collection keep its bounds (R133, R139, R146, R175): one lemma for each. -/

namespace Sys2Proof.Machine

theorem collections_of {s t : State} (hs : CollectionsBounded s) (h1 : t.pv = s.pv) (h2 : t.lc.ring = s.lc.ring)
    (h3 : t.lc.working = s.lc.working) (h4 : t.phase = s.phase) (h5 : t.settings = s.settings) : CollectionsBounded t := by
  obtain ⟨a, b, c, d, e, f, g, h, i⟩ := hs
  exact ⟨by rw [h1]; exact a, by rw [h1]; exact b, by rw [h1, h5]; exact c, by rw [h1]; exact d, by rw [h1]; exact e,
    by rw [h1]; exact f, by rw [h2]; exact g, by rw [h1, h2, h3]; exact h, by rw [h3, h4]; exact i⟩

theorem CycleFrame.collections {s t : State} (h : CycleFrame s t) (hs : CollectionsBounded s) : CollectionsBounded t :=
  collections_of hs h.pv h.line.ring h.line.working h.phase h.settings

theorem SwitchFrame.collections {s t : State} (h : SwitchFrame s t) (hs : CollectionsBounded s) : CollectionsBounded t :=
  h.cycle.collections hs

theorem refreshAccess_collections {s : State} (hs : CollectionsBounded s) : CollectionsBounded (refreshAccess s) :=
  (refreshAccess_frame s).toSwitchFrame.collections hs

theorem peerView_collections {t : State} (h : CollectionsBounded t) (pv : PeerView) 
    (a : pv.entries.length ≤ 12) (b : (pv.entries.map Peer.station).Nodup)
    (c : ∀ e ∈ pv.entries, isYard e.station = true ∧ e.station ≠ t.settings.station)
    (d : pv.heard.length ≤ 4) (e : (pv.heard.map Heard.sender).Nodup) (f : pv.panels.length = 8)
    (g : t.lc.working = false → pv.entries = []) : CollectionsBounded { t with pv := pv } :=
  ⟨a, b, c, d, e, f, h.ring, fun hw => ⟨g hw, (h.silent hw).2⟩, h.working⟩

theorem updatePeer_map (n : Nat) (f : Peer → Peer) (hf : ∀ e, (f e).station = e.station) (l : List Peer) :
    (updatePeer n f l).map Peer.station = l.map Peer.station := by
  simp only [updatePeer, List.map_map]
  congr 1
  funext e
  simp only [Function.comp]
  split
  · exact hf e
  · rfl

theorem modPeer_collections {s : State} (hs : CollectionsBounded s) (n) (f : Peer → Peer) (hf : ∀ e, (f e).station = e.station) :
    CollectionsBounded (s.modPeer n f) := by
  unfold State.modPeer
  refine peerView_collections hs { s.pv with entries := updatePeer n f s.pv.entries } ?_ ?_ ?_ hs.heard hs.onePerSender hs.panels ?_
  · simpa [updatePeer] using hs.peers
  · rw [updatePeer_map _ _ hf]; exact hs.onePerStation
  · intro e he
    have : e.station ∈ (updatePeer n f s.pv.entries).map Peer.station := List.mem_map_of_mem he
    rw [updatePeer_map _ _ hf] at this
    obtain ⟨e', he', h⟩ := List.mem_map.1 this
    rw [← h]; exact hs.yards e' he'
  · intro h; simp [updatePeer, (hs.silent h).1]

theorem filterHeard_collections {s : State} (hs : CollectionsBounded s) (p : Heard → Bool) :
    CollectionsBounded { s with pv.heard := s.pv.heard.filter p } := by
  refine peerView_collections hs { s.pv with heard := s.pv.heard.filter p } hs.peers hs.onePerStation hs.yards ?_ ?_ hs.panels ?_
  · exact (List.length_filter_le _ _).trans hs.heard
  · exact hs.onePerSender.sublist (List.filter_sublist.map _)
  · exact fun h => (hs.silent h).1

theorem numberClash_collections {s : State} (hs : CollectionsBounded s) : CollectionsBounded (numberClash s) := by
  unfold numberClash triggerIf
  have h : CollectionsBounded { s with
      pv.clash := some ((s.seconds + 60) % 2 ^ 32)
      lc.stats := { s.lc.stats with clash := satInc 255 s.lc.stats.clash } } :=
    ⟨hs.peers, hs.onePerStation, hs.yards, hs.heard, hs.onePerSender, hs.panels, hs.ring, hs.silent, hs.working⟩
  split
  · exact (trigger_frame _).toSwitchFrame.collections h
  · exact h

theorem judgeYard_collections {s : State} (hs : CollectionsBounded s) (f : Frame) :
    CollectionsBounded (judgeYard f s).1 ∧ (judgeYard f s).1.settings = s.settings ∧ (judgeYard f s).1.lc.working = s.lc.working ∧
    ((judgeYard f s).2 = true → f.sender ≠ s.settings.station) := by
  have h1 : CollectionsBounded (removeHeard f.sender s) := filterHeard_collections hs _
  unfold judgeYard
  split
  · have := numberClash_collections hs
    refine ⟨this, ?_, ?_, by simp⟩
    · unfold numberClash triggerIf trigger; repeat' split
      all_goals rfl
    · unfold numberClash triggerIf trigger; repeat' split
      all_goals rfl
  · rename_i hne
    dsimp only
    refine ⟨?_, ?_, ?_, fun _ => hne⟩
    · split
      · split
        · exact h1
        · exact hs
      · split
        · refine modPeer_collections ?_ _ _ (fun _ => rfl)
          split
          · exact h1
          · exact hs
        · split
          · exact modPeer_collections hs _ _ (fun _ => rfl)
          · exact hs
    · repeat' split
      all_goals rfl
    · repeat' split
      all_goals rfl

theorem panels_set_length (l : List PanelRecord) (i) (x) (h : l.length = 8) : (l.set i x).length = 8 := by simpa using h

theorem judgePanel_collections {s : State} (hs : CollectionsBounded s) (f : Frame) : CollectionsBounded (judgePanel f s).1 := by
  unfold judgePanel; dsimp only; split
  · exact peerView_collections hs { s.pv with panels := _ } hs.peers hs.onePerStation hs.yards hs.heard hs.onePerSender (panels_set_length _ _ _ hs.panels) (fun h => (hs.silent h).1)
  · exact hs

theorem findPeer_none {n l} (h : findPeer n l = none) : n ∉ l.map Peer.station := by
  simp only [findPeer, List.find?_eq_none] at h
  intro hm
  obtain ⟨e, he, rfl⟩ := List.mem_map.1 hm
  simpa using h e he

theorem oldestStale_mem (l : List Peer) (e) (h : oldestStale l = some e) : e ∈ l := by
  unfold oldestStale at h
  have : ∀ (l : List Peer) (b : Option Peer), (l.foldl (fun best e =>
    match best with
    | none => some e
    | some b =>
      if b.ageMs / 100 < e.ageMs / 100 ∨ (b.ageMs / 100 = e.ageMs / 100 ∧ e.station < b.station) then some e
      else some b) b) = some e → b = some e ∨ e ∈ l := by
    intro l
    induction l with
    | nil => intro b h; exact .inl h
    | cons a l ih =>
      intro b h
      rcases ih _ h with h | h
      · cases b with
        | none => simp at h; right; simp [h]
        | some b =>
          dsimp only at h
          split at h
          · right; simp at h; simp [h]
          · left; exact h
      · right; simp [h]
  rcases this _ _ h with h | h
  · cases h
  · exact List.mem_of_mem_filter h

theorem enterPeer_collections {s : State} (hs : CollectionsBounded s) (hw : s.lc.working = true) (e : Peer)
    (h1 : findPeer e.station s.pv.entries = none) (h2 : isYard e.station = true) (h3 : e.station ≠ s.settings.station) :
    CollectionsBounded (enterPeer e s) := by
  have hn := findPeer_none h1
  unfold enterPeer
  split
  · rename_i hl
    refine peerView_collections hs { s.pv with entries := s.pv.entries ++ [e] } ?_ ?_ ?_ hs.heard hs.onePerSender hs.panels (fun h => by simp [hw] at h)
    · simp; omega
    · rw [List.map_append]; exact List.nodup_append.2 ⟨hs.onePerStation, by simp, by
        intro a ha b hb hab; simp at hb; subst hb; subst hab; exact hn ha⟩
    · intro x hx; rcases List.mem_append.1 hx with h | h
      · exact hs.yards x h
      · simp at h; subst h; exact ⟨h2, h3⟩
  · split
    · rename_i old ho
      have hm := oldestStale_mem _ _ ho
      refine peerView_collections hs { s.pv with entries := removePeer old.station s.pv.entries ++ [e], viewFull := false } ?_ ?_ ?_ hs.heard hs.onePerSender hs.panels (fun h => by simp [hw] at h)
      · have : (removePeer old.station s.pv.entries).length < s.pv.entries.length := by
          unfold removePeer
          refine List.length_filter_lt_length_iff_exists.2 ⟨old, hm, by simp⟩
        have := hs.peers
        simp; omega
      · rw [List.map_append]; refine List.nodup_append.2 ⟨hs.onePerStation.sublist (List.filter_sublist.map _), by simp, ?_⟩
        intro a ha b hb hab; simp at hb; subst hb; subst hab
        exact hn ((List.filter_sublist.map _).subset ha)
      · intro x hx; rcases List.mem_append.1 hx with h | h
        · exact hs.yards x (List.mem_of_mem_filter h)
        · simp at h; subst h; exact ⟨h2, h3⟩
    · exact peerView_collections hs { s.pv with viewFull := true } hs.peers hs.onePerStation hs.yards hs.heard hs.onePerSender hs.panels (fun h => (hs.silent h).1)

/-- What stands when an accepted frame of a yard is taken. -/
structure YardAccepted (s : State) (f : Frame) : Prop where
  c : CollectionsBounded s
  w : s.lc.working = true
  y : isYard f.sender = true
  n : f.sender ≠ s.settings.station

theorem takeBulletin_collections {s : State} {f : Frame} (h : YardAccepted s f) : CollectionsBounded (takeBulletin f s) := by
  unfold takeBulletin
  dsimp only
  split
  · exact modPeer_collections h.c _ _ (fun _ => rfl)
  · rename_i hn; exact enterPeer_collections h.c h.w _ hn h.y h.n

theorem takeOutcome_collections {s : State} {f : Frame} (h : YardAccepted s f) : CollectionsBounded (takeOutcome f s) := by
  have h1 : CollectionsBounded (entryOutcome f s) := by
    unfold entryOutcome
    dsimp only
    split
    · exact modPeer_collections h.c _ _ (fun _ => rfl)
    · rename_i hn; exact enterPeer_collections h.c h.w _ hn h.y h.n
  have h2 : CollectionsBounded (settleHeard f.sender (byteAt f.body 0) (entryOutcome f s)) := by
    unfold settleHeard
    split
    · exact h1
    · exact filterHeard_collections h1 _
  unfold takeOutcome peerOutcome
  dsimp only
  have h3 : CollectionsBounded ({ (settleHeard f.sender (byteAt f.body 0) (entryOutcome f s)) with vc.peerSettle := some (ofSeconds (settleHeard f.sender (byteAt f.body 0) (entryOutcome f s)).settings.peerSettle) }) :=
    collections_of h2 rfl rfl rfl rfl rfl
  split
  · split
    · exact (enterQuiet_frame _).toSwitchFrame.collections h3
    · split
      · split
        · exact (withdraw_frame ..).toSwitchFrame.collections h3
        · exact h3
      · exact h3
    · exact h3
  · exact h2

theorem recordIntent_ok (h : Heard) (l : List Heard) (h1 : l.length ≤ 4) (h2 : (l.map Heard.sender).Nodup) :
    (recordIntent h l).length ≤ 4 ∧ ((recordIntent h l).map Heard.sender).Nodup := by
  unfold recordIntent
  have hk : (l.filter fun x => x.sender ≠ h.sender).length ≤ l.length := List.length_filter_le _ _
  have hsub : ∀ l' : List Heard, l'.Sublist (l.filter fun x => x.sender ≠ h.sender) → ((l' ++ [h]).map Heard.sender).Nodup := by
    intro l' hl'
    rw [List.map_append]
    refine List.nodup_append.2 ⟨h2.sublist ((hl'.trans List.filter_sublist).map _), by simp, ?_⟩
    intro a ha b hb hab
    simp at hb; subst hb; subst hab
    obtain ⟨x, hx, hxs⟩ := List.mem_map.1 ha
    have := List.of_mem_filter (hl'.subset hx)
    simp [hxs] at this
  dsimp only
  split
  · rename_i hc
    refine ⟨by simp only [List.length_append, List.length_drop, List.length_singleton]; omega, hsub _ (List.drop_sublist _ _)⟩
  · rename_i hc
    refine ⟨?_, hsub _ (List.Sublist.refl _)⟩
    simp only [List.length_append, List.length_singleton]
    rcases Nat.lt_or_ge (l.filter fun x => decide (x.sender ≠ h.sender)).length 4 with h4 | h4
    · omega
    · exact absurd ⟨Nat.le_antisymm hk (by omega), by omega⟩ hc

theorem takeIntent_collections {s : State} {f : Frame} (h : YardAccepted s f) : CollectionsBounded (takeIntent f s) := by
  unfold takeIntent
  dsimp only
  have h1 : CollectionsBounded (s.modPeer f.sender fun e => { e.fresh with position := (heardOf f s.tenths).position }) :=
    modPeer_collections h.c _ _ (fun _ => rfl)
  split
  · exact h1
  · have := recordIntent_ok (heardOf f s.tenths) _ h1.heard h1.onePerSender
    have h2 := peerView_collections h1 { (s.modPeer f.sender fun e => { e.fresh with position := (heardOf f s.tenths).position }).pv with heard := recordIntent (heardOf f s.tenths) (s.modPeer f.sender fun e => { e.fresh with position := (heardOf f s.tenths).position }).pv.heard }
      h1.peers h1.onePerStation h1.yards this.1 this.2 h1.panels (fun hw => (h1.silent hw).1)
    unfold judgePrecedence
    split
    · exact h2
    · split
      · exact (withdraw_frame ..).toSwitchFrame.collections h2
      · exact h2

theorem freeHead_collections {s : State} (hs : CollectionsBounded s) : CollectionsBounded (freeHead s) := by
  refine ⟨hs.peers, hs.onePerStation, hs.yards, hs.heard, hs.onePerSender, hs.panels, ?_, ?_, hs.working⟩
  · have := hs.ring; simp [freeHead]; omega
  · intro h; have := hs.silent h; simp [freeHead, this]

theorem takeHead_collections {s : State} (hs : CollectionsBounded s) (w : Taken) (act : Frame → State → State)
   (h : ∀ f, s.head w = some f → CollectionsBounded (act f s)) : CollectionsBounded (takeHead w act s) := by
  unfold takeHead
  split
  · exact freeHead_collections (h _ (by assumption))
  · exact hs

theorem head_yard {s : State} {w : Taken} {f : Frame} (hs : CollectionsBounded s) (h : s.head w = some f) (hw : w ∈ [Taken.bulletin, .outcome, .intent, .detail]) :
    isYard f.sender = true ∧ s.lc.working = true := by
  unfold State.head at h
  constructor
  · split at h
    · cases h
    · split at h
      · rename_i hc
        unfold classify at hc
        rw [h] at hc
        dsimp only at hc
        split at hc
        · assumption
        · split at hc
          · split at hc <;> simp [← hc] at hw
          · simp [← hc] at hw
      · cases h
  · cases hwk : s.lc.working
    · rw [(hs.silent hwk).2] at h; cases h
    · rfl

theorem takeYard_collections {s : State} (hs : CollectionsBounded s) (w : Taken) (hw : w ∈ [Taken.bulletin, .outcome, .intent, .detail])
   (take : Frame → State → State) (h : ∀ f t, YardAccepted t f → CollectionsBounded (take f t)) : CollectionsBounded (takeHead w (takeYard take) s) := by
  refine takeHead_collections hs w _ fun f hf => ?_
  have hy := head_yard hs hf hw
  unfold takeYard
  have := judgeYard_collections hs f
  split
  · rename_i s1 he; rw [he] at this
    exact h _ _ ⟨this.1, by rw [this.2.2.1]; exact hy.2, hy.1, by rw [this.2.1]; exact this.2.2.2 rfl⟩
  · rename_i s1 he; rw [he] at this; exact this.1

theorem takePanel_collections (serve : Order → State → State) (h : ∀ o t, CollectionsBounded t → CollectionsBounded (serve o t)) (f : Frame) {s : State} (hs : CollectionsBounded s) :
   CollectionsBounded (takePanel serve f s) := by
  unfold takePanel
  have := judgePanel_collections hs f
  split
  · rename_i s1 he; rw [he] at this
    unfold judgeOrder
    split
    · split
      · split
        · exact h _ _ this
        · exact (refuseOrder_frame ..).toSwitchFrame.collections this
      · exact (refuseOrder_frame ..).toSwitchFrame.collections this
    · exact this
  · rename_i s1 he; rw [he] at this; exact this

theorem takeOrder_collections (n : Nat) (serve : Order → State → State) (h : ∀ o t, CollectionsBounded t → CollectionsBounded (serve o t)) {s : State} (hs : CollectionsBounded s) :
   CollectionsBounded (takeOrder n serve s) := takeHead_collections hs _ _ fun f _ => takePanel_collections serve h f hs

theorem cleared_collections_of {t : State} (h1 : t.pv.entries = []) (h2 : t.pv.heard = []) (h3 : t.pv.panels.length = 8) (h4 : t.lc.ring = [])
   (h5 : t.lc.working = false) : CollectionsBounded t :=
  ⟨by simp [h1], by simp [h1], by simp [h1], by simp [h2], by simp [h2], h3, by simp [h4], fun _ => ⟨h1, h4⟩, by simp [h5]⟩

theorem cleared_collections (s : State) : CollectionsBounded (cleared s) := cleared_collections_of rfl rfl rfl rfl rfl
theorem beginStart_collections (st) (s : State) : CollectionsBounded (beginStart st s) := cleared_collections_of rfl rfl rfl rfl rfl

theorem notWorking_of_collections {s : State} (hs : CollectionsBounded s) (h : s.phase ≠ .running) : s.lc.working = false := by
  cases hw : s.lc.working
  · rfl
  · exact absurd (hs.working hw) h

theorem unstarted_collections {s t : State} (hs : CollectionsBounded s) (h : s.phase ≠ .running) (h1 : t.pv = s.pv) (h2 : t.lc.ring = s.lc.ring)
    (h3 : t.lc.working = s.lc.working)  : CollectionsBounded t := by
  have hw := notWorking_of_collections hs h
  have := hs.silent hw
  exact ⟨by rw [h1]; exact hs.peers, by rw [h1]; exact hs.onePerStation, by rw [h1, this.1]; simp, by rw [h1]; exact hs.heard, by rw [h1]; exact hs.onePerSender, by rw [h1]; exact hs.panels, by rw [h2]; exact hs.ring, by rw [h1, h2]; exact fun _ => this, by rw [h3, hw]; simp⟩

theorem isReading_ne {s : State} (h : s.isReading = true) : s.phase ≠ .running := by
  intro hp; simp [State.isReading, hp] at h


theorem completeFrame_collections {s : State} (hs : CollectionsBounded s) (hw : s.lc.working = true) (n a l) (h1 : l.ring = s.lc.ring) (h2 : l.working = s.lc.working) :
    CollectionsBounded { s with lc := completeFrame n a l } := by
  have hr := hs.ring
  refine ⟨hs.peers, hs.onePerStation, hs.yards, hs.heard, hs.onePerSender, hs.panels, ?_, ?_, ?_⟩
  · dsimp only; unfold completeFrame; dsimp only; split
    · split
      · rename_i h; simp; rw [h1] at h ⊢; omega
      · dsimp only; rw [h1]; omega
    · dsimp only; rw [h1]; omega
  · dsimp only; unfold completeFrame; dsimp only; repeat' split
    all_goals (dsimp only; rw [h2, hw]; simp)
  · intro _; exact hs.working hw

end Sys2Proof.Machine
end

