-- ==== Sys2Proof/Laws/Accumulators.lean ====
section
/-! SUPPORT. The operations on the accumulators LOW and HIGH (R78, R79): who leaves them kept or 0, and that an update keeps
their bounds. -/

namespace Sys2Proof.Machine

/-- What every event but an update leaves of the accumulators: each is kept or becomes 0 (R79). -/
structure AccKept (s t : State) : Prop where
  low : t.vc.low = s.vc.low ∨ t.vc.low = 0
  high : t.vc.high = s.vc.high ∨ t.vc.high = 0
  w : t.port.working = s.port.working
  p : t.phase = s.phase
  c : t.settings = s.settings

theorem AccKept.refl (s) : AccKept s s := ⟨.inl rfl, .inl rfl, rfl, rfl, rfl⟩
theorem AccKept.trans {s t u} (h : AccKept s t) (g : AccKept t u) : AccKept s u :=
  ⟨kept_or_zero h.low g.low, kept_or_zero h.high g.high, g.w.trans h.w, g.p.trans h.p, g.c.trans h.c⟩
theorem SwitchFrame.accKept {s t} (h : SwitchFrame s t) : AccKept s t := ⟨h.control.low, h.control.high, by rw [h.port], h.phase, h.settings⟩
theorem AccKept.accumulators {s t} (h : AccKept s t) (hs : AccumulatorsBounded s) : AccumulatorsBounded t := by
  have := hs.low; have := hs.high; have := hs.one; have h1 := h.low; have h2 := h.high
  refine ⟨?_, ?_, ?_, ?_, ?_⟩
  · rw [h.c]; omega
  · rw [h.c]; omega
  · omega
  · rw [h.w]; intro hw; have := hs.before hw; omega
  · rw [h.w, h.p]; exact hs.working

theorem accKept_of {s t : State} (h1 : t.vc.low = s.vc.low) (h2 : t.vc.high = s.vc.high) (h3 : t.port.working = s.port.working) (h4 : t.phase = s.phase) (h5 : t.settings = s.settings) : AccKept s t := ⟨.inl h1, .inl h2, h3, h4, h5⟩

theorem accumulators_of {s t : State} (hs : AccumulatorsBounded s) (h1 : t.vc.low = s.vc.low) (h2 : t.vc.high = s.vc.high)
    (h3 : t.port.working = s.port.working) (h4 : t.phase = s.phase) (h5 : t.settings = s.settings) :
    AccumulatorsBounded t := (accKept_of h1 h2 h3 h4 h5).accumulators hs

theorem foldl_accKept {α : Type} (f : State → α → State) (hf : ∀ s a, AccKept s (f s a)) (l : List α) (s : State) : AccKept s (l.foldl f s) := by
  induction l generalizing s with
  | nil => exact .refl s
  | cons a l ih => exact (hf s a).trans (ih _)

theorem declareDead_accKept (l) (s) : AccKept s (declareDead l s) := by
  unfold declareDead
  refine AccKept.trans ?_ (chainDeadLine_frame _).toSwitchFrame.accKept
  refine AccKept.trans ?_ (foldl_accKept _ (fun t k => (requestOpen_frame k .deadLine 0 t).accKept) _ _)
  refine AccKept.trans ?_ (trigger_frame _).toSwitchFrame.accKept
  refine AccKept.trans ?_ (addCause_frame ..).toSwitchFrame.accKept
  exact accKept_of rfl rfl rfl rfl rfl
theorem endDead_accKept (s) : AccKept s (endDead s) := by
  unfold endDead
  refine AccKept.trans ?_ (trigger_frame _).toSwitchFrame.accKept
  refine AccKept.trans ?_ (removeCause_frame ..).toSwitchFrame.accKept
  exact accKept_of rfl rfl rfl rfl rfl
theorem deadLineTest_accKept (l s) : AccKept s (deadLineTest l s) := by
  unfold deadLineTest
  split
  · extract_lets n; split
    · exact endDead_accKept s
    · exact accKept_of rfl rfl rfl rfl rfl
  · extract_lets n; split
    · exact declareDead_accKept l s
    · exact accKept_of rfl rfl rfl rfl rfl
theorem fastOvTest_accKept (l s) : AccKept s (fastOvTest l s) := by
  unfold fastOvTest
  repeat' split
  · refine AccKept.trans ?_ (overvoltageWithdraw_frame _).toSwitchFrame.accKept
    refine AccKept.trans ?_ (fastOpen_frame _ _).accKept
    exact accKept_of rfl rfl rfl rfl rfl
  · exact accKept_of rfl rfl rfl rfl rfl
  · refine AccKept.trans ?_ (overvoltageWithdraw_frame _).toSwitchFrame.accKept
    refine AccKept.trans ?_ (fastOpen_frame _ _).accKept
    exact accKept_of rfl rfl rfl rfl rfl
  · refine AccKept.trans ?_ (overvoltageWithdraw_frame _).toSwitchFrame.accKept
    exact accKept_of rfl rfl rfl rfl rfl
  · exact accKept_of rfl rfl rfl rfl rfl

theorem propose_accKept (d k) (s) : AccKept s (propose d k s) := by
  unfold propose
  dsimp only
  refine AccKept.trans ?_ (placeIntent_frame _ _).toSwitchFrame.accKept
  exact accKept_of rfl rfl rfl rfl rfl

theorem demandRaise_accKept (s) : AccKept s (demandRaise s) := by
  unfold demandRaise
  have h := (raiseWalk_frame (unblocked s s.ready) s).accKept
  revert h
  generalize raiseWalk (unblocked s s.ready) s = x
  obtain ⟨a, b, c⟩ := x
  intro h
  dsimp only at h ⊢
  split
  · rename_i heq; cases heq
    split
    · exact (h.trans (enterExecuting_frame ..).toSwitchFrame.accKept).trans (issueClose_frame ..).accKept
    · exact h.trans (propose_accKept ..)
  · rename_i heq; cases heq; exact h.trans (accKept_of rfl rfl rfl rfl rfl)
  · rename_i heq; cases heq; exact h.trans (accKept_of rfl rfl rfl rfl rfl)
theorem demandLower_accKept (s) : AccKept s (demandLower s) := by
  unfold demandLower
  split
  · split
    · split
      · exact (enterExecuting_frame ..).toSwitchFrame.accKept.trans (actOpen_frame ..).accKept
      · exact accKept_of rfl rfl rfl rfl rfl
    · exact propose_accKept ..
  · exact accKept_of rfl rfl rfl rfl rfl
theorem demand_accKept (s) : AccKept s (demand s) := by
  unfold demand
  repeat' split
  all_goals with_reducible first
    | exact demandRaise_accKept s
    | exact demandLower_accKept s
    | exact accKept_of rfl rfl rfl rfl rfl

theorem accumulate_accumulators (s) (h : AccumulatorsBounded s) (hw : s.port.working = true) : AccumulatorsBounded (accumulate s) := by
  unfold accumulate
  split
  · dsimp only
    refine (demand_accKept _).accumulators ?_
    have := h.low; have := h.high; have h1 := h.one
    have : ∀ v, let x := updateAccumulators s.settings v s.vc.low s.vc.high; x.1 ≤ s.settings.threshold ∧ x.2 ≤ s.settings.threshold ∧ (x.1 = 0 ∨ x.2 = 0) := by
      intro v
      unfold updateAccumulators
      split
      · simp
      · split
        · simp
        · dsimp only; omega
    have := this s.store.vctl
    exact ⟨this.1, this.2.1, this.2.2, fun h => (by simp [hw] at h), h.working⟩
  · exact h

theorem AccKept.working (s t : State) (h : AccKept s t) (hw : s.port.working = true) : t.port.working = true := by rw [h.w]; exact hw

theorem monitorCycle_accKept (x s) : AccKept s (monitorCycle x s) := by
  unfold monitorCycle shedTest
  dsimp only
  split
  · exact .refl s
  · have h1 : AccKept s (harmonicNotice s.harmAlarm { s with hm := monitorAlarms s.settings s.store s.hm }) := by
      have h0 : AccKept s { s with hm := monitorAlarms s.settings s.store s.hm } := accKept_of rfl rfl rfl rfl rfl
      unfold harmonicNotice
      split
      · exact h0
      · exact h0.trans ((trigger_frame _).trans (rejudge_frame _)).toSwitchFrame.accKept
    refine h1.trans ?_
    generalize harmonicNotice s.harmAlarm { s with hm := monitorAlarms s.settings s.store s.hm } = u
    split
    · split
      · refine AccKept.trans ?_ (requestOpen_frame _ _ _ _).accKept
        exact accKept_of rfl rfl rfl rfl rfl
      · exact accKept_of rfl rfl rfl rfl rfl
    · exact accKept_of rfl rfl rfl rfl rfl

theorem relayJudge_accKept (s) : AccKept s (relayJudge s) := (relayJudge_frame s).toSwitchFrame.accKept

theorem sendTrips_accKept (trips) (s) : AccKept s (sendTrips trips s) := (sendTrips_frame trips s).accKept

theorem evaluateBlock_accumulators (x) (s) (b) (h : AccumulatorsBounded s) (hw : s.port.working = true) : AccumulatorsBounded (evaluateBlock x s b) ∧ (evaluateBlock x s b).port.working = true := by
  unfold evaluateBlock
  split
  · unfold controllerCycle
    have h1 := (deadLineTest_accKept x.live s).trans (fastOvTest_accKept x.inService _)
    have hw' := AccKept.working _ _ h1 hw
    exact ⟨accumulate_accumulators _ (h1.accumulators h) hw', by rw [(accumulate_frame _).portWorking]; exact hw'⟩
  · exact ⟨(monitorCycle_accKept ..).accumulators h, AccKept.working _ _ (monitorCycle_accKept x s) hw⟩
  · exact ⟨(sendTrips_accKept ..).accumulators h, AccKept.working _ _ (sendTrips_accKept _ s) hw⟩

theorem evaluate_accumulators (o) (s) (h : AccumulatorsBounded s) (hw : s.port.working = true) : AccumulatorsBounded (evaluate o s) := by
  unfold evaluate
  generalize snapshot s = x
  have : ∀ (l : List CycleBlock) (s : State), AccumulatorsBounded s → s.port.working = true → AccumulatorsBounded (l.foldl (evaluateBlock x) s) := by
    intro l
    induction l with
    | nil => intro s h _; exact h
    | cons b l ih => intro s h hw; exact ih _ (evaluateBlock_accumulators x s b h hw).1 (evaluateBlock_accumulators x s b h hw).2
  exact this _ _ ((relayJudge_accKept s).accumulators h) (AccKept.working _ _ (relayJudge_accKept s) hw)

theorem declareLost_accKept (s) : AccKept s (declareLost s) := by
  unfold declareLost controllerLost
  dsimp only
  refine AccKept.trans ?_ (rejudge_frame _).toSwitchFrame.accKept
  refine AccKept.trans ?_ (relayLost_frame _).toSwitchFrame.accKept
  refine AccKept.trans (t := addCause .measLost { s with port.lost := true, port.recovery := 0 }) ?_ (accKept_of rfl rfl rfl rfl rfl)
  refine AccKept.trans ?_ (addCause_frame ..).toSwitchFrame.accKept
  exact accKept_of rfl rfl rfl rfl rfl

theorem declareRecovered_accKept (s) : AccKept s (declareRecovered s) := by
  unfold declareRecovered
  refine AccKept.trans ?_ (rejudge_frame _).toSwitchFrame.accKept
  refine AccKept.trans ?_ (removeCause_frame ..).toSwitchFrame.accKept
  exact accKept_of rfl rfl rfl rfl rfl

theorem markedSet_accumulators (w o s) (h : AccumulatorsBounded s) (hw : s.port.working = true) : AccumulatorsBounded (markedSet w o s) := by
  unfold markedSet
  dsimp only
  split
  · exact accumulators_of h rfl rfl rfl rfl rfl
  · split
    · unfold acceptCycle; dsimp only
      split
      · split
        · refine evaluate_accumulators _ _ ((declareRecovered_accKept _).accumulators ((by exact accumulators_of h rfl rfl rfl rfl rfl))) ?_
          rw [(declareRecovered_accKept _).w]; exact hw
        · exact accumulators_of h rfl rfl rfl rfl rfl
      · exact evaluate_accumulators _ _ ((by exact accumulators_of h rfl rfl rfl rfl rfl)) hw
    · unfold discardCycle; dsimp only
      split
      · exact accumulators_of h rfl rfl rfl rfl rfl
      · split
        · exact (declareLost_accKept _).accumulators ((by exact accumulators_of h rfl rfl rfl rfl rfl))
        · exact accumulators_of h rfl rfl rfl rfl rfl

theorem zero_accumulators {t : State} (h1 : t.vc.low = 0) (h2 : t.vc.high = 0) (h3 : t.port.working = true → t.phase = .running) : AccumulatorsBounded t :=
  ⟨by omega, by omega, by omega, fun _ => ⟨h1, h2⟩, h3⟩

theorem notWorking_of_accumulators {s : State} (hs : AccumulatorsBounded s) (h : s.phase ≠ .running) : s.port.working = false := by
  cases hw : s.port.working
  · rfl
  · exact absurd (hs.working hw) h

theorem takeHead_accKept (s) (w : Taken) (act : Frame → State → State)
   (h : ∀ f s, AccKept s (act f s)) : AccKept s (takeHead w act s) := by
  unfold takeHead
  split
  · exact (h _ _).trans (accKept_of rfl rfl rfl rfl rfl)
  · exact .refl s

theorem numberClash_accKept (s) : AccKept s (numberClash s) := by
  unfold numberClash triggerIf
  split
  · refine AccKept.trans ?_ (trigger_frame _).toSwitchFrame.accKept
    exact accKept_of rfl rfl rfl rfl rfl
  · exact accKept_of rfl rfl rfl rfl rfl

theorem judgeYard_accKept (f) (s) : AccKept s (judgeYard f s).1 := by
  unfold judgeYard
  split
  · exact numberClash_accKept s
  · dsimp only
    repeat' split
    all_goals exact accKept_of rfl rfl rfl rfl rfl
theorem judgePanel_accKept (f) (s) : AccKept s (judgePanel f s).1 := by
  unfold judgePanel
  dsimp only
  repeat' split
  all_goals exact accKept_of rfl rfl rfl rfl rfl
theorem takeYard_accKept (take) (h : ∀ f s, AccKept s (take f s)) (f s) : AccKept s (takeYard take f s) := by
  unfold takeYard
  have := judgeYard_accKept f s
  split
  · rename_i he; rw [he] at this; exact this.trans (h _ _)
  · rename_i he; rw [he] at this; exact this
theorem takePanel_accKept (serve) (h : ∀ f s, AccKept s (serve f s)) (f s) : AccKept s (takePanel serve f s) := by
  unfold takePanel
  have := judgePanel_accKept f s
  split
  · rename_i he; rw [he] at this; refine this.trans ?_
    unfold judgeOrder
    repeat' split
    · exact h _ _
    · exact (refuseOrder_frame ..).toSwitchFrame.accKept
    · exact (refuseOrder_frame ..).toSwitchFrame.accKept
    · exact .refl _
  · rename_i he; rw [he] at this; exact this

theorem enterPeer_accKept (e s) : AccKept s (enterPeer e s) := by
  unfold enterPeer; repeat' split
  all_goals exact accKept_of rfl rfl rfl rfl rfl

theorem takeBulletin_accKept (f s) : AccKept s (takeBulletin f s) := by
  unfold takeBulletin; dsimp only; split
  · exact accKept_of rfl rfl rfl rfl rfl
  · exact enterPeer_accKept _ _
theorem takeOutcome_accKept (f s) : AccKept s (takeOutcome f s) := by
  unfold takeOutcome
  have h1 : AccKept s (entryOutcome f s) := by
    unfold entryOutcome; dsimp only; split
    · exact accKept_of rfl rfl rfl rfl rfl
    · exact enterPeer_accKept _ _
  have h2 : ∀ a b s, AccKept s (settleHeard a b s) := by
    intro a b s; unfold settleHeard; split
    · exact .refl s
    · exact accKept_of rfl rfl rfl rfl rfl
  dsimp only
  refine (h1.trans (h2 f.sender (byteAt f.body 0) _)).trans ?_
  unfold peerOutcome
  dsimp only
  split
  · split
    · refine AccKept.trans ?_ (enterQuiet_frame _).toSwitchFrame.accKept
      exact accKept_of rfl rfl rfl rfl rfl
    · split
      · split
        · refine AccKept.trans ?_ (withdraw_frame _ _).toSwitchFrame.accKept
          exact accKept_of rfl rfl rfl rfl rfl
        · exact accKept_of rfl rfl rfl rfl rfl
      · exact accKept_of rfl rfl rfl rfl rfl
    · exact accKept_of rfl rfl rfl rfl rfl
  · exact .refl _
theorem takeIntent_accKept (f s) : AccKept s (takeIntent f s) := by
  unfold takeIntent judgePrecedence
  dsimp only
  repeat' split
  · exact accKept_of rfl rfl rfl rfl rfl
  · exact accKept_of rfl rfl rfl rfl rfl
  · refine AccKept.trans ?_ (withdraw_frame _ _).toSwitchFrame.accKept
    exact accKept_of rfl rfl rfl rfl rfl
  · exact accKept_of rfl rfl rfl rfl rfl

theorem refreshAccess_accKept (s) : AccKept s (refreshAccess s) := (refreshAccess_frame s).toSwitchFrame.accKept

end Sys2Proof.Machine
end

