-- ==== Sys2Proof/Laws/Stages.lean ====
section
/-! SUPPORT. The operations of the Stage Supervisor keep its invariant, one lemma for each. -/

namespace Sys2Proof.Machine

/-- What leaves the stage records alone keeps the invariant. -/
theorem NoticeFrame.safe {s t : State} (h : NoticeFrame s t) (hs : StagesSafe s) : StagesSafe t where
  each k := by rw [h.phase, h.stage]; exact hs.each k
  lists := by
    refine ⟨fun k => ?_, fun k => ?_, ?_, ?_⟩
    · rw [h.ready, h.stage]; exact hs.lists.ready k
    · rw [h.inService, h.stage]; exact hs.lists.inService k
    · rw [h.ready]; exact hs.lists.readyOnce
    · rw [h.inService]; exact hs.lists.inServiceOnce
  configured k hk := by
    rw [h.stage] at hk
    simpa only [State.configured, h.settings] using hs.configured k hk
  oneClosing j k hj hk := by rw [h.stage] at hj hk; exact hs.oneClosing j k hj hk

/-! ### Lists (R48) -/

theorem mem_relist (here : StageState) (k j : StageId) (old new : StageState) (l : List StageId) :
    j ∈ relist here k old new l ↔ (if j = k ∧ (old = here ∨ new = here) then new = here else j ∈ l) := by
  unfold relist
  by_cases ho : old = here <;> by_cases hn : new = here <;> by_cases hj : j = k <;> simp [ho, hn, hj]

theorem nodup_relist (here : StageState) (k : StageId) (old new : StageState) (l : List StageId)
    (h : l.Nodup) (hk : k ∈ l → old = here) : (relist here k old new l).Nodup := by
  have hf : (if old = here then l.filter (· ≠ k) else l).Nodup := by
    split
    · exact h.filter _
    · exact h
  unfold relist
  dsimp only
  split
  · refine List.nodup_append.2 ⟨hf, List.nodup_singleton k, ?_⟩
    intro a ha b hb hab
    simp only [List.mem_singleton] at hb
    subst hb; subst hab
    split at ha
    · simp at ha
    · rename_i hne; exact hne (hk ha)
  · exact hf

/-! ### One stage changes -/

/-- A change of one record that keeps its state. -/
theorem modStage_safe {s : State} (hs : StagesSafe s) (k : StageId) (f : Stage → Stage)
    (hst : (f (s.stage k)).state = (s.stage k).state) (hf : StageSafe s.phase (f (s.stage k))) :
    StagesSafe (s.modStage k f) := by
  have hstate : ∀ j, ((s.modStage k f).stage j).state = (s.stage j).state := fun j => by
    by_cases h : j = k
    · subst h; simpa using hst
    · rw [modStage_stage_ne s f h]
  refine ⟨fun j => ?_, ⟨fun j => ?_, fun j => ?_, hs.lists.readyOnce, hs.lists.inServiceOnce⟩, fun j hj => ?_,
    fun i j hi hj => ?_⟩
  · by_cases h : j = k
    · subst h; simpa using hf
    · rw [modStage_stage_ne s f h]; exact hs.each j
  · rw [hstate]; exact hs.lists.ready j
  · rw [hstate]; exact hs.lists.inService j
  · rw [hstate] at hj; exact hs.configured j hj
  · rw [hstate] at hi hj; exact hs.oneClosing i j hi hj

/-- A change of one record and of its state, with its notice. -/
theorem changeStage_safe {s : State} (hs : StagesSafe s) (k : StageId) (f : Stage → Stage) (new : StageState)
    (hst : (f (s.stage k)).state = (s.stage k).state) (h0 : (s.stage k).state ≠ .absent)
    (hc : new = .closing → ∀ j, (s.stage j).state ≠ .closing)
    (hf : StageSafe s.phase ((f (s.stage k)).moved new)) : StagesSafe (changeStage k new (s.modStage k f)) := by
  refine (stageNotice_frame ..).safe ?_
  have hne : ∀ j, j ≠ k → ((s.modStage k f).moveStage k new).stage j = s.stage j := fun j h => by
    rw [moveStage_others _ k new j h, modStage_stage_ne s f h]
  have hold : ((s.modStage k f).stage k).state = (s.stage k).state := by simpa using hst
  refine ⟨fun j => ?_, ⟨fun j => ?_, fun j => ?_, ?_, ?_⟩, fun j hj => ?_, fun i j hi hj => ?_⟩
  · by_cases h : j = k
    · subst h; simpa using hf
    · rw [hne j h]; exact hs.each j
  · by_cases h : j = k
    · subst h
      simp only [moveStage_ready, mem_relist, hold, moveStage_stage, moved_state, modStage_ready, true_and]
      by_cases h1 : (s.stage j).state = .ready <;> by_cases h2 : new = .ready <;> simp [h1, h2, hs.lists.ready j]
    · rw [hne j h]; simp [mem_relist, h, hs.lists.ready j]
  · by_cases h : j = k
    · subst h
      simp only [moveStage_inService, mem_relist, hold, moveStage_stage, moved_state, modStage_inService, true_and]
      by_cases h1 : (s.stage j).state = .closed <;> by_cases h2 : new = .closed <;> simp [h1, h2, hs.lists.inService j]
    · rw [hne j h]; simp [mem_relist, h, hs.lists.inService j]
  · simp only [moveStage_ready, hold]
    exact nodup_relist _ _ _ _ _ hs.lists.readyOnce (hs.lists.ready k).1
  · simp only [moveStage_inService, hold]
    exact nodup_relist _ _ _ _ _ hs.lists.inServiceOnce (hs.lists.inService k).1
  · by_cases h : j = k
    · subst h; exact hs.configured j h0
    · rw [hne j h] at hj; exact hs.configured j hj
  · by_cases h : i = k <;> by_cases h' : j = k
    · rw [h, h']
    · subst h
      rw [hne j h'] at hj
      exact absurd hj (hc (by simpa using hi) j)
    · subst h'
      rw [hne i h] at hi
      exact absurd hi (hc (by simpa using hj) i)
    · rw [hne i h] at hi; rw [hne j h'] at hj; exact hs.oneClosing i j hi hj

/-- A change of a state with no other change of the record. -/
theorem changeStage_safe' {s : State} (hs : StagesSafe s) (k : StageId) (new : StageState)
    (h0 : (s.stage k).state ≠ .absent) (hc : new ≠ .closing)
    (hf : StageSafe s.phase ((s.stage k).moved new)) : StagesSafe (changeStage k new s) := by
  have h := changeStage_safe hs k id new rfl h0 (fun h => absurd h hc) hf
  simpa [State.modStage] using h

/-- A stage whose state is not ABSENT speaks of a running part. -/
theorem StageSafe.running {p : Phase} {r : Stage} (h : StageSafe p r) (hst : r.state ≠ .absent) : p = .running := by
  by_contra hp; exact hst (h.start hp)

/-- In a running part the outputs follow the state. -/
theorem StageSafe.outputs_off {r : Stage} (h : StageSafe .running r) (h1 : r.state ≠ .closing)
    (h2 : r.state ≠ .opening) : r.closeOut = false ∧ r.openOut = false := by
  refine ⟨?_, ?_⟩
  · cases hc : r.closeOut
    · rfl
    · exact absurd (h.closeOut hc) h1
  · cases hc : r.openOut
    · rfl
    · rcases h.openOut hc with h | h
      · exact absurd h h2
      · cases h

theorem moved_op (new : StageState) (r : Stage) :
    (r.moved new).op = if new = .closing ∨ new = .opening then r.op else none := rfl

/-- A record at rest in a state other than READY, CLOSING, OPENING. -/
theorem stageSafe_rest {r : Stage} (new : StageState) (hc : r.closeOut = false) (ho : r.openOut = false)
    (h1 : new ≠ .closing) (h2 : new ≠ .opening) (h3 : new = .ready → r.discharge = 0) :
    StageSafe .running (r.moved new) where
  closeOut h := by simp [hc] at h
  openOut h := by simp [ho] at h
  oper := by simp [moved_op, h1, h2]
  rested := by simpa using h3
  start h := absurd rfl h

theorem stageSafe_opening {r : Stage} (hc : r.closeOut = false) (hop : r.op.isSome = true) :
    StageSafe .running (r.moved .opening) where
  closeOut h := by simp [hc] at h
  openOut _ := .inl rfl
  oper := by simp [moved_op, hop]
  rested h := by simp at h
  start h := absurd rfl h

theorem stageSafe_closing {r : Stage} (ho : r.openOut = false) (hop : r.op.isSome = true) :
    StageSafe .running (r.moved .closing) where
  closeOut _ := rfl
  openOut h := by simp [ho] at h
  oper := by simp [moved_op, hop]
  rested h := by simp at h
  start h := absurd rfl h

/-! ### Opens -/

theorem completeOpen_safe {s : State} (hs : StagesSafe s) (k : StageId) (op : Operation) (timed : Bool)
    (h : (s.stage k).state = .opening) : StagesSafe (completeOpen k op timed s) := by
  have hp := (hs.each k).running (by simp [h])
  have hc : (s.stage k).closeOut = false := by
    cases hc : (s.stage k).closeOut
    · rfl
    · have := (hs.each k).closeOut hc; simp [h] at this
  unfold completeOpen
  refine (report_frame ..).safe (changeStage_safe hs k _ _ rfl (by simp [h]) (by split <;> simp) ?_)
  rw [hp]
  split
  · exact stageSafe_rest _ (by simpa using hc) rfl (by simp) (by simp) (by simp)
  · exact stageSafe_rest _ (by simpa using hc) rfl (by simp) (by simp) (by simp)

theorem issueOpen_safe {s : State} (hs : StagesSafe s) (k : StageId) (cause : Cause) (n : Nat)
    (h0 : (s.stage k).state ≠ .absent) (h1 : (s.stage k).state ≠ .closing) :
    StagesSafe (issueOpen k cause n s) := by
  have hp := (hs.each k).running h0
  have hc : (s.stage k).closeOut = false := by
    cases hc : (s.stage k).closeOut
    · rfl
    · exact absurd ((hs.each k).closeOut hc) h1
  have key (f : Stage → Stage) (hst : (f (s.stage k)).state = (s.stage k).state)
      (hco : (f (s.stage k)).closeOut = (s.stage k).closeOut) (hop : (f (s.stage k)).op.isSome = true) :
      StagesSafe (changeStage k .opening (s.modStage k f)) :=
    changeStage_safe hs k f _ hst h0 (by simp) (by rw [hp]; exact stageSafe_opening (by rw [hco, hc]) hop)
  have hopening (f : Stage → Stage) :
      ((changeStage k .opening (s.modStage k f)).stage k).state = .opening := by
    unfold changeStage; rw [(stageNotice_frame ..).stage]; simp
  unfold issueOpen
  dsimp only
  split
  · exact completeOpen_safe (key _ rfl rfl rfl) k _ _ (hopening _)
  · exact key _ rfl rfl rfl

theorem actOpen_safe {s : State} (hs : StagesSafe s) (k : StageId) (cause : Cause) (n : Nat) :
    StagesSafe (actOpen k cause n s) := by
  unfold actOpen
  split
  · rename_i h; exact issueOpen_safe hs k _ _ (by simp [h]) (by simp [h])
  · split
    · rename_i h _ op hop
      unfold cutClose
      refine modStage_safe hs k _ rfl ⟨fun hc => by simp at hc, fun ho => (hs.each k).openOut ho, ?_, ?_, (hs.each k).start⟩
      · simp [h]
      · intro hr; simp [h] at hr
    · exact hs
  · split
    · rename_i h _ op hop
      unfold absorbOpen
      refine modStage_safe hs k _ rfl ⟨(hs.each k).closeOut, (hs.each k).openOut, ?_, ?_, (hs.each k).start⟩
      · simp [h]
      · intro hr; simp [h] at hr
    · exact hs
  · split
    · rename_i h _; exact issueOpen_safe hs k _ _ (by simp [h]) (by simp [h])
    · exact hs
  · exact hs

theorem requestOpen_safe {s : State} (hs : StagesSafe s) (k : StageId) (cause : Cause) (n : Nat) :
    StagesSafe (requestOpen k cause n s) := by
  unfold requestOpen
  split
  · exact hs
  · exact actOpen_safe hs k cause n

theorem deadLineNotice_safe {s : State} (hs : StagesSafe s) (k : StageId) : StagesSafe (deadLineNotice k s) := by
  unfold deadLineNotice
  split
  · exact requestOpen_safe hs k _ _
  · exact hs

/-! ### Closes -/

theorem completeClose_safe {s : State} (hs : StagesSafe s) (k : StageId) (op : Operation) (timed : Bool)
    (h : (s.stage k).state = .closing) : StagesSafe (completeClose k op timed s) := by
  have hp := (hs.each k).running (by simp [h])
  have ho : (s.stage k).openOut = false := by
    cases ho : (s.stage k).openOut
    · rfl
    · rcases (hs.each k).openOut ho with h' | h'
      · simp [h] at h'
      · simp [hp] at h'
  have key (f : Stage → Stage) (r : SwitchReport) (hst : (f (s.stage k)).state = (s.stage k).state)
      (hco : (f (s.stage k)).closeOut = false) (hoo : (f (s.stage k)).openOut = (s.stage k).openOut) :
      StagesSafe (report r (changeStage k .closed (s.modStage k f))) :=
    (report_frame ..).safe (changeStage_safe hs k f _ hst (by simp [h]) (by simp) (by
      rw [hp]; exact stageSafe_rest _ hco (by rw [hoo, ho]) (by simp) (by simp) (by simp)))
  have hclosed (f : Stage → Stage) (r : SwitchReport) :
      ((report r (changeStage k .closed (s.modStage k f))).stage k).state = .closed := by
    rw [(report_frame ..).stage]; unfold changeStage; rw [(stageNotice_frame ..).stage]; simp
  unfold completeClose
  dsimp only
  refine deadLineNotice_safe ?_ k
  split
  · exact issueOpen_safe (key _ _ rfl rfl rfl) k _ _ (by rw [hclosed]; simp) (by rw [hclosed]; simp)
  · exact key _ _ rfl rfl rfl

theorem issueClose_safe {s : State} (hs : StagesSafe s) (k : StageId) (cause : Cause) (n : Nat)
    (h : (s.stage k).state = .ready) (hc : ∀ j, (s.stage j).state ≠ .closing) :
    StagesSafe (issueClose k cause n s) := by
  have hp := (hs.each k).running (by simp [h])
  have ho := ((hp ▸ hs.each k : StageSafe .running (s.stage k)).outputs_off (by simp [h]) (by simp [h])).2
  have key (f : Stage → Stage) (hst : (f (s.stage k)).state = (s.stage k).state)
      (hoo : (f (s.stage k)).openOut = (s.stage k).openOut) (hop : (f (s.stage k)).op.isSome = true) :
      StagesSafe (changeStage k .closing (s.modStage k f)) :=
    changeStage_safe hs k f _ hst (by simp [h]) (fun _ => hc)
      (by rw [hp]; exact stageSafe_closing (by rw [hoo, ho]) hop)
  have hclosing (f : Stage → Stage) :
      ((changeStage k .closing (s.modStage k f)).stage k).state = .closing := by
    unfold changeStage; rw [(stageNotice_frame ..).stage]; simp
  unfold issueClose State.addDuty
  simp only [modStage_modStage]
  split
  · exact completeClose_safe (key _ rfl rfl rfl) k _ _ (hclosing _)
  · exact key _ rfl rfl rfl

/-! ### External changes -/

theorem externalOpen_safe {s : State} (hs : StagesSafe s) (k : StageId) (h : (s.stage k).state = .closed) :
    StagesSafe (externalOpen k s) := by
  have hp := (hs.each k).running (by simp [h])
  have ho := (hp ▸ hs.each k : StageSafe .running (s.stage k)).outputs_off (by simp [h]) (by simp [h])
  unfold externalOpen
  exact (report_frame ..).safe (changeStage_safe hs k _ _ rfl (by simp [h]) (by simp) (by
    rw [hp]; exact stageSafe_rest _ ho.1 ho.2 (by simp) (by simp) (by simp)))

theorem externalClose_safe {s : State} (hs : StagesSafe s) (k : StageId)
    (h : (s.stage k).state = .ready ∨ (s.stage k).state = .discharging) : StagesSafe (externalClose k s) := by
  have hp := (hs.each k).running (by rcases h with h | h <;> simp [h])
  have ho := (hp ▸ hs.each k : StageSafe .running (s.stage k)).outputs_off
    (by rcases h with h | h <;> simp [h]) (by rcases h with h | h <;> simp [h])
  have key (f : Stage → Stage) (hst : (f (s.stage k)).state = (s.stage k).state)
      (h1 : (f (s.stage k)).closeOut = (s.stage k).closeOut) (h2 : (f (s.stage k)).openOut = (s.stage k).openOut) :
      StagesSafe (changeStage k .closed (s.modStage k f)) :=
    changeStage_safe hs k f _ hst (by rcases h with h | h <;> simp [h]) (by simp) (by
      rw [hp]; exact stageSafe_rest _ (by rw [h1, ho.1]) (by rw [h2, ho.2]) (by simp) (by simp) (by simp))
  unfold externalClose State.addExternalDuty
  simp only [modStage_modStage]
  exact deadLineNotice_safe ((report_frame ..).safe (key _ rfl rfl rfl)) k

theorem modStage_keep_safe {s : State} (hs : StagesSafe s) (k : StageId) (f : Stage → Stage)
    (h1 : (f (s.stage k)).state = (s.stage k).state) (h2 : (f (s.stage k)).closeOut = (s.stage k).closeOut)
    (h3 : (f (s.stage k)).openOut = (s.stage k).openOut) (h4 : (f (s.stage k)).op = (s.stage k).op)
    (h5 : (f (s.stage k)).discharge = (s.stage k).discharge) : StagesSafe (s.modStage k f) := by
  refine modStage_safe hs k f h1 ⟨?_, ?_, ?_, ?_, ?_⟩
  · rw [h1, h2]; exact (hs.each k).closeOut
  · rw [h1, h3]; exact (hs.each k).openOut
  · rw [h1, h4]; exact (hs.each k).oper
  · rw [h1, h5]; exact (hs.each k).rested
  · rw [h1]; exact (hs.each k).start

theorem enforceLockout_safe {s : State} (hs : StagesSafe s) (k : StageId) (h : (s.stage k).state = .lockout) :
    StagesSafe (enforceLockout k s) := by
  unfold enforceLockout State.addExternalDuty
  exact issueOpen_safe (modStage_keep_safe hs k _ rfl rfl rfl rfl rfl) k _ _ (by simp [h]) (by simp [h])

theorem startDiscrepancy_safe {s : State} (hs : StagesSafe s) (k : StageId) (o : StageState) :
    StagesSafe (s.startDiscrepancy k o) := modStage_keep_safe hs k _ rfl rfl rfl rfl rfl

theorem stopDiscrepancy_safe {s : State} (hs : StagesSafe s) (k : StageId) :
    StagesSafe (s.stopDiscrepancy k) := modStage_keep_safe hs k _ rfl rfl rfl rfl rfl

theorem prune_safe {s : State} (hs : StagesSafe s) (k : StageId) : StagesSafe (s.prune k) :=
  modStage_keep_safe hs k _ rfl rfl rfl rfl rfl

theorem takePosition_safe {s : State} (hs : StagesSafe s) (k : StageId) : StagesSafe (takePosition k s) := by
  unfold takePosition
  dsimp only
  split
  · rename_i hr
    split
    · split
      · rename_i h; exact enforceLockout_safe hs k h
      · rename_i h
        refine externalClose_safe hs k ?_
        revert hr h; cases (s.stage k).state <;> simp [StageState.resting]
    · exact startDiscrepancy_safe hs k _
    · exact startDiscrepancy_safe hs k _
    · exact hs
  · exact hs

theorem positionChange_safe {s : State} (hs : StagesSafe s) (k : StageId) (p : Position) :
    StagesSafe (positionChange k p s) := by
  unfold positionChange
  dsimp only
  split
  · rename_i h
    split
    · exact externalOpen_safe hs k h
    · exact stopDiscrepancy_safe hs k
    · exact startDiscrepancy_safe hs k _
    · exact startDiscrepancy_safe hs k _
  · rename_i h
    split
    · exact externalClose_safe hs k (.inl h)
    · exact stopDiscrepancy_safe hs k
    · exact startDiscrepancy_safe hs k _
    · exact startDiscrepancy_safe hs k _
  · rename_i h
    split
    · exact externalClose_safe hs k (.inr h)
    · exact stopDiscrepancy_safe hs k
    · exact startDiscrepancy_safe hs k _
    · exact startDiscrepancy_safe hs k _
  · rename_i h
    split
    · exact enforceLockout_safe hs k h
    · exact stopDiscrepancy_safe hs k
    · exact startDiscrepancy_safe hs k _
    · exact startDiscrepancy_safe hs k _
  · rename_i h
    split
    · split
      · exact completeClose_safe hs k _ _ h
      · exact hs
    · exact hs
  · rename_i h
    split
    · split
      · exact completeOpen_safe hs k _ _ h
      · exact hs
    · exact hs
  · exact hs
  · exact hs

/-! ### Trips, expiries, reset -/

theorem tripRefused_safe {s : State} (hs : StagesSafe s) (k : StageId) (cause : Cause) :
    StagesSafe (tripRefused k cause s) := by
  have key (f : Stage → Stage) (h : (s.stage k).state = .ready ∨ (s.stage k).state = .discharging)
      (hst : (f (s.stage k)).state = (s.stage k).state) (h1 : (f (s.stage k)).closeOut = (s.stage k).closeOut)
      (h2 : (f (s.stage k)).openOut = (s.stage k).openOut) :
      StagesSafe (takePosition k (changeStage k .lockout (s.modStage k f))) := by
    have hp := (hs.each k).running (by rcases h with h | h <;> simp [h])
    have ho := (hp ▸ hs.each k : StageSafe .running (s.stage k)).outputs_off
      (by rcases h with h | h <;> simp [h]) (by rcases h with h | h <;> simp [h])
    exact takePosition_safe (changeStage_safe hs k f _ hst (by rcases h with h | h <;> simp [h]) (by simp) (by
      rw [hp]; exact stageSafe_rest _ (by rw [h1, ho.1]) (by rw [h2, ho.2]) (by simp) (by simp) (by simp))) k
  unfold tripRefused
  split
  · rename_i h; exact key _ (.inl h) rfl rfl rfl
  · rename_i h; exact key _ (.inr h) rfl rfl rfl
  · exact modStage_keep_safe hs k _ rfl rfl rfl rfl rfl
  · exact hs

theorem requestTrip_safe {s : State} (hs : StagesSafe s) (k : StageId) (cause : Cause) :
    StagesSafe (requestTrip k cause s) := by
  have h (f : Stage → Stage) (hf : f = fun r => { r with tripLatch := true }) : StagesSafe (s.modStage k f) := by
    subst hf; exact modStage_keep_safe hs k _ rfl rfl rfl rfl rfl
  unfold requestTrip
  split
  · exact hs
  · dsimp only
    split
    · exact tripRefused_safe (h _ rfl) k cause
    · exact actOpen_safe (h _ rfl) k cause 0

theorem endPulse_safe {s : State} (hs : StagesSafe s) (k : StageId) : StagesSafe (endPulse k s) := by
  unfold endPulse
  split
  · refine modStage_safe hs k _ rfl ⟨fun h => by simp at h, fun h => by simp at h, (hs.each k).oper, (hs.each k).rested,
      (hs.each k).start⟩
  · exact hs

theorem closeWindow_safe {s : State} (hs : StagesSafe s) (k : StageId) : StagesSafe (closeWindow k s) := by
  unfold closeWindow
  dsimp only
  split
  · rename_i op h hop
    have hp := (hs.each k).running (by simp [h])
    have ho : (s.stage k).openOut = false := by
      cases ho : (s.stage k).openOut
      · rfl
      · rcases (hs.each k).openOut ho with h' | h'
        · simp [h] at h'
        · simp [hp] at h'
    have key (f : Stage → Stage) (new : StageState) (hst : (f (s.stage k)).state = (s.stage k).state)
        (hco : (f (s.stage k)).closeOut = false) (hoo : (f (s.stage k)).openOut = (s.stage k).openOut)
        (h1 : new ≠ .closing) (h2 : new ≠ .opening) (h3 : new ≠ .ready) :
        StagesSafe (changeStage k new (s.modStage k f)) :=
      changeStage_safe hs k f _ hst (by simp [h]) (fun h => absurd h h1) (by
        rw [hp]; exact stageSafe_rest _ hco (by rw [hoo, ho]) h1 h2 (fun h => absurd h h3))
    split
    · exact (report_frame ..).safe (key _ _ rfl rfl rfl (by simp) (by simp) (by simp))
    · simp only [modStage_modStage]
      exact takePosition_safe ((report_frame ..).safe (key _ _ rfl rfl rfl (by simp) (by simp) (by simp))) k
  · exact hs

theorem openWindow_safe {s : State} (hs : StagesSafe s) (k : StageId) : StagesSafe (openWindow k s) := by
  unfold openWindow
  dsimp only
  split
  · rename_i op h hop
    have hp := (hs.each k).running (by simp [h])
    have hc : (s.stage k).closeOut = false := by
      cases hc : (s.stage k).closeOut
      · rfl
      · have := (hs.each k).closeOut hc; simp [h] at this
    exact (report_frame ..).safe (changeStage_safe hs k _ _ rfl (by simp [h]) (by simp) (by
      rw [hp]; exact stageSafe_rest _ hc rfl (by simp) (by simp) (by simp)))
  · exact hs

theorem expireDiscrepancy_safe {s : State} (hs : StagesSafe s) (k : StageId) :
    StagesSafe (expireDiscrepancy k s) := by
  unfold expireDiscrepancy
  dsimp only
  split
  · exact hs
  · split
    · rename_i h
      have hst : (s.stage k).state ≠ .absent ∧ (s.stage k).state ≠ .closing ∧ (s.stage k).state ≠ .opening := by
        revert h; cases (s.stage k).state <;> simp [StageState.resting]
      have hp := (hs.each k).running hst.1
      have ho := (hp ▸ hs.each k : StageSafe .running (s.stage k)).outputs_off hst.2.1 hst.2.2
      exact changeStage_safe' hs k _ hst.1 (by simp) (by rw [hp]; exact stageSafe_rest _ ho.1 ho.2 (by simp) (by simp) (by simp))
    · exact hs

theorem endDischarge_safe {s : State} (hs : StagesSafe s) (k : StageId) : StagesSafe (endDischarge k s) := by
  have hz : StagesSafe (s.modStage k fun r => { r with discharge := 0 }) :=
    modStage_safe hs k _ rfl ⟨(hs.each k).closeOut, (hs.each k).openOut, (hs.each k).oper, fun _ => rfl, (hs.each k).start⟩
  unfold endDischarge
  dsimp only
  split
  · rename_i h
    have hp := (hs.each k).running (by simp [h])
    have ho := (hp ▸ hs.each k : StageSafe .running (s.stage k)).outputs_off (by simp [h]) (by simp [h])
    exact takePosition_safe (changeStage_safe hs k _ _ rfl (by simp [h]) (by simp) (by
      rw [hp]; exact stageSafe_rest _ ho.1 ho.2 (by simp) (by simp) (by simp))) k
  · exact hz
  · exact hz
  · exact hs

theorem resetStage_safe {s : State} (hs : StagesSafe s) (k : StageId)
    (h : (s.stage k).state = .lockout ∨ (s.stage k).state.isFault = true) : StagesSafe (resetStage k s) := by
  have hst : (s.stage k).state ≠ .absent ∧ (s.stage k).state ≠ .closing ∧ (s.stage k).state ≠ .opening := by
    revert h; cases (s.stage k).state <;> simp [StageState.isFault]
  have hp := (hs.each k).running hst.1
  have ho := (hp ▸ hs.each k : StageSafe .running (s.stage k)).outputs_off hst.2.1 hst.2.2
  have key (left : Nat) : StagesSafe (takePosition k (changeStage k (if left = 0 then .ready else .discharging)
      (s.modStage k fun r => { r with tripLatch := false, discharge := left }))) := by
    refine takePosition_safe (changeStage_safe hs k _ _ rfl hst.1 (by split <;> simp) ?_) k
    rw [hp]
    refine stageSafe_rest _ ho.1 ho.2 ?_ ?_ ?_
    · split <;> simp
    · split <;> simp
    · intro h; split at h
      · rename_i h0; exact h0
      · cases h
  unfold resetStage
  exact key _

end Sys2Proof.Machine
end

