-- ==== Sys2Proof/Laws/Requests.lean ====
section
/-! SUPPORT. The close test and the open conditions read backwards, and the requests that keep the Stage
Supervisor's invariant. -/

namespace Sys2Proof.Machine

theorem stageOf_some {count n : Nat} {k : StageId} (h : stageOf count n = some k) : k.num = n ∧ n ≤ count := by
  have := List.find?_some h
  simpa using this

theorem stageOf_num {count : Nat} {k : StageId} (h : k.num ≤ count) : stageOf count k.num = some k := by
  cases k <;> simp_all [stageOf, StageId.all, StageId.num]

theorem stageOf_none {count n : Nat} : stageOf count n = none ↔ ¬(1 ≤ n ∧ n ≤ 4 ∧ n ≤ count) := by
  simp only [stageOf, StageId.all, List.find?_eq_none]
  simp [StageId.num]
  omega

/-- R64: what a stage that passes the close test satisfies. -/
structure ClosePass (s : State) (k : StageId) (cause : Cause) (intent : Nat) : Prop where
  unblocked : cause = .autoRaise → s.blockSet.get k = false
  quiet : cause = .autoRaise → s.harmAlarm = false
  ready : (s.stage k).state = .ready
  latch : (s.stage k).tripLatch = false
  attention : (s.inputs.get k).attention.active = false
  still : s.anyMoving = false
  free : s.vc.state = .executing → s.ownCommitment cause intent = true
  live : s.vc.deadLine = false
  valid : s.port.lost = false
  duty : (s.stage k).duty.length < (s.cfg k).dutyLimit
  guarded : ∀ h ∈ s.watchSet, inBand (s.candidateIndex k) h s.settings.guard = false

theorem stageCloseTest_none {s : State} {k : StageId} {cause : Cause} {intent : Nat}
    (h : stageCloseTest s k cause intent = none) :
    (s.stage k).state = .ready ∧ (s.stage k).tripLatch = false ∧ (s.inputs.get k).attention.active = false ∧
    s.anyMoving = false ∧ (s.vc.state = .executing → s.ownCommitment cause intent = true) ∧
    s.vc.deadLine = false ∧ s.port.lost = false ∧ (s.stage k).duty.length < (s.cfg k).dutyLimit ∧
    ∀ h ∈ s.watchSet, inBand (s.candidateIndex k) h s.settings.guard = false := by
  unfold stageCloseTest at h
  dsimp only at h
  cases hst : (s.stage k).state
  case ready =>
    simp only [hst] at h
    by_cases h1 : (s.stage k).tripLatch = true
    · simp [h1] at h
    by_cases h2 : (s.inputs.get k).attention.active = true
    · simp [h1, h2, StageState.isFault] at h
    by_cases h3 : s.anyMoving = true
    · simp [h1, h2, h3, StageState.isFault] at h
    by_cases h4 : (s.vc.state == .executing && !s.ownCommitment cause intent) = true
    · simp [h1, h2, h3, h4, StageState.isFault] at h
    by_cases h5 : s.vc.deadLine = true
    · simp [h1, h2, h3, h4, h5, StageState.isFault] at h
    by_cases h6 : s.port.lost = true
    · simp [h1, h2, h3, h4, h5, h6, StageState.isFault] at h
    by_cases h7 : (s.cfg k).dutyLimit ≤ (s.stage k).duty.length
    · simp [h1, h2, h3, h4, h5, h6, h7, StageState.isFault] at h
    by_cases h8 : (s.watchSet.any fun h => inBand (s.candidateIndex k) h s.settings.guard) = true
    · simp [h1, h2, h3, h4, h5, h6, h7, h8, StageState.isFault, guardVerdict] at h
    refine ⟨rfl, by simpa using h1, by simpa using h2, by simpa using h3, ?_, by simpa using h5, by simpa using h6,
      by omega, ?_⟩
    · intro he; simpa [he] using h4
    · simpa using h8
  case fault => simp only [hst, StageState.isFault] at h; split at h <;> simp at h
  all_goals simp [hst] at h

/-- R64: a close that passes the test names a configured stage that holds none of the conditions. -/
theorem closeTest_none {s : State} {n : Nat} {cause : Cause} {intent : Nat} (h : closeTest s n cause intent = none) :
    ∃ k, stageOf s.settings.stageCount n = some k ∧ ClosePass s k cause intent := by
  unfold closeTest at h
  split at h
  · split at h <;> cases h
  · rename_i k hk
    split at h
    · cases h
    · rename_i h1
      split at h
      · cases h
      · rename_i h2
        obtain ⟨a, b, c, d, e, f, g, i, j⟩ := stageCloseTest_none h
        exact ⟨k, hk, ⟨fun hc => by simpa [hc] using h1, fun hc => by simpa [hc] using h2, a, b, c, d, e, f, g, i, j⟩⟩

/-- A close request that passes is issued on a stage in READY. -/
theorem closeTest_ready {s : State} {n : Nat} {cause : Cause} {intent : Nat} {k : StageId}
    (h : closeTest s n cause intent = none) (hk : stageOf s.settings.stageCount n = some k) :
    (s.stage k).state = .ready := by
  obtain ⟨j, hj, hp⟩ := closeTest_none h
  rw [hk] at hj; cases hj
  exact hp.ready

/-- No breaker moves: no stage is in CLOSING. -/
theorem ClosePass.noClosing {s : State} {k : StageId} {cause : Cause} {intent : Nat} (h : ClosePass s k cause intent)
    (hs : StagesSafe s) (j : StageId) : (s.stage j).state ≠ .closing := by
  intro hj
  have hc := hs.configured j (by simp [hj])
  have hm : j ∈ s.stageIds := by
    simp only [State.stageIds, List.mem_filter]
    exact ⟨by cases j <;> simp [StageId.all], hc⟩
  have := List.any_eq_false.1 h.still j hm
  simp [hj] at this

/-- A close request that passes finds no stage in CLOSING. -/
theorem closeTest_still {s : State} {n : Nat} {cause : Cause} {intent : Nat} (hs : StagesSafe s)
    (h : closeTest s n cause intent = none) (j : StageId) : (s.stage j).state ≠ .closing := by
  obtain ⟨k, _, hp⟩ := closeTest_none h
  exact hp.noClosing hs j

theorem pruneFor_safe {s : State} (hs : StagesSafe s) (n : Nat) : StagesSafe (pruneFor s n) := by
  unfold pruneFor
  split
  · exact prune_safe hs _
  · exact hs

theorem pruneRequest_safe {s : State} (hs : StagesSafe s) (dir : Direction) (n : Nat) :
    StagesSafe (pruneRequest s dir n) := by
  unfold pruneRequest
  split
  · exact pruneFor_safe hs n
  · exact hs

theorem serveSwitch_safe {s : State} (hs : StagesSafe s) (dir : Direction) (n : Nat) (cause : Cause)
    (refused : Reason → State → State) (accepted : StageId → State → State)
    (hr : ∀ r t, NoticeFrame t (refused r t)) (ha : ∀ k t, NoticeFrame t (accepted k t)) :
    StagesSafe (serveSwitch dir n cause refused accepted s) := by
  unfold serveSwitch
  split
  · exact (hr _ s).safe hs
  · dsimp only
    have h1 := pruneRequest_safe hs dir n
    split
    · exact (hr _ _).safe h1
    · rename_i hreq
      split
      · rename_i k hk
        have h2 := (ha k _).safe h1
        cases dir
        · exact issueClose_safe h2 k _ _ (by rw [(ha k _).stage]; exact closeTest_ready hreq hk)
            (fun j => by rw [(ha k _).stage]; exact closeTest_still h1 hreq j)
        · exact actOpen_safe h2 k _ _
      · exact h1

theorem serveOrderSwitch_safe {s : State} (hs : StagesSafe s) (dir : Direction) (o : Order) :
    StagesSafe (serveOrderSwitch dir o s) := by
  unfold serveOrderSwitch
  split
  · exact (refuseOrder_frame ..).safe hs
  · dsimp only
    refine serveSwitch_safe ?_ _ _ _ _ _ (fun _ _ => refuseOrder_frame ..) (fun _ _ => writeOrder_frame ..)
    split
    · exact (withdraw_frame ..).safe hs
    · exact hs

theorem serveStep_safe {s : State} (hs : StagesSafe s) : StagesSafe (serveStep s) := by
  unfold serveStep
  split
  · exact hs
  · rename_i c _
    split
    · exact hs
    · split
      · exact hs
      · exact serveSwitch_safe hs _ _ _ _ _ (fun _ _ => endChain_frame ..)
          (fun _ t => orderFrame_of t { t.oi with chain := some { c with operating := true } } rfl)

theorem serveDue_safe (n : Nat) {s : State} (hs : StagesSafe s) : StagesSafe (serveDue n s) := by
  induction n generalizing s with
  | zero => exact hs
  | succ n ih =>
    unfold serveDue
    split
    · exact ih (serveStep_safe hs)
    · exact hs

theorem settleDue_safe {s : State} (hs : StagesSafe s) : StagesSafe (settleDue s) := serveDue_safe 6 hs

/-- A RESET_STAGE that is accepted names a stage in LOCKOUT or FAULT. -/
theorem resetRefusal_none {s : State} {n : Nat} {k : StageId} (h : resetRefusal s n = none)
    (hk : stageOf s.settings.stageCount n = some k) :
    (s.stage k).state = .lockout ∨ (s.stage k).state.isFault = true := by
  unfold resetRefusal at h
  rw [hk] at h
  dsimp only at h
  cases hst : (s.stage k).state <;> simp [hst, StageState.isFault] at h ⊢

end Sys2Proof.Machine
end

