-- ==== Sys2Proof/Laws/Switching.lean ====
section
/-! SUPPORT. What the notices and the reports of a switching event leave in the other blocks: the controller, the own
intent, the chain, the OUTCOME slot, the relay's entries. -/

namespace Sys2Proof.Machine

/-! ### The Line Channel -/

theorem trigger_lc (s : State) : ∃ d, (trigger s).lc = { s.lc with triggerDelay := d } := by
  unfold trigger
  split
  · exact ⟨_, rfl⟩
  · exact ⟨s.lc.triggerDelay, rfl⟩

@[simp] theorem trigger_vc (s : State) : (trigger s).vc = s.vc := by unfold trigger; split <;> rfl
@[simp] theorem trigger_oi (s : State) : (trigger s).oi = s.oi := by unfold trigger; split <;> rfl
@[simp] theorem trigger_ur (s : State) : (trigger s).ur = s.ur := by unfold trigger; split <;> rfl
@[simp] theorem trigger_ix (s : State) : (trigger s).ix = s.ix := by unfold trigger; split <;> rfl
@[simp] theorem trigger_hm (s : State) : (trigger s).hm = s.hm := by unfold trigger; split <;> rfl
@[simp] theorem trigger_alarm (s : State) : (trigger s).alarm = s.alarm := by unfold trigger; split <;> rfl
@[simp] theorem trigger_healthy (s : State) : (trigger s).healthy = s.healthy := by unfold trigger; split <;> rfl
@[simp] theorem trigger_intentSlot (s : State) : (trigger s).lc.intentSlot = s.lc.intentSlot := by
  unfold trigger; split <;> rfl
@[simp] theorem trigger_outcomeSlot (s : State) : (trigger s).lc.outcomeSlot = s.lc.outcomeSlot := by
  unfold trigger; split <;> rfl

@[simp] theorem refreshAccess_vc (s : State) : (refreshAccess s).vc = s.vc := by
  obtain ⟨a, l, h⟩ := refreshAccess_only s; rw [h]
@[simp] theorem refreshAccess_oi (s : State) : (refreshAccess s).oi = s.oi := by
  obtain ⟨a, l, h⟩ := refreshAccess_only s; rw [h]
@[simp] theorem refreshAccess_ur (s : State) : (refreshAccess s).ur = s.ur := by
  obtain ⟨a, l, h⟩ := refreshAccess_only s; rw [h]
@[simp] theorem refreshAccess_ix (s : State) : (refreshAccess s).ix = s.ix := by
  obtain ⟨a, l, h⟩ := refreshAccess_only s; rw [h]
@[simp] theorem refreshAccess_hm (s : State) : (refreshAccess s).hm = s.hm := by
  obtain ⟨a, l, h⟩ := refreshAccess_only s; rw [h]
@[simp] theorem refreshAccess_alarm (s : State) : (refreshAccess s).alarm = s.alarm := by
  obtain ⟨a, l, h⟩ := refreshAccess_only s; rw [h]
@[simp] theorem refreshAccess_healthy (s : State) : (refreshAccess s).healthy = s.healthy := by
  obtain ⟨a, l, h⟩ := refreshAccess_only s; rw [h]
@[simp] theorem refreshAccess_intentSlot (s : State) : (refreshAccess s).lc.intentSlot = s.lc.intentSlot := by
  obtain ⟨a, l, h⟩ := refreshAccess_only s; rw [h]
@[simp] theorem refreshAccess_outcomeSlot (s : State) : (refreshAccess s).lc.outcomeSlot = s.lc.outcomeSlot := by
  obtain ⟨a, l, h⟩ := refreshAccess_only s; rw [h]
@[simp] theorem refreshAccess_triggerDelay (s : State) : (refreshAccess s).lc.triggerDelay = s.lc.triggerDelay := by
  obtain ⟨a, l, h⟩ := refreshAccess_only s; rw [h]

/-! ### Withdrawals and suspension causes -/

@[simp] theorem enterSuspended_outcomeSlot (s : State) : (enterSuspended s).lc.outcomeSlot = s.lc.outcomeSlot := by
  simp [enterSuspended]

theorem afterWithdrawal_keeps (r : Reason) (s : State) :
    (afterWithdrawal r s).oi = s.oi ∧ (afterWithdrawal r s).ur = s.ur ∧ (afterWithdrawal r s).ix = s.ix ∧
    (afterWithdrawal r s).vc.causes = s.vc.causes ∧ (afterWithdrawal r s).vc.manual = s.vc.manual ∧
    (afterWithdrawal r s).alarm = s.alarm ∧ (afterWithdrawal r s).lc.outcomeSlot = s.lc.outcomeSlot ∧
    (afterWithdrawal r s).lc.intentSlot = s.lc.intentSlot := by
  unfold afterWithdrawal
  split <;> simp [enterQuiet, enterSuspended, returnWatching]

theorem withdraw_keeps (r : Reason) (s : State) :
    (withdraw r s).oi = s.oi ∧ (withdraw r s).ur = s.ur ∧ (withdraw r s).vc.causes = s.vc.causes ∧
    (withdraw r s).vc.manual = s.vc.manual ∧ (withdraw r s).alarm = s.alarm := by
  unfold withdraw
  split
  · exact ⟨rfl, rfl, rfl, rfl, rfl⟩
  · split
    · exact ⟨rfl, rfl, rfl, rfl, rfl⟩
    · have h := afterWithdrawal_keeps r (dropIntent ‹Intent› r s)
      exact ⟨h.1.trans (by simp [dropIntent, placeOutcome]), h.2.1.trans (by simp [dropIntent, placeOutcome]),
        h.2.2.2.1.trans (by simp [dropIntent, placeOutcome]), h.2.2.2.2.1.trans (by simp [dropIntent, placeOutcome]),
        h.2.2.2.2.2.1.trans (by simp [dropIntent, placeOutcome])⟩

theorem addCause_keeps (c : Suspension) (s : State) :
    (addCause c s).oi = s.oi ∧ (addCause c s).ur = s.ur ∧ (addCause c s).vc.causes = s.vc.causes.put c true ∧
    (addCause c s).vc.manual = s.vc.manual := by
  unfold addCause
  dsimp only
  split
  · split
    · exact ⟨rfl, rfl, rfl, rfl⟩
    · simp [enterSuspended, withdraw_keeps]
    · simp [enterSuspended]
  · exact ⟨rfl, rfl, rfl, rfl⟩

theorem removeCause_keeps (c : Suspension) (s : State) :
    (removeCause c s).oi = s.oi ∧ (removeCause c s).ur = s.ur ∧ (removeCause c s).ix = s.ix ∧
    (removeCause c s).vc.causes = s.vc.causes.put c false ∧ (removeCause c s).vc.manual = s.vc.manual ∧
    (removeCause c s).lc.outcomeSlot = s.lc.outcomeSlot ∧ (removeCause c s).lc.intentSlot = s.lc.intentSlot ∧
    (removeCause c s).alarm = s.alarm ∧ (removeCause c s).healthy = s.healthy := by
  unfold removeCause
  dsimp only
  split <;> simp [enterQuiet]

/-! ### The chain -/

theorem writeOrder_chain (p g : Nat) (o : OrderOutcome) (d : Nat) (m : SettleMark) (s : State) :
    (writeOrder p g o d m s).oi.chain = s.oi.chain := by simp [writeOrder]

theorem writeOrder_keeps (p g : Nat) (o : OrderOutcome) (d : Nat) (m : SettleMark) (s : State) :
    (writeOrder p g o d m s).oi = { s.oi with last := ⟨p, g, o, d⟩, mark := m } ∧
    (writeOrder p g o d m s).vc = s.vc ∧ (writeOrder p g o d m s).ur = s.ur ∧ (writeOrder p g o d m s).ix = s.ix ∧
    (writeOrder p g o d m s).alarm = s.alarm ∧ (writeOrder p g o d m s).healthy = s.healthy ∧
    (writeOrder p g o d m s).lc.outcomeSlot = s.lc.outcomeSlot ∧
    (writeOrder p g o d m s).lc.intentSlot = s.lc.intentSlot := by simp [writeOrder]

theorem captureEnded_chain (c : Capture) (o : OrderOutcome) (d : Nat) (s : State) :
    (captureEnded c o d s).oi.chain = s.oi.chain ∧ (captureEnded c o d s).ur = s.ur := by
  unfold captureEnded
  split
  · simp [writeOrder]
  · exact ⟨rfl, rfl⟩

theorem unbalanceNotice_keeps (b : Bool) (s : State) :
    (unbalanceNotice b s).oi = s.oi ∧ (unbalanceNotice b s).ur = s.ur := by
  unfold unbalanceNotice
  split
  · exact ⟨rfl, rfl⟩
  · simp [rejudge]

theorem abandonCapture_chain (k : StageId) (s : State) :
    (abandonCapture k s).oi.chain = s.oi.chain ∧ (abandonCapture k s).ur.entries = s.ur.entries := by
  unfold abandonCapture
  split
  · split
    · simp [captureEnded_chain]
    · exact ⟨rfl, rfl⟩
  · exact ⟨rfl, rfl⟩

theorem relayNotice_chain (k : StageId) (old new : StageState) (s : State) :
    (relayNotice k old new s).oi.chain = s.oi.chain := by
  unfold relayNotice
  split
  · rfl
  · split
    · rfl
    · split
      · simp [unbalanceNotice_keeps, abandonCapture_chain, State.modEntry]
      · rfl

/-- R118: the entry of a stage after its notice. -/
theorem relayNotice_entry (k : StageId) (old new : StageState) (s : State) :
    (relayNotice k old new s).ur.entries.get k =
      if old = new then s.ur.entries.get k
      else if new = .closed then (s.ur.entries.get k).enterService (s.cfg k).blanking
      else if old = .closed then (s.ur.entries.get k).leaveService
      else s.ur.entries.get k := by
  unfold relayNotice
  split
  · rfl
  · split
    · simp [State.modEntry]
    · split
      · simp [unbalanceNotice_keeps, abandonCapture_chain, State.modEntry]
      · rfl

theorem exchangeNotice_keeps (k : StageId) (s : State) :
    (exchangeNotice k s).oi = s.oi ∧ (exchangeNotice k s).ur = s.ur ∧ (exchangeNotice k s).vc.causes = s.vc.causes := by
  unfold exchangeNotice
  split
  · split
    · exact ⟨(withdraw_keeps ..).1, (withdraw_keeps ..).2.1, (withdraw_keeps ..).2.2.1⟩
    · exact ⟨rfl, rfl, rfl⟩
  · exact ⟨rfl, rfl, rfl⟩

theorem stageNotice_chain (k : StageId) (old new : StageState) (s : State) :
    (stageNotice k old new s).oi.chain = s.oi.chain := by
  simp [stageNotice, rejudge, exchangeNotice_keeps, relayNotice_chain]

theorem stageNotice_entry (k : StageId) (old new : StageState) (s : State) :
    (stageNotice k old new s).ur.entries.get k =
      if old = new then s.ur.entries.get k
      else if new = .closed then (s.ur.entries.get k).enterService (s.cfg k).blanking
      else if old = .closed then (s.ur.entries.get k).leaveService
      else s.ur.entries.get k := by
  have hc : (trigger s).cfg k = s.cfg k := by
    simp only [State.cfg, (trigger_frame s).settings]
  simp only [stageNotice, rejudge, exchangeNotice_keeps, relayNotice_entry, trigger_ur, hc]

/-- R201: the status outputs are judged at the end of a notice. -/
theorem stageNotice_alarm (k : StageId) (old new : StageState) (s : State) :
    (stageNotice k old new s).alarm = (stageNotice k old new s).alarmDue := rfl

/-! ### Switching reports -/

theorem controllerReport_keeps (r : SwitchReport) (s : State) :
    (controllerReport r s).oi = s.oi ∧ (controllerReport r s).ur = s.ur ∧
    (controllerReport r s).lc.outcomeSlot = s.lc.outcomeSlot ∧ (controllerReport r s).alarm = s.alarm ∧
    (controllerReport r s).ix = s.ix := by
  unfold controllerReport
  split
  · split
    · split
      · dsimp only
        split <;> simp [enterQuiet, enterSuspended]
      · simp
    · simp
  · simp [enterQuiet]
  · simp
  · simp

theorem settleOrder_keeps (r : SwitchReport) (s : State) :
    (settleOrder r s).oi.chain = s.oi.chain ∧ (settleOrder r s).ur = s.ur ∧
    (settleOrder r s).lc.outcomeSlot = s.lc.outcomeSlot ∧ (settleOrder r s).alarm = s.alarm := by
  unfold settleOrder
  split
  · split <;> simp [writeOrder]
  · simp

theorem settleChain_keeps (r : SwitchReport) (s : State) :
    (settleChain r s).ur = s.ur ∧ (settleChain r s).lc.outcomeSlot = s.lc.outcomeSlot ∧
    (settleChain r s).alarm = s.alarm := by
  unfold settleChain
  split
  · simp
  · split
    · simp
    · split
      · split
        · simp [endChain, removeCause_keeps, writeOrder]
        · split
          · unfold advanceChain; dsimp only; split <;> simp [writeOrder]
          · simp [endChain, removeCause_keeps, writeOrder]
      · simp

/-- R165, R166: the OUTCOME of a report stands in the slot. -/
theorem report_outcomeSlot (r : SwitchReport) (s : State) :
    (report r s).lc.outcomeSlot = some (reportContent r) := by
  simp [report, settleChain_keeps, settleOrder_keeps, controllerReport_keeps, exchangeReport, placeOutcome]

theorem report_ur (r : SwitchReport) (s : State) : (report r s).ur = s.ur := by
  simp [report, settleChain_keeps, settleOrder_keeps, controllerReport_keeps, exchangeReport, placeOutcome]

theorem report_alarm (r : SwitchReport) (s : State) : (report r s).alarm = s.alarm := by
  simp [report, settleChain_keeps, settleOrder_keeps, controllerReport_keeps, exchangeReport, placeOutcome]

/-- R193: a chain with no step in flight on the stage takes no notice of its report. -/
theorem report_chain_apart (r : SwitchReport) (s : State) (h : ChainApart r.stage s) :
    (report r s).oi.chain = s.oi.chain := by
  have hc : (settleOrder r (controllerReport r (exchangeReport r s))).oi.chain = s.oi.chain := by
    simp [settleOrder_keeps, controllerReport_keeps, exchangeReport, placeOutcome]
  unfold report settleChain
  split
  · rw [hc]
  · rename_i c hcc
    split
    · exact hc
    · rename_i st hst
      rw [if_neg]
      · exact hc
      · rw [hc] at hcc
        intro hb
        simp only [Bool.and_eq_true, beq_iff_eq] at hb
        exact h.elsewhere c st hcc hb.1 hst hb.2

theorem stepDue_congr {s t : State} (h : t.oi.chain = s.oi.chain) : t.stepDue = s.stepDue := by
  unfold State.stepDue; rw [h]

theorem ChainApart.congr {s t : State} {k : StageId} (h : ChainApart k s) (hc : t.oi.chain = s.oi.chain) :
    ChainApart k t where
  notDue := by rw [stepDue_congr hc]; exact h.notDue
  elsewhere c st h1 h2 h3 := h.elsewhere c st (by rw [← hc]; exact h1) h2 h3

/-! ### A change of one stage -/

theorem changeStage_chain (k : StageId) (new : StageState) (s : State) :
    (changeStage k new s).oi.chain = s.oi.chain := stageNotice_chain ..

theorem changeStage_stage (k : StageId) (new : StageState) (f : Stage → Stage) (s : State) :
    (changeStage k new (s.modStage k f)).stage k = (f (s.stage k)).moved new := by
  unfold changeStage; rw [(stageNotice_frame ..).stage]; simp

theorem changeStage_others (k : StageId) (new : StageState) (f : Stage → Stage) (s : State) :
    OtherStages k s (changeStage k new (s.modStage k f)) := by
  intro j h
  unfold changeStage
  rw [(stageNotice_frame ..).stage, moveStage_others _ k new j h, modStage_stage_ne s f h]

theorem changeStage_ready (k : StageId) (new : StageState) (f : Stage → Stage) (s : State)
    (hf : (f (s.stage k)).state = (s.stage k).state) :
    (changeStage k new (s.modStage k f)).ready = relist .ready k (s.stage k).state new s.ready := by
  unfold changeStage; rw [(stageNotice_frame ..).ready]; simp [hf]

theorem changeStage_inService (k : StageId) (new : StageState) (f : Stage → Stage) (s : State)
    (hf : (f (s.stage k)).state = (s.stage k).state) :
    (changeStage k new (s.modStage k f)).inService = relist .closed k (s.stage k).state new s.inService := by
  unfold changeStage; rw [(stageNotice_frame ..).inService]; simp [hf]

theorem changeStage_entry (k : StageId) (new : StageState) (f : Stage → Stage) (s : State)
    (hf : (f (s.stage k)).state = (s.stage k).state) :
    (changeStage k new (s.modStage k f)).ur.entries.get k =
      if (s.stage k).state = new then s.ur.entries.get k
      else if new = .closed then (s.ur.entries.get k).enterService (s.cfg k).blanking
      else if (s.stage k).state = .closed then (s.ur.entries.get k).leaveService
      else s.ur.entries.get k := by
  unfold changeStage; rw [stageNotice_entry]; simp only [modStage_stage, hf]; rfl

/-- R201: a configured stage that goes to FAULT or LOCKOUT turns ALARM on. -/
theorem changeStage_alarm (k : StageId) (new : StageState) (s : State) (hk : s.configured k = true)
    (hn : new = .lockout ∨ new.isFault = true) : (changeStage k new s).alarm = true := by
  have hf := stageNotice_frame k (s.stage k).state new (s.moveStage k new)
  unfold changeStage
  rw [stageNotice_alarm]
  have hst := hf.stage k
  have hm : k ∈ (stageNotice k (s.stage k).state new (s.moveStage k new)).stageIds := by
    simp only [State.stageIds, hf.settings, List.mem_filter]
    exact ⟨by cases k <;> simp [StageId.all], hk⟩
  have : ((stageNotice k (s.stage k).state new (s.moveStage k new)).stageIds.any fun k' =>
      ((stageNotice k (s.stage k).state new (s.moveStage k new)).stage k').state == .lockout ||
      ((stageNotice k (s.stage k).state new (s.moveStage k new)).stage k').state.isFault) = true := by
    refine List.any_eq_true.2 ⟨k, hm, ?_⟩
    rw [hst]
    simpa using hn
  simp [State.alarmDue, this]

/-! ### The own intent and the OUTCOME slot -/

/-- R162: a withdrawal leaves no own intent, or finds a COMMITTED one. -/
theorem withdraw_own (r : Reason) (s : State) : (withdraw r s).ix.own = none ∨ ((withdraw r s).ix.own = s.ix.own ∧ ∀ i, s.ix.own = some i → i.phase = .committed) := by
  unfold withdraw
  split
  · rename_i h; left; exact h
  · rename_i i h; split
    · rename_i hp; right; exact ⟨rfl, fun j hj => by rw [h] at hj; cases hj; exact hp⟩
    · left; rw [(afterWithdrawal_keeps ..).2.2.1]; simp [dropIntent, placeOutcome]

theorem settleOrder_ix (r : SwitchReport) (s : State) : (settleOrder r s).ix = s.ix := by
  unfold settleOrder
  split
  · split <;> simp [writeOrder]
  · simp

theorem settleChain_ix (r : SwitchReport) (s : State) : (settleChain r s).ix = s.ix := by
  unfold settleChain
  split
  · simp
  · split
    · simp
    · split
      · split
        · simp [endChain, removeCause_keeps, writeOrder]
        · split
          · unfold advanceChain; dsimp only; split <;> simp [writeOrder]
          · simp [endChain, removeCause_keeps, writeOrder]
      · simp

/-- R159: no COMMITTED intent of the stage is left after its report. -/
theorem report_own (r : SwitchReport) (s : State) (i : Intent) (h : (report r s).ix.own = some i) : s.ix.own = some i ∧ ¬ (i.phase = .committed ∧ i.stage = r.stage) := by
  have : (report r s).ix.own = (exchangeReport r s).ix.own := by
    unfold report; rw [settleChain_ix, settleOrder_ix, (controllerReport_keeps ..).2.2.2.2]
  rw [this] at h
  unfold exchangeReport placeOutcome at h
  dsimp only at h
  simp only [refreshAccess_ix] at h
  split at h
  · rename_i j hj
    split at h
    · cases h
    · rename_i hc; cases h; exact ⟨hj, hc⟩
  · cases h

theorem abandonCapture_ix (k : StageId) (s : State) : (abandonCapture k s).ix = s.ix ∧ (abandonCapture k s).lc.outcomeSlot = s.lc.outcomeSlot := by
  unfold abandonCapture
  split
  · split
    · unfold captureEnded; split <;> simp [writeOrder]
    · exact ⟨rfl, rfl⟩
  · exact ⟨rfl, rfl⟩

theorem relayNotice_ix (k o n) (s : State) : (relayNotice k o n s).ix = s.ix ∧ (relayNotice k o n s).lc.outcomeSlot = s.lc.outcomeSlot := by
  unfold relayNotice
  split
  · exact ⟨rfl, rfl⟩
  · split
    · exact ⟨rfl, rfl⟩
    · split
      · unfold unbalanceNotice; split <;> simp [rejudge, abandonCapture_ix, State.modEntry]
      · exact ⟨rfl, rfl⟩
/-- R164: an own intent of the stage that is left after its notice is COMMITTED. -/
theorem changeStage_own (k : StageId) (new) (s : State) (i : Intent) (h : (changeStage k new s).ix.own = some i) : s.ix.own = some i ∧ (i.stage = k → i.phase = .committed) := by
  unfold changeStage stageNotice rejudge exchangeNotice at h
  dsimp only at h
  rw [(relayNotice_ix ..).1, trigger_ix] at h
  split at h
  · rename_i j hj
    split at h
    · rename_i hk
      rcases withdraw_own .stageChanged (relayNotice k (s.stage k).state new (trigger (s.moveStage k new))) with h1 | ⟨h1, h2⟩
      · rw [h1] at h; cases h
      · rw [h1, (relayNotice_ix ..).1, trigger_ix] at h; 
        rw [hj] at h; cases h
        exact ⟨hj, fun _ => h2 i (by rw [(relayNotice_ix ..).1, trigger_ix]; exact hj)⟩
    · rename_i hk; rw [(relayNotice_ix ..).1, trigger_ix, hj] at h; cases h; exact ⟨hj, fun e => absurd e hk⟩
  · rename_i hn; rw [(relayNotice_ix ..).1, trigger_ix] at h; rw [hn] at h; cases h
/-- R164: without an own intent of the stage its notice leaves the OUTCOME slot. -/
theorem changeStage_outcomeSlot (k : StageId) (new) (s : State) (hn : ∀ i, s.ix.own = some i → i.stage ≠ k) : (changeStage k new s).lc.outcomeSlot = s.lc.outcomeSlot := by
  unfold changeStage stageNotice rejudge exchangeNotice
  dsimp only
  rw [(relayNotice_ix ..).1, trigger_ix]
  split
  · rename_i j hj
    rw [if_neg (hn j hj), (relayNotice_ix ..).2]; simp [State.moveStage]
  · rw [(relayNotice_ix ..).2]; simp [State.moveStage]

/-! ### A change of one stage with its report -/

/-- R51, R52: the change of a stage's state and the report of its operation, on a state whose chain is apart: the
stage's record, the lists, the OUTCOME; no step becomes due. -/
theorem report_changeStage (k : StageId) (s : State) (f : Stage → Stage) (new : StageState) (r : SwitchReport)
    (hr : r.stage = k) (hf : (f (s.stage k)).state = (s.stage k).state) (hc : ChainApart k s) :
    let t := report r (changeStage k new (s.modStage k f))
    settleDue t = t ∧ t.stage k = (f (s.stage k)).moved new ∧ OtherStages k s t ∧
    t.ready = relist .ready k (s.stage k).state new s.ready ∧
    t.inService = relist .closed k (s.stage k).state new s.inService ∧
    t.lc.outcomeSlot = some (reportContent r) ∧ SwitchFrame s t := by
  intro t
  have h0 : (changeStage k new (s.modStage k f)).oi.chain = s.oi.chain := changeStage_chain ..
  have hch : t.oi.chain = s.oi.chain := by
    have := report_chain_apart r (changeStage k new (s.modStage k f)) (by rw [hr]; exact hc.congr h0)
    exact this.trans h0
  have fr := report_frame r (changeStage k new (s.modStage k f))
  refine ⟨settleDue_of_not_due (by rw [stepDue_congr hch]; exact hc.notDue), ?_, ?_, ?_, ?_, report_outcomeSlot .., ?_⟩
  · exact (fr.stage k).trans (changeStage_stage ..)
  · intro j hj; exact (fr.stage j).trans (changeStage_others k new f s j hj)
  · exact fr.ready.trans (changeStage_ready _ _ _ _ hf)
  · exact fr.inService.trans (changeStage_inService _ _ _ _ hf)
  · exact ((modStage_frame _ _ _ hf).trans (changeStage_frame ..)).trans fr.toSwitchFrame

end Sys2Proof.Machine
end

