-- ==== Sys2Proof/Laws/Chains.lean ====
section
/-! SUPPORT. What one event makes of the chain record (R192, R193), and that serving its steps of delay 0 comes to an end: a
settled event serves no step more. -/

namespace Sys2Proof.Machine

/-- What switching events make of a chain: it stays, it ends, or the step in flight gives way to the next one. -/
def Advances (a b : Option Chain) : Prop :=
  b = a ∨ b = none ∨ ∃ c d, a = some c ∧ b = some d ∧ c.operating = true ∧ d.operating = false ∧
    d.steps = c.steps ∧ d.index = c.index + 1

theorem Advances.trans {a b c : Option Chain} (h : Advances a b) (h' : Advances b c) : Advances a c := by
  rcases h' with rfl | rfl | ⟨x, y, rfl, rfl, hx, hy, hs, hi⟩
  · exact h
  · exact .inr (.inl rfl)
  · rcases h with rfl | h | ⟨p, q, rfl, hq, hp, hq', _⟩
    · exact .inr (.inr ⟨x, y, rfl, rfl, hx, hy, hs, hi⟩)
    · cases h
    · cases hq; rw [hx] at hq'; cases hq'

theorem report_advances (r : SwitchReport) (s : State) : Advances s.oi.chain (report r s).oi.chain := by
  have hc : (settleOrder r (controllerReport r (exchangeReport r s))).oi.chain = s.oi.chain := by
    simp [settleOrder_keeps, controllerReport_keeps, exchangeReport, placeOutcome]
  unfold report
  generalize settleOrder r (controllerReport r (exchangeReport r s)) = t at hc
  rw [← hc]
  unfold settleChain
  split
  · exact .inl rfl
  · rename_i c hch
    split
    · exact .inl rfl
    · split
      · rename_i hop
        simp only [Bool.and_eq_true] at hop
        split
        · exact .inr (.inl (by simp [endChain, removeCause_keeps, writeOrder]))
        · split
          · refine .inr (.inr ⟨c, { c with
              index := c.index + 1, operating := false
              delay := match c.steps[c.index]? with | some st => st.delay | none => 0 }, hch, ?_, hop.1, rfl, rfl, rfl⟩)
            unfold advanceChain
            dsimp only
            split
            · exact writeOrder_chain ..
            · rfl
          · exact .inr (.inl (by simp [endChain, removeCause_keeps, writeOrder]))
      · exact .inl rfl

theorem changeStage_advances (k : StageId) (new : StageState) (s : State) :
    Advances s.oi.chain (changeStage k new s).oi.chain := .inl (changeStage_chain k new s)

theorem issueOpen_advances (k : StageId) (cause : Cause) (n : Nat) (s : State) :
    Advances s.oi.chain (issueOpen k cause n s).oi.chain := by
  unfold issueOpen completeOpen
  dsimp only
  split
  · refine Advances.trans ?_ (report_advances ..)
    refine Advances.trans ?_ (changeStage_advances ..)
    exact changeStage_advances k .opening (s.modStage k _)
  · exact changeStage_advances k .opening (s.modStage k _)

theorem actOpen_advances (k : StageId) (cause : Cause) (n : Nat) (s : State) :
    Advances s.oi.chain (actOpen k cause n s).oi.chain := by
  unfold actOpen
  split
  · exact issueOpen_advances ..
  · split <;> exact .inl rfl
  · split <;> exact .inl rfl
  · split
    · exact issueOpen_advances ..
    · exact .inl rfl
  · exact .inl rfl

theorem deadLineNotice_advances (k : StageId) (s : State) : Advances s.oi.chain (deadLineNotice k s).oi.chain := by
  unfold deadLineNotice requestOpen
  split
  · split
    · exact .inl rfl
    · exact actOpen_advances ..
  · exact .inl rfl

theorem issueClose_advances (k : StageId) (cause : Cause) (n : Nat) (s : State) :
    Advances s.oi.chain (issueClose k cause n s).oi.chain := by
  unfold issueClose completeClose
  dsimp only
  split
  · refine Advances.trans ?_ (deadLineNotice_advances ..)
    refine Advances.trans ?_ (report_advances ..)
    refine Advances.trans ?_ (changeStage_advances ..)
    exact changeStage_advances k .closing ((s.addDuty k).modStage k _)
  · exact changeStage_advances k .closing ((s.addDuty k).modStage k _)

theorem actRequest_advances (dir : Direction) (k : StageId) (cause : Cause) (s : State) :
    Advances s.oi.chain (actRequest dir k cause s).oi.chain := by
  unfold actRequest
  split
  · exact issueClose_advances ..
  · exact actOpen_advances ..

/-- The steps that a chain may still have to serve. -/
def State.stepsLeft (s : State) : Nat :=
  match s.oi.chain with
  | none => 0
  | some c => c.steps.length + 1 - c.index

/-- R193: serving a due step leaves none due, or leaves fewer steps, or there was no step at the chain's index. -/
theorem serveStep_ends (s : State) (h : s.stepDue = true) :
    (serveStep s).stepDue = false ∨ (serveStep s).stepsLeft < s.stepsLeft ∨ serveStep s = s := by
  unfold State.stepDue at h
  unfold serveStep
  cases hc : s.oi.chain with
  | none => simp [hc] at h
  | some c =>
    simp only [hc, Bool.and_eq_true, Bool.not_eq_true', beq_iff_eq] at h
    dsimp only
    cases hst : c.current with
    | none => exact .inr (.inr rfl)
    | some st =>
      have hlen : c.index - 1 < c.steps.length := by
        unfold Chain.current at hst
        exact (List.getElem?_eq_some_iff.mp hst).1
      have ended : ∀ r t, (endChain c (.refused r) t).stepDue = false := by
        intro r t; simp [State.stepDue, endChain, removeCause_keeps, writeOrder]
      dsimp only
      rw [if_neg (by simp [h.1])]
      unfold serveSwitch
      split
      · exact .inl (ended ..)
      · dsimp only
        split
        · exact .inl (ended ..)
        · rename_i hn
          have hk : ∃ k, stageOf (pruneRequest s st.dir st.stage).settings.stageCount st.stage = some k := by
            unfold requestRefusal at hn
            split at hn
            · unfold closeTest at hn; split at hn
              · split at hn <;> cases hn
              · exact ⟨_, by assumption⟩
            · unfold openRefusal at hn; split at hn
              · cases hn
              · exact ⟨_, by assumption⟩
          obtain ⟨k, hk⟩ := hk
          simp only [hk]
          have ha := actRequest_advances st.dir k .sequence
            { pruneRequest s st.dir st.stage with oi.chain := some { c with operating := true } }
          revert ha
          generalize actRequest st.dir k .sequence _ = t
          rintro (ha | ha | ⟨x, y, hx, hy, _, _, hs, hi⟩)
          · exact .inl (by simp [State.stepDue, ha])
          · exact .inl (by simp [State.stepDue, ha])
          · cases hx
            refine .inr (.inl ?_)
            simp only [State.stepsLeft, hy, hc, hs, hi]
            omega

/-- R192: once the steps that may be left have been served, none is due that would be served. -/
theorem serveDue_enough (n : Nat) (s : State) (h : s.stepsLeft ≤ n) : serveDue (n + 1) s = serveDue n s := by
  induction n generalizing s with
  | zero =>
    simp only [serveDue]
    split
    · rename_i hd
      rcases serveStep_ends s hd with h1 | h1 | h1
      · unfold State.stepsLeft at h
        unfold serveStep
        cases hc : s.oi.chain with
        | none => rfl
        | some c =>
          simp only [hc] at h
          have : c.current = none := by unfold Chain.current; rw [List.getElem?_eq_none_iff]; omega
          simp [this]
      · omega
      · exact h1
    · rfl
  | succ n ih =>
    rw [serveDue, serveDue.eq_2 s n]
    split
    · rename_i hd
      rcases serveStep_ends s hd with h1 | h1 | h1
      · cases n <;> simp [serveDue, h1]
      · exact ih _ (by omega)
      · rw [h1]
        have stuck : ∀ m, serveDue m s = s := by
          intro m
          induction m with
          | zero => rfl
          | succ m ihm => simp [serveDue, h1, ihm]
        rw [stuck, stuck]
    · rfl

/-- R192: at the end of an event, one due step served and the rest settled is the whole settled. -/
theorem settleDue_serveStep (s : State) (h : s.stepDue = true) (hl : s.stepsLeft ≤ 6) : settleDue s = settleDue (serveStep s) := by
  unfold settleDue
  rw [← serveDue_enough 6 s hl]
  simp [serveDue, h]

end Sys2Proof.Machine
end

