-- ==== Sys2Proof/Laws/Contacts.lean ====
section
/-! SUPPORT. What a change of the position contacts of one stage, of one of them or of both, hands to the Stage Supervisor
(R27, R28). -/

namespace Sys2Proof.Machine

variable {k : StageId} {changed : BitVec 13} {p : Position} {s : State}

/-- The change set of a travel names position contacts of its stage alone, and at least one of the two. -/
theorem Travel.changes (h : Travel k changed p s) (j : StageId) (c : Contact) :
    s.changes changed j c = (decide (j = k) && c != .attention && changed.getLsbD (inputBit k c)) := by
  have hk := h.configured
  unfold State.changes
  rcases h.contacts with hc | hc | hc <;> subst hc <;>
    cases k <;> cases j <;> cases c <;> simp_all +decide [inputBit, StageId.num, oneContact, bothContacts]

theorem Travel.some_change (h : Travel k changed p s) :
    changed.getLsbD (inputBit k .closed) = true ∨ changed.getLsbD (inputBit k .opened) = true := by
  rcases h.contacts with hc | hc | hc <;> subst hc <;> cases k <;> decide

theorem Travel.no_block (h : Travel k changed p s) : changed.getLsbD blockBit = false := by
  rcases h.contacts with hc | hc | hc <;> subst hc <;> cases k <;> rfl

/-- R27: the named contacts take the other state, and no other input changes. -/
theorem Travel.inputs (h : Travel k changed p s) (j : StageId) :
    (takeInputs changed s).inputs.get j = if j = k then { s.inputs.get j with
      closed := (s.inputs.get j).closed.flipIf (changed.getLsbD (inputBit k .closed))
      opened := (s.inputs.get j).opened.flipIf (changed.getLsbD (inputBit k .opened)) } else s.inputs.get j := by
  unfold takeInputs
  have hp : s.probing = false := by simp [State.probing, h.running]
  simp only [Four.get_ofFn, h.changes]
  by_cases hj : j = k
  · subst hj; simp [StageInputs.change, Debounced.flipIf, hp]
  · simp [hj, StageInputs.change, Debounced.flipIf, hp]

theorem Travel.block (h : Travel k changed p s) : (takeInputs changed s).block = s.block := by
  simp [takeInputs, h.no_block, Debounced.flipIf]

/-- R28: the other stages stand where they stood. -/
theorem Travel.others (h : Travel k changed p s) {j : StageId} (hj : j ≠ k) :
    (takeInputs changed s).position j = s.position j := by
  simp only [State.position, h.inputs, hj, if_false]

/-- R28: the stage stood elsewhere before. -/
theorem Travel.moved (h : Travel k changed p s) : s.position k ≠ p := by
  rw [← h.arrives]
  simp only [State.position, h.inputs, if_true, StageInputs.position]
  rcases h.some_change with hc | hc <;> rw [hc] <;>
    rcases (s.inputs.get k).closed with ⟨_ | _, _⟩ <;> rcases (s.inputs.get k).opened with ⟨_ | _, _⟩ <;>
    cases changed.getLsbD (inputBit k .closed) <;> cases changed.getLsbD (inputBit k .opened) <;>
    simp_all [Debounced.flipIf, derivePosition]

/-- R28, R44: a travel hands the one position that changed. -/
theorem Travel.exec (h : Travel k changed p s) :
    exec (.contactChange changed) s = .next (settleDue (positionChange k p (takeInputs changed s))) := by
  have hw : s.watchingInputs = true := by simp [State.watchingInputs, h.running]
  simp only [Machine.exec, execContactChange, hw, if_true, contactChange, h.no_block, Bool.false_eq_true, if_false]
  congr 2
  unfold handPositions
  have hrun : (takeInputs changed s).running = true := by simp [State.running, takeInputs, h.running]
  rw [if_pos hrun]
  have hpos : ∀ j, j ≠ k → (takeInputs changed s).position j = s.position j := fun j hj => h.others hj
  have hpk : (takeInputs changed s).position k ≠ s.position k := by rw [h.arrives]; exact h.moved.symm
  have harr := h.arrives
  generalize hu : takeInputs changed s = u at *
  have hids : u.stageIds = s.stageIds := by rw [← hu]; rfl
  rw [hids]
  have hm : k ∈ s.stageIds := by
    simp only [State.stageIds, List.mem_filter]
    exact ⟨by cases k <;> simp [StageId.all], h.configured⟩
  have hnd : s.stageIds.Nodup := by simp only [State.stageIds]; exact List.Nodup.filter _ (by decide)
  have key : ∀ l : List StageId, l.Nodup → ∀ v : State, v.inputs = u.inputs →
      (k ∉ l → l.foldl (fun acc j => handPosition (s.position j) j acc) v = v) ∧
      (k ∈ l → l.foldl (fun acc j => handPosition (s.position j) j acc) v = positionChange k (u.position k) v) := by
    intro l
    induction l with
    | nil => intro _ v hv; exact ⟨fun _ => rfl, fun h => by simp at h⟩
    | cons j l ih =>
      intro hnd v hv
      have hvp : ∀ i, v.position i = u.position i := fun i => by simp only [State.position, hv]
      rw [List.nodup_cons] at hnd
      refine ⟨fun hkl => ?_, fun hkl => ?_⟩
      · simp only [List.mem_cons, not_or] at hkl
        have : handPosition (s.position j) j v = v := by
          unfold handPosition; rw [if_pos]; rw [hvp]; exact hpos j (fun h => hkl.1 h.symm)
        simp only [List.foldl_cons, this]
        exact (ih hnd.2 v hv).1 hkl.2
      · by_cases hj : j = k
        · subst hj
          have : handPosition (s.position j) j v = positionChange j (u.position j) v := by
            unfold handPosition; rw [if_neg]; rw [hvp]; rw [hvp]; exact hpk
          simp only [List.foldl_cons, this]
          exact (ih hnd.2 _ (by rw [(positionChange_frame ..).inputs]; exact hv)).1 hnd.1
        · have : handPosition (s.position j) j v = v := by
            unfold handPosition; rw [if_pos]; rw [hvp]; exact hpos j hj
          simp only [List.foldl_cons, this]
          exact (ih hnd.2 v hv).2 (by simp only [List.mem_cons] at hkl; rcases hkl with h | h; exact absurd h.symm hj; exact h)
  rw [(key _ hnd u rfl).2 hm, harr]

end Sys2Proof.Machine
end

