-- ==== Sys2Proof/Laws/Cycle.lean ====
section
/-! SUPPORT. The operations of a cycle, of the start, of the frame interpreter and of the own intent keep the Stage
Supervisor's invariant, one lemma for each. -/

namespace Sys2Proof.Machine

theorem foldl_safe {α} (f : State → α → State) (hf : ∀ s a, StagesSafe s → StagesSafe (f s a)) (l : List α) :
    ∀ s, StagesSafe s → StagesSafe (l.foldl f s) := by
  induction l with
  | nil => intro s h; exact h
  | cons a l ih => intro s h; exact ih _ (hf _ _ h)

/-- What leaves the stage records, the lists, the settings and the phase alone keeps the invariant. -/
theorem safe_of {s t : State} (hs : StagesSafe s) (h1 : t.phase = s.phase) (h2 : t.stages = s.stages)
    (h3 : t.ready = s.ready) (h4 : t.inService = s.inService) (h5 : t.settings = s.settings) : StagesSafe t := by
  have hst : ∀ k, t.stage k = s.stage k := fun k => by simp [State.stage, h2]
  refine ⟨fun k => by rw [h1, hst]; exact hs.each k, ⟨fun k => ?_, fun k => ?_, by rw [h3]; exact hs.lists.readyOnce,
    by rw [h4]; exact hs.lists.inServiceOnce⟩, fun k hk => ?_, fun j k hj hk => ?_⟩
  · rw [h3, hst]; exact hs.lists.ready k
  · rw [h4, hst]; exact hs.lists.inService k
  · rw [hst] at hk; simpa only [State.configured, h5] using hs.configured k hk
  · rw [hst] at hj hk; exact hs.oneClosing j k hj hk

/-- While every stage is ABSENT and the lists are empty, only the outputs and operations matter. -/
theorem safe_of_absent {t : State} (h1 : ∀ k, (t.stage k).state = .absent)
    (h2 : ∀ k, (t.stage k).closeOut = false ∧ (t.stage k).op = none)
    (h3 : ∀ k, (t.stage k).openOut = true → t.phase = .fallback) (h4 : t.ready = []) (h5 : t.inService = []) :
    StagesSafe t where
  each k := ⟨fun h => by simp [h2] at h, fun h => .inr (h3 k h), by simp [h1, h2], by simp [h1], fun _ => h1 k⟩
  lists := ⟨fun k => by simp [h1, h4], fun k => by simp [h1, h5], by simp [h4], by simp [h5]⟩
  configured k hk := absurd (h1 k) hk
  oneClosing j k hj _ := by simp [h1] at hj

/-- In an ABSENT stage no operation is present and the close output is off. -/
theorem StageSafe.absent_clear {p : Phase} {r : Stage} (h : StageSafe p r) (ha : r.state = .absent) :
    r.closeOut = false ∧ r.op = none := by
  have h1 := h.oper
  refine ⟨?_, by simpa [ha] using h1⟩
  cases hc : r.closeOut
  · rfl
  · have := h.closeOut hc; simp [ha] at this

theorem cleared_safe (s : State) : StagesSafe (cleared s) := by
  have hst : ∀ k, (cleared s).stage k = Stage.start := fun k => by simp [State.stage, State.reset]
  exact safe_of_absent (fun k => by rw [hst]; rfl) (fun k => by rw [hst]; exact ⟨rfl, rfl⟩)
    (fun k h => by rw [hst] at h; cases h) rfl rfl

theorem beginStart_safe (st : Strap) (s : State) : StagesSafe (beginStart st s) := by
  have hst : ∀ k, (beginStart st s).stage k = Stage.start := fun k => by simp [State.stage, beginStart, State.reset]
  exact safe_of_absent (fun k => by rw [hst]; rfl) (fun k => by rw [hst]; exact ⟨rfl, rfl⟩)
    (fun k h => by rw [hst] at h; cases h) rfl rfl

theorem absent_of_reading {s : State} (hs : StagesSafe s) (h : s.isReading = true) (k : StageId) :
    (s.stage k).state = .absent := by
  apply (hs.each k).start
  unfold State.isReading at h
  split at h
  · simp_all
  · simp at h

theorem lists_empty {s : State} (hs : StagesSafe s) (h : ∀ k, (s.stage k).state = .absent) : s.ready = [] ∧ s.inService = [] := by
  constructor
  · apply List.eq_nil_iff_forall_not_mem.2
    intro k hk
    have := (hs.lists.ready k).1 hk
    simp [h] at this
  · apply List.eq_nil_iff_forall_not_mem.2
    intro k hk
    have := (hs.lists.inService k).1 hk
    simp [h] at this

theorem enterFallback_safe {s : State} (hs : StagesSafe s) (h : s.isReading = true) : StagesSafe (enterFallback s) := by
  have ha := absent_of_reading hs h
  have hl := lists_empty hs ha
  have hst : ∀ k, (enterFallback s).stage k = { s.stage k with openOut := true, closeOut := false } := fun k => by
    simp [enterFallback, State.stage]
  exact safe_of_absent (fun k => by rw [hst]; exact ha k)
    (fun k => by rw [hst]; exact ⟨rfl, ((hs.each k).absent_clear (ha k)).2⟩) (fun _ _ => rfl) hl.1 hl.2

theorem installSettings_safe {s : State} (hs : StagesSafe s) (h : s.isReading = true) (c : Settings) :
    StagesSafe (installSettings c s) := by
  have ha := absent_of_reading hs h
  have hl := lists_empty hs ha
  have hne : s.phase ≠ .fallback := by
    intro hf; simp [State.isReading, hf] at h
  refine safe_of_absent ha (fun k => (hs.each k).absent_clear (ha k)) (fun k ho => ?_) hl.1 hl.2
  rcases (hs.each k).openOut ho with h2 | h2
  · have := ha k; rw [h2] at this; cases this
  · exact absurd h2 hne

theorem fallbackEnd_safe {s : State} (hs : StagesSafe s) : StagesSafe { s with
      fallbackPulse := none
      stages := .ofFn fun k => { s.stages.get k with openOut := false } } := by
  refine ⟨fun k => ?_, ⟨fun k => ?_, fun k => ?_, hs.lists.readyOnce, hs.lists.inServiceOnce⟩, fun k hk => ?_,
    fun j k hj hk => ?_⟩
  · have := hs.each k
    simp only [State.stage, Four.get_ofFn] at *
    exact ⟨this.closeOut, fun h => by simp at h, this.oper, this.rested, this.start⟩
  · have := hs.lists.ready k
    simp only [State.stage, Four.get_ofFn] at *
    exact this
  · have := hs.lists.inService k
    simp only [State.stage, Four.get_ofFn] at *
    exact this
  · exact hs.configured k (by simpa [State.stage] using hk)
  · exact hs.oneClosing j k (by simpa [State.stage] using hj) (by simpa [State.stage] using hk)

theorem probeState_cases (i : StageInputs) : probeState i = .absent ∨ probeState i = .closed ∨ probeState i = .discharging ∨
    probeState i = .fault (.discrepancy false) := by
  unfold probeState; split
  · split <;> simp
  · simp

theorem arm_safe {s : State} (hs : StagesSafe s) : StagesSafe (arm s) := by
  unfold arm
  exact (refreshAccess_frame _).safe (by exact safe_of hs rfl rfl rfl rfl rfl)

theorem endProbe_safe {s : State} (hs : StagesSafe s) (n : Nat) (h : s.phase = .probing n) : StagesSafe (endProbe s) := by
  have ha : ∀ k, (s.stage k).state = .absent := fun k => (hs.each k).start (by simp [h])
  have hl := lists_empty hs ha
  unfold endProbe
  refine arm_safe ?_
  have ho : ∀ k, (s.stage k).closeOut = false ∧ (s.stage k).openOut = false ∧ (s.stage k).op = none := fun k => by
    have h1 := hs.each k
    refine ⟨?_, ?_, ?_⟩
    · cases hc : (s.stage k).closeOut; rfl; have := h1.closeOut hc; simp [ha] at this
    · cases hc : (s.stage k).openOut; rfl; have := h1.openOut hc; simp [ha, h] at this
    · have := h1.oper; simp [ha] at this; simpa using this
  have hcl : ∀ k, (if s.configured k = true then probeStage (s.cfg k) (s.inputs.get k) (s.stages.get k)
      else s.stages.get k).state ≠ .closing := fun k => by
    split
    · rcases probeState_cases (s.inputs.get k) with hp | hp | hp | hp <;> simp [probeStage, hp]
    · have := ha k; simp only [State.stage] at this; simp [this]
  refine ⟨fun k => ?_, ⟨fun k => ?_, fun k => ?_, ?_, ?_⟩, fun k hk => ?_, fun j k hj hk => ?_⟩
  · simp only [State.stage, Four.get_ofFn]
    have ho' := ho k
    have ha' := ha k
    simp only [State.stage] at ho' ha'
    by_cases hc : s.configured k
    · simp only [hc, if_true]
      unfold probeStage
      rcases probeState_cases (s.inputs.get k) with hp | hp | hp | hp <;>
        (constructor <;> simp_all)
    · simp only [hc]
      constructor <;> simp_all
  · simp only [State.stage, Four.get_ofFn, hl.1]
    have ha' := ha k
    simp only [State.stage] at ha'
    by_cases hc : s.configured k
    · simp only [hc, if_true, probeStage]
      rcases probeState_cases (s.inputs.get k) with hp | hp | hp | hp <;> simp [hp]
    · simp [hc, ha']
  · simp only [State.stage, Four.get_ofFn]
    have ha' := ha k
    simp only [State.stage] at ha'
    simp only [List.mem_filter, State.stageIds]
    have hmem : k ∈ StageId.all := by cases k <;> simp [StageId.all]
    by_cases hc : s.configured k
    · simp only [State.configured] at hc
      simp [hc, hmem, probeStage, State.configured] 
    · simp only [State.configured] at hc
      simp [hc, ha', State.configured]
  · simp [hl.1]
  · simp only [State.stageIds]
    apply List.Nodup.filter
    apply List.Nodup.filter
    decide
  · simp only [State.stage, Four.get_ofFn] at hk
    have ha' := ha k
    simp only [State.stage] at ha'
    by_contra hc
    exact hk (by rw [if_neg (by exact hc)]; exact ha')
  · simp only [State.stage, Four.get_ofFn] at hj
    exact absurd hj (hcl j)



theorem serveReset_safe {s : State} (hs : StagesSafe s) (o : Order) : StagesSafe (serveReset o s) := by
  unfold serveReset
  split
  · exact (refuseOrder_frame ..).safe hs
  · rename_i h
    split
    · rename_i k hk
      exact (writeOrder_frame ..).safe (resetStage_safe hs k (resetRefusal_none h hk))
    · exact hs

theorem serveCapture_safe {s : State} (hs : StagesSafe s) (o : Order) : StagesSafe (serveCapture o s) := by
  unfold serveCapture
  split
  · exact (refuseOrder_frame ..).safe hs
  · split
    · exact (writeOrder_frame ..).safe (by exact safe_of hs rfl rfl rfl rfl rfl)
    · exact hs

theorem judgePanel_safe {s : State} (hs : StagesSafe s) (f : Frame) : StagesSafe (judgePanel f s).1 := by
  unfold judgePanel; dsimp only; split
  · exact (by exact safe_of hs rfl rfl rfl rfl rfl)
  · exact hs

theorem numberClash_safe {s : State} (hs : StagesSafe s) : StagesSafe (numberClash s) := by
  unfold numberClash triggerIf
  split
  · exact (trigger_frame _).safe (by exact safe_of hs rfl rfl rfl rfl rfl)
  · exact (by exact safe_of hs rfl rfl rfl rfl rfl)

theorem judgeYard_safe {s : State} (hs : StagesSafe s) (f : Frame) : StagesSafe (judgeYard f s).1 := by
  have h1 : StagesSafe (removeHeard f.sender s) := (by exact safe_of hs rfl rfl rfl rfl rfl)
  unfold judgeYard
  split
  · exact numberClash_safe hs
  · dsimp only
    split
    · split
      · exact h1
      · exact hs
    · split
      · split
        · exact (by exact safe_of h1 rfl rfl rfl rfl rfl)
        · exact (by exact safe_of hs rfl rfl rfl rfl rfl)
      · split
        · exact (by exact safe_of hs rfl rfl rfl rfl rfl)
        · exact hs

theorem takeHead_safe {s : State} (hs : StagesSafe s) (w : Taken) (act : Frame → State → State)
   (h : ∀ f t, StagesSafe t → StagesSafe (act f t)) : StagesSafe (takeHead w act s) := by
  unfold takeHead
  split
  · exact safe_of (h _ _ hs) rfl rfl rfl rfl rfl
  · exact hs

theorem takePanel_safe (serve : Order → State → State) (h : ∀ o t, StagesSafe t → StagesSafe (serve o t)) (f : Frame) {s : State} (hs : StagesSafe s) :
   StagesSafe (takePanel serve f s) := by
  unfold takePanel
  have := judgePanel_safe hs f
  split
  · rename_i s1 he; rw [he] at this
    unfold judgeOrder
    split
    · split
      · split
        · exact h _ _ this
        · exact (refuseOrder_frame ..).safe this
      · exact (refuseOrder_frame ..).safe this
    · exact this
  · rename_i s1 he; rw [he] at this; exact this

theorem takeYard_safe (take : Frame → State → State) (h : ∀ o t, StagesSafe t → StagesSafe (take o t)) (f : Frame) {s : State} (hs : StagesSafe s) :
   StagesSafe (takeYard take f s) := by
  unfold takeYard
  have := judgeYard_safe hs f
  split
  · rename_i s1 he; rw [he] at this; exact h _ _ this
  · rename_i s1 he; rw [he] at this; exact this

theorem takeOrder_safe (n : Nat) (serve : Order → State → State) (h : ∀ o t, StagesSafe t → StagesSafe (serve o t)) {s : State} (hs : StagesSafe s) :
   StagesSafe (takeOrder n serve s) := takeHead_safe hs _ _ fun f _ ht => takePanel_safe serve h f ht

theorem serveSequence_safe {s : State} (hs : StagesSafe s) (o : Order) : StagesSafe (serveSequence o s) := by
  unfold serveSequence
  split
  · exact (refuseOrder_frame ..).safe hs
  · exact (writeOrder_frame ..).safe ((addCause_frame ..).safe (by exact safe_of hs rfl rfl rfl rfl rfl))

theorem serveStop_safe {s : State} (hs : StagesSafe s) (o : Order) : StagesSafe (serveStop o s) := by
  unfold serveStop
  split
  · exact (endChain_frame ..).safe hs
  · exact (refuseOrder_frame ..).safe hs

theorem num_inj {j k : StageId} (h : j.num = k.num) : j = k := by
  cases j <;> cases k <;> first | rfl | cases h

theorem commit_safe {s : State} (hs : StagesSafe s) (i : Intent) : StagesSafe (commit i s) := by
  unfold commit
  dsimp only
  have h1 : StagesSafe (pruneRequest { s with ix.own := some { i with phase := .committed } } i.dir i.stage.num) :=
    pruneRequest_safe (by exact safe_of hs rfl rfl rfl rfl rfl) _ _
  split
  · exact (withdrawCommitted_frame ..).safe h1
  · rename_i hc
    unfold actCommitted
    unfold commitRefusal at hc
    dsimp only
    split
    · rename_i hd
      split at hc
      · obtain ⟨k, hk, hp⟩ := closeTest_none hc
        have : k = i.stage := num_inj (stageOf_some hk).1
        subst this
        refine issueClose_safe ?_ _ _ _ ?_ ?_
        · exact safe_of h1 rfl rfl rfl rfl rfl
        · exact hp.ready
        · exact hp.noClosing h1
      · rename_i hd'; rw [hd] at hd'; cases hd'
    · exact actOpen_safe (by exact safe_of h1 rfl rfl rfl rfl rfl) _ _ _

/-! ### A cycle -/

theorem declareDead_safe {s : State} (hs : StagesSafe s) (l : List StageId) : StagesSafe (declareDead l s) := by
  unfold declareDead
  refine (chainDeadLine_frame _).safe ?_
  refine foldl_safe _ (fun s a h => requestOpen_safe h _ _ _) _ _ ?_
  exact (trigger_frame _).safe ((addCause_frame ..).safe (by exact safe_of hs rfl rfl rfl rfl rfl))

theorem deadLineTest_safe {s : State} (hs : StagesSafe s) (l : List StageId) : StagesSafe (deadLineTest l s) := by
  unfold deadLineTest
  split
  · extract_lets n; split
    · unfold endDead; exact (trigger_frame _).safe ((removeCause_frame ..).safe (by exact safe_of hs rfl rfl rfl rfl rfl))
    · exact (by exact safe_of hs rfl rfl rfl rfl rfl)
  · extract_lets n; split
    · exact declareDead_safe hs _
    · exact (by exact safe_of hs rfl rfl rfl rfl rfl)

theorem ovw_safe {s : State} (hs : StagesSafe s) : StagesSafe (overvoltageWithdraw s) := by
  unfold overvoltageWithdraw
  split
  · split
    · exact (withdraw_frame ..).safe hs
    · exact hs
  · exact hs

theorem fastOpen_safe {s : State} (hs : StagesSafe s) (l : List StageId) : StagesSafe (fastOpen l s) := by
  unfold fastOpen
  split
  · exact requestOpen_safe hs _ _ _
  · exact hs

theorem fastOvTest_safe {s : State} (hs : StagesSafe s) (l : List StageId) : StagesSafe (fastOvTest l s) := by
  unfold fastOvTest
  split
  · split
    · split
      · exact ovw_safe (fastOpen_safe (by exact safe_of hs rfl rfl rfl rfl rfl) _)
      · exact (by exact safe_of hs rfl rfl rfl rfl rfl)
    · split
      · exact ovw_safe (fastOpen_safe (by exact safe_of hs rfl rfl rfl rfl rfl) _)
      · exact ovw_safe (by exact safe_of hs rfl rfl rfl rfl rfl)
  · exact (by exact safe_of hs rfl rfl rfl rfl rfl)

theorem raiseWalk_safe (l : List StageId) : ∀ {s : State}, StagesSafe s → StagesSafe (raiseWalk l s).1 ∧
    (∀ k, (raiseWalk l s).2.1 = some k → ((raiseWalk l s).1.stage k).state = .ready ∧
      ∀ j, ((raiseWalk l s).1.stage j).state ≠ .closing) := by
  induction l with
  | nil => intro s hs; exact ⟨hs, by simp [raiseWalk]⟩
  | cons k l ih =>
    intro s hs
    unfold raiseWalk
    dsimp only
    split
    · rename_i h
      refine ⟨prune_safe hs k, ?_⟩
      intro k' hk'
      simp only [Option.some.injEq] at hk'
      subst hk'
      obtain ⟨j, hj, hp⟩ := closeTest_none h
      have : j = k := num_inj (stageOf_some hj).1
      subst this
      exact ⟨hp.ready, hp.noClosing (prune_safe hs _)⟩
    · have := ih (prune_safe hs k)
      revert this
      generalize raiseWalk l (s.prune k) = x
      obtain ⟨a, b, c⟩ := x
      simp

theorem demandRaise_safe {s : State} (hs : StagesSafe s) : StagesSafe (demandRaise s) := by
  unfold demandRaise
  have := raiseWalk_safe (unblocked s s.ready) hs
  revert this
  generalize raiseWalk (unblocked s s.ready) s = x
  obtain ⟨a, b, c⟩ := x
  intro ⟨h1, h2⟩
  dsimp only at *
  split
  · rename_i heq; simp only [Prod.mk.injEq] at heq; obtain ⟨rfl, rfl, _⟩ := heq
    split
    · exact issueClose_safe (by exact safe_of h1 rfl rfl rfl rfl rfl) _ _ _ (h2 _ rfl).1 (h2 _ rfl).2
    · unfold propose; exact (placeIntent_frame ..).safe (by exact safe_of h1 rfl rfl rfl rfl rfl)
  · rename_i heq; simp only [Prod.mk.injEq] at heq; obtain ⟨rfl, rfl, _⟩ := heq
    exact (by exact safe_of h1 rfl rfl rfl rfl rfl)
  · rename_i heq; simp only [Prod.mk.injEq] at heq; obtain ⟨rfl, rfl, _⟩ := heq
    exact (by exact safe_of h1 rfl rfl rfl rfl rfl)

theorem demandLower_safe {s : State} (hs : StagesSafe s) : StagesSafe (demandLower s) := by
  unfold demandLower
  split
  · split
    · split
      · exact actOpen_safe (by exact safe_of hs rfl rfl rfl rfl rfl) _ _ _
      · exact (by exact safe_of hs rfl rfl rfl rfl rfl)
    · unfold propose; exact (placeIntent_frame ..).safe (by exact safe_of hs rfl rfl rfl rfl rfl)
  · exact (by exact safe_of hs rfl rfl rfl rfl rfl)

theorem demand_safe {s : State} (hs : StagesSafe s) : StagesSafe (demand s) := by
  unfold demand
  repeat' split
  all_goals first
    | with_reducible exact demandRaise_safe hs
    | with_reducible exact demandLower_safe hs
    | exact (by exact safe_of hs rfl rfl rfl rfl rfl)

theorem accumulate_safe {s : State} (hs : StagesSafe s) : StagesSafe (accumulate s) := by
  unfold accumulate
  split
  · exact demand_safe (by exact safe_of hs rfl rfl rfl rfl rfl)
  · exact hs

theorem shedTest_safe {s : State} (hs : StagesSafe s) (l) : StagesSafe (shedTest l s) := by
  unfold shedTest
  dsimp only
  split
  · split
    · exact requestOpen_safe (by exact safe_of hs rfl rfl rfl rfl rfl) _ _ _
    · exact hs
  · exact hs

theorem harmonicNotice_safe {s : State} (hs : StagesSafe s) (b) : StagesSafe (harmonicNotice b s) := by
  unfold harmonicNotice
  split
  · exact hs
  · exact (rejudge_frame _).safe ((trigger_frame _).safe hs)

theorem monitorCycle_safe {s : State} (hs : StagesSafe s) (l) : StagesSafe (monitorCycle l s) := by
  unfold monitorCycle
  split
  · exact hs
  · refine shedTest_safe ?_ _
    exact safe_of (harmonicNotice_safe (s := { s with hm := monitorAlarms s.settings s.store s.hm }) (by exact safe_of hs rfl rfl rfl rfl rfl) s.harmAlarm) rfl rfl rfl rfl rfl

theorem relayJudge_safe {s : State} (hs : StagesSafe s) : StagesSafe (relayJudge s) := (relayJudge_frame s).safe hs

theorem sendTrips_safe {s : State} (hs : StagesSafe s) (trips) : StagesSafe (sendTrips trips s) := by
  unfold sendTrips
  refine foldl_safe _ (fun s a h => ?_) _ _ hs
  split
  · exact requestTrip_safe h _ _
  · exact h

theorem evaluate_safe {s : State} (hs : StagesSafe s) (o) : StagesSafe (evaluate o s) := by
  unfold evaluate
  refine foldl_safe _ (fun s a h => ?_) _ _ (relayJudge_safe hs)
  unfold evaluateBlock
  split
  · exact accumulate_safe (fastOvTest_safe (deadLineTest_safe h _) _)
  · exact monitorCycle_safe h _
  · exact sendTrips_safe h _

theorem declareLost_safe {s : State} (hs : StagesSafe s) : StagesSafe (declareLost s) := by
  unfold declareLost controllerLost
  refine (rejudge_frame _).safe ((relayLost_frame _).safe ?_)
  exact safe_of ((addCause_frame .measLost { s with port.lost := true, port.recovery := 0 }).safe (by exact safe_of hs rfl rfl rfl rfl rfl)) rfl rfl rfl rfl rfl

theorem markedSet_safe {s : State} (hs : StagesSafe s) (w o) : StagesSafe (markedSet w o s) := by
  unfold markedSet
  dsimp only
  split
  · exact (by exact safe_of hs rfl rfl rfl rfl rfl)
  · split
    · unfold acceptCycle
      dsimp only
      split
      · split
        · unfold declareRecovered
          exact evaluate_safe ((rejudge_frame _).safe ((removeCause_frame ..).safe (by exact safe_of hs rfl rfl rfl rfl rfl))) _
        · exact (by exact safe_of hs rfl rfl rfl rfl rfl)
      · exact evaluate_safe (by exact safe_of hs rfl rfl rfl rfl rfl) _
    · unfold discardCycle
      dsimp only
      split
      · exact (by exact safe_of hs rfl rfl rfl rfl rfl)
      · split
        · exact declareLost_safe (by exact safe_of hs rfl rfl rfl rfl rfl)
        · exact (by exact safe_of hs rfl rfl rfl rfl rfl)

theorem contactChange_safe {s : State} (hs : StagesSafe s) (m) : StagesSafe (contactChange m s) := by
  have h1 : StagesSafe (handPositions s (takeInputs m s)) := by
    unfold handPositions
    split
    · refine foldl_safe _ (fun s a h => ?_) _ _ (by exact safe_of hs rfl rfl rfl rfl rfl)
      unfold handPosition
      split
      · exact h
      · exact positionChange_safe h _ _
    · exact (by exact safe_of hs rfl rfl rfl rfl rfl)
  unfold contactChange
  dsimp only
  split
  · unfold handBlock
    split
    · exact (addCause_frame ..).safe h1
    · exact (removeCause_frame ..).safe h1
  · exact h1

theorem startTransmission_safe {s : State} (hs : StagesSafe s) : StagesSafe (startTransmission s) := by
  unfold startTransmission
  split
  · exact (by exact safe_of hs rfl rfl rfl rfl rfl)
  · exact (by exact safe_of hs rfl rfl rfl rfl rfl)

theorem endQuiet_safe {s : State} (hs : StagesSafe s) : StagesSafe (endQuiet s) := by
  unfold endQuiet
  split
  · exact (by exact safe_of hs rfl rfl rfl rfl rfl)
  · exact hs

theorem enterPeer_safe {s : State} (hs : StagesSafe s) (e) : StagesSafe (enterPeer e s) := by
  unfold enterPeer
  split
  · exact (by exact safe_of hs rfl rfl rfl rfl rfl)
  · split <;> exact (by exact safe_of hs rfl rfl rfl rfl rfl)

theorem takeBulletin_safe (f) {s : State} (hs : StagesSafe s) : StagesSafe (takeBulletin f s) := by
  unfold takeBulletin
  dsimp only
  split
  · exact (by exact safe_of hs rfl rfl rfl rfl rfl)
  · exact enterPeer_safe hs _

theorem takeOutcome_safe (f) {s : State} (hs : StagesSafe s) : StagesSafe (takeOutcome f s) := by
  have h1 : StagesSafe (entryOutcome f s) := by
    unfold entryOutcome
    dsimp only
    split
    · exact (by exact safe_of hs rfl rfl rfl rfl rfl)
    · exact enterPeer_safe hs _
  have h2 : StagesSafe (settleHeard f.sender (byteAt f.body 0) (entryOutcome f s)) := by
    unfold settleHeard
    split
    · exact h1
    · exact (by exact safe_of h1 rfl rfl rfl rfl rfl)
  unfold takeOutcome peerOutcome
  dsimp only
  split
  · split
    · exact (enterQuiet_frame _).safe ((by exact safe_of h2 rfl rfl rfl rfl rfl))
    · split
      · split
        · exact (withdraw_frame ..).safe ((by exact safe_of h2 rfl rfl rfl rfl rfl))
        · exact ((by exact safe_of h2 rfl rfl rfl rfl rfl))
      · exact ((by exact safe_of h2 rfl rfl rfl rfl rfl))
    · exact ((by exact safe_of h2 rfl rfl rfl rfl rfl))
  · exact h2

theorem takeIntent_safe (f) {s : State} (hs : StagesSafe s) : StagesSafe (takeIntent f s) := by
  unfold takeIntent
  dsimp only
  split
  · exact (by exact safe_of hs rfl rfl rfl rfl rfl)
  · unfold judgePrecedence
    split
    · exact (by exact safe_of hs rfl rfl rfl rfl rfl)
    · split
      · exact (withdraw_frame ..).safe (by exact safe_of hs rfl rfl rfl rfl rfl)
      · exact (by exact safe_of hs rfl rfl rfl rfl rfl)

end Sys2Proof.Machine
end

