-- ==== Sys2Proof/Laws/Detail.lean ====
section
/-! SUPPORT. What the reason code of DETAIL can be (R71; log 35). -/

namespace Sys2Proof.Machine

theorem Reason.code_lt (r : Reason) : r.code < 256 := by cases r <;> decide

theorem Reason.code_eq_zero {r : Reason} : r.code = 0 ↔ r = .none := by cases r <;> decide

theorem reasonCodes_ne_zero {s : State} {n : Nat} (h : n ∈ s.reasonCodes) : n ≠ 0 := by
  simpa using (List.mem_filter.mp h).2

/-- With no refusal held, the code is one of those reported, or 0 when there is none. -/
theorem recordedCode_of_none {s : State} (h : s.oi.stepReason = .none) :
    s.recordedCode ∈ s.reasonCodes ∨ (s.reasonCodes = [] ∧ s.recordedCode = 0) := by
  unfold State.recordedCode
  rw [h]
  split
  · exact .inr ⟨‹_›, rfl⟩
  · rename_i hc; exact .inl (hc ▸ List.mem_singleton.mpr rfl)
  · rename_i hn _
    refine .inl ?_
    have hl : 0 < s.reasonCodes.length := List.length_pos_iff.mpr hn
    rw [List.getD_eq_getElem _ _ (Nat.mod_lt _ hl)]
    exact List.getElem_mem _
  · exact absurd rfl (by assumption)

/-- What stands in the list of the reported codes. -/
theorem mem_reasonCodes {s : State} {n : Nat} : n ∈ s.reasonCodes ↔ n ≠ 0 ∧ (n = s.vc.unserved.code ∨
    (∃ x, s.lc.outcomeSlot = some x ∧ n = x.reason.code) ∨
    ((s.oi.last.outcome = .refused ∨ s.oi.last.outcome = .failed) ∧ n = s.oi.last.detail % 256)) := by
  unfold State.reasonCodes LastOrder.reasonCode
  cases s.lc.outcomeSlot <;> cases s.oi.last.outcome <;> simp [List.mem_filter] <;> omega

/-- R71: the code that DETAIL records is a code that stands to be recorded. -/
theorem recordedCode_recorded (s : State) : ReasonRecorded s s.recordedCode where
  refusedStep h := by
    unfold State.recordedCode
    split <;> simp_all
  reported h hn := by
    rcases recordedCode_of_none h with hm | ⟨-, he⟩
    · exact (mem_reasonCodes.mp hm).2
    · exact absurd he hn
  none h := by
    have hz : s.recordedCode = 0 ↔ s.reasonCodes = [] := by
      rcases recordedCode_of_none h with hm | ⟨hl, he⟩
      · exact ⟨fun e => absurd e (reasonCodes_ne_zero hm), fun e => by simp [e] at hm⟩
      · exact ⟨fun _ => hl, fun _ => he⟩
    rw [hz, List.eq_nil_iff_forall_not_mem]
    simp only [mem_reasonCodes]
    constructor
    · intro hall
      refine ⟨Reason.code_eq_zero.mp (by_contra fun e => hall _ ⟨e, .inl rfl⟩), fun x hx =>
        Reason.code_eq_zero.mp (by_contra fun e => hall _ ⟨e, .inr (.inl ⟨x, hx, rfl⟩)⟩), fun ho => ?_⟩
      exact by_contra fun e => hall _ ⟨e, .inr (.inr ⟨ho, rfl⟩)⟩
    · rintro ⟨hu, hx, ho⟩ n ⟨hn, rfl | ⟨x, hs, rfl⟩ | ⟨hr, rfl⟩⟩
      · exact hn (by rw [hu]; rfl)
      · exact hn (by rw [hx x hs]; rfl)
      · exact hn (ho hr)

end Sys2Proof.Machine
end

