-- ==== Sys2Proof/Laws/Issues.lean ====
section
/-! SUPPORT. What issuing an open and a close does, and the open conditions read as one equivalence (R30, R31, R32, R34,
R59, R68). -/

namespace Sys2Proof.Machine

/-- R51: a report changes no stage record. -/
theorem report_others {k : StageId} {r : SwitchReport} {s t : State} (h : OtherStages k s t) :
    OtherStages k s (report r t) := fun j hj => ((report_frame r t).stage j).trans (h j hj)

/-- R31, R32, R34: an issued open: the record, the lists, and the OUTCOME of one that completes at its issue. -/
theorem issueOpen_spec (k : StageId) (cause : Cause) (n : Nat) (s : State) :
    let t := issueOpen k cause n s
    t.stage k = (if s.position k = .opened then s.openCompleted k cause else
      { s.openIssued k cause n with
        discharge := if (s.stage k).state = .lockout then 0 else (s.stage k).discharge }) ∧
    OtherStages k s t ∧ t.ready = relist .ready k (s.stage k).state .opening s.ready ∧
    t.inService = relist .closed k (s.stage k).state .opening s.inService ∧ SwitchFrame s t ∧
    (s.position k = .opened → t.lc.outcomeSlot = some ⟨n, .executed, .opening, k, cause, .none⟩) := by
  intro t
  have hfr : SwitchFrame s t := issueOpen_frame ..
  by_cases hp : s.position k = .opened
  · have ht : t = completeOpen k ⟨.opening, cause, n, s.ms, none⟩ false
        (changeStage k .opening (s.modStage k fun r => { r with
          op := some ⟨.opening, cause, n, s.ms, none⟩, lastCause := cause, disc := none, openOut := false
          pulse := none, window := none, discharge := if r.state = .lockout then 0 else r.discharge })) := by
      simp only [t, issueOpen, hp]; rfl
    refine ⟨?_, ?_, ?_, ?_, hfr, fun _ => ?_⟩
    · rw [ht]; simp only [completeOpen]
      rw [(report_frame ..).stage, changeStage_stage, changeStage_stage]
      simp [hp, State.openCompleted, Stage.moved, rediscrepancy, StageState.resting, State.fullDischarge, State.cfg, (changeStage_frame ..).settings]
      split <;> simp
    · rw [ht]; simp only [completeOpen]
      apply report_others
      intro j hj
      exact (changeStage_others _ _ _ _ j hj).trans (changeStage_others _ _ _ _ j hj)
    · rw [ht]; simp only [completeOpen]
      rw [(report_frame ..).ready, changeStage_ready _ _ _ _ rfl, changeStage_ready _ _ _ _ rfl, changeStage_stage]
      simp only [moved_state, relist]; cases (s.stage k).tripLatch <;> simp
    · rw [ht]; simp only [completeOpen]
      rw [(report_frame ..).inService, changeStage_inService _ _ _ _ rfl, changeStage_inService _ _ _ _ rfl, changeStage_stage]
      simp only [moved_state, relist]; cases (s.stage k).tripLatch <;> simp
    · rw [ht]; simp only [completeOpen]; rw [report_outcomeSlot]; rfl
  · have hb : (s.position k == .opened) = false := by simpa using hp
    have ht : t = changeStage k .opening (s.modStage k fun r => { r with
          op := some ⟨.opening, cause, n, s.ms, none⟩, lastCause := cause, disc := none, openOut := true
          pulse := some (s.cfg k).pulseWidth, window := some (s.cfg k).operateWindow
          discharge := if r.state = .lockout then 0 else r.discharge }) := by
      simp only [t, issueOpen, hb]; rfl
    refine ⟨?_, ?_, ?_, ?_, hfr, fun hh => absurd hh hp⟩
    · rw [ht, changeStage_stage]; simp [hp, State.openIssued, Stage.moved, rediscrepancy]
    · rw [ht]; exact changeStage_others k _ _ s
    · rw [ht, changeStage_ready _ _ _ _ rfl]
    · rw [ht, changeStage_inService _ _ _ _ rfl]

/-- R30, R32, R59: an issued close on a READY stage whose breaker is not closed. -/
theorem issueClose_spec (k : StageId) (cause : Cause) (n : Nat) (s : State) (h : (s.stage k).state = .ready)
    (hp : s.position k ≠ .closed) :
    let t := issueClose k cause n s
    t.stage k = { s.stage k with
      state := .closing, lastCause := cause, disc := none, closeOut := true
      op := some ⟨.close, cause, n, s.ms, none⟩
      pulse := some (s.cfg k).pulseWidth, window := some (s.cfg k).operateWindow
      duty := (s.stage k).duty ++ [s.seconds] } ∧
    OtherStages k s t ∧ t.ready = s.ready.filter (· ≠ k) ∧ t.inService = s.inService ∧ SwitchFrame s t ∧
    t.oi.chain = s.oi.chain := by
  intro t
  have hb : (s.position k == .closed) = false := by simpa using hp
  have ht : t = changeStage k .closing (s.modStage k fun r => { r with
      duty := r.duty ++ [s.seconds]
      op := some ⟨.close, cause, n, s.ms, none⟩, lastCause := cause, disc := none, closeOut := true
      pulse := some (s.cfg k).pulseWidth, window := some (s.cfg k).operateWindow }) := by
    simp only [t, issueClose, hb, State.addDuty, modStage_modStage]; rfl
  rw [ht]
  refine ⟨?_, changeStage_others k _ _ s, ?_, ?_, (modStage_frame _ _ _ rfl).trans (changeStage_frame ..), changeStage_chain ..⟩
  · rw [changeStage_stage]; simp [Stage.moved, rediscrepancy, h]
  · rw [changeStage_ready _ _ _ _ rfl]; simp [relist, h]
  · rw [changeStage_inService _ _ _ _ rfl]; simp [relist, h]

/-- R68: the open conditions of a configured stage. -/
theorem openRefusal_none_iff (s : State) (k : StageId) (cause : Cause) (hk : s.configured k = true) :
    (openRefusal s k.num cause = none ↔
      (cause = .autoLower ∨ cause = .fastOv ∨ cause = .harmShed → s.blockSet.get k = false ∧ (s.stage k).state = .closed) ∧
      ((s.stage k).state = .closed ∨ (s.stage k).state = .closing ∨ (s.stage k).state = .opening ∨
        ((s.stage k).state.isFault = true ∧ (s.stage k).connected = true))) := by
  have h : k.num ≤ s.settings.stageCount := by simpa [State.configured] using hk
  simp only [openRefusal, stageOf_num h]
  have ha : cause.automaticOpen = true ↔ cause = .autoLower ∨ cause = .fastOv ∨ cause = .harmShed := by
    cases cause <;> simp [Cause.automaticOpen]
  rw [← ha]
  cases cause.automaticOpen <;> cases s.blockSet.get k <;> cases hst : (s.stage k).state <;>
    simp [StageState.resting, StageState.isFault, Stage.connected, hst]

end Sys2Proof.Machine
end

