-- ==== Sys2Proof/Laws/Peers.lean ====
section
/-! SUPPORT. The sequence tracking of an accepted frame (R136, R137), for the statements about arriving frames. -/

namespace Sys2Proof.Machine

theorem updatePeer_updatePeer (n : Nat) (f g : Peer → Peer) (l : List Peer) (hf : ∀ e, (f e).station = e.station) : updatePeer n g (updatePeer n f l) = updatePeer n (g ∘ f) l := by
  unfold updatePeer
  rw [List.map_map]
  congr 1; funext e
  simp only [Function.comp]
  by_cases h : e.station = n <;> simp [h, hf]
theorem Peer.tracked_station (f : Frame) (e : Peer) : (e.tracked f).station = e.station := by
  unfold Peer.tracked; split <;> simp [Peer.track]

/-- R136, R137: what the judgement of an accepted frame of a held yard leaves. -/
theorem judgeYard_taken (s : State) (w) (f : Frame) (e : Peer) (h : YardTaken s w f e) :
   judgeYard f s = ({ s with pv := { s.pv with heard := if f.kind = .intent then s.pv.heard else heardAfter f s.pv.heard, entries := updatePeer f.sender (Peer.tracked f) s.pv.entries } }, true) := by
  have h1 := h.other; have h2 := h.known
  unfold judgeYard
  rw [if_neg h1]
  dsimp only; rw [h2]; dsimp only
  by_cases hs : f.start = true
  · rw [if_pos hs]
    have : Peer.tracked f = fun e => { e with lastSeq := f.seq, missed := 0 } := by funext e; simp [Peer.tracked, hs]
    rw [this]
    by_cases hk : f.kind = .intent
    · simp [hs, hk, State.modPeer]
    · simp [hs, hk, State.modPeer, removeHeard, heardAfter]
  · rw [if_neg hs]
    rcases h.new with hn | hn
    · exact absurd hn hs
    · rw [if_pos hn]
      have : Peer.tracked f = fun e => e.track f.seq := by funext e; simp [Peer.tracked, hs]
      rw [this]
      simp [State.modPeer, heardAfter, hs]
theorem findPeer_updatePeer (n : Nat) (f : Peer → Peer) (hf : ∀ e, (f e).station = e.station) (l : List Peer) (e : Peer) (h : findPeer n l = some e) : ∃ e', findPeer n (updatePeer n f l) = some e' := by
  unfold findPeer at *
  rw [List.find?_eq_some_iff_append] at h
  have : (updatePeer n f l).any (fun x => x.station == n) = true := by
    obtain ⟨h1, a, b, hl, _⟩ := h
    rw [hl]; unfold updatePeer; simp
    right; left
    have : e.station = n := by simpa using h1
    simp [this, hf]
  rw [← Option.isSome_iff_exists, List.find?_isSome]
  simpa using this

end Sys2Proof.Machine
end

