-- ==== Sys2Proof/Laws/Withdrawals.lean ====
section
/-! SUPPORT. What a withdrawal of the own intent does, and what leaves the INTENT slot and the controller alone (R162, R164,
R165). -/

namespace Sys2Proof.Machine

/-- R162: the drop of the own intent, before the controller enters its state. -/
theorem dropIntent_withdrawn (i : Intent) (reason : Reason) (s : State) : Withdrawn i reason s (dropIntent i reason s) where
  own := by simp [dropIntent, placeOutcome]
  slot := by
    obtain ⟨number, dir, stage, size, holdOff, phase⟩ := i
    cases phase with
    | queued sent _ => cases sent <;> simp [dropIntent, placeOutcome, unsent]
    | holding _ => simp [dropIntent, placeOutcome, unsent]
    | committed => simp [dropIntent, placeOutcome, unsent]
  outcome := by
    obtain ⟨number, dir, stage, size, holdOff, phase⟩ := i
    cases dir <;> simp [dropIntent, placeOutcome, withdrawalContent]

/-- A withdrawal reads on into every state with the same intent, slots and next number. -/
theorem Withdrawn.congr {i : Intent} {reason : Reason} {s t u : State} (h : Withdrawn i reason s t) (hi : u.ix = t.ix)
    (hs : u.lc.intentSlot = t.lc.intentSlot) (ho : u.lc.outcomeSlot = t.lc.outcomeSlot) : Withdrawn i reason s u where
  own := hi.trans h.own
  slot := hs.trans h.slot
  outcome := ho.trans h.outcome

/-- R162, R90: an uncommitted own intent is withdrawn, and the controller enters the state of Table 4-5. -/
theorem withdraw_eq {i : Intent} {s : State} (h : s.ix.own = some i) (hp : i.phase ≠ .committed) (reason : Reason) :
    withdraw reason s = afterWithdrawal reason (dropIntent i reason s) := by
  unfold withdraw
  split
  · rename_i hn; rw [hn] at h; cases h
  · rename_i j hj
    rw [hj] at h; cases h
    split
    · rename_i hc; exact absurd hc hp
    · rfl

theorem withdraw_withdrawn {i : Intent} {s : State} (h : s.ix.own = some i) (hp : i.phase ≠ .committed)
    (reason : Reason) : Withdrawn i reason s (withdraw reason s) := by
  have k := afterWithdrawal_keeps reason (dropIntent i reason s)
  rw [withdraw_eq h hp]
  exact (dropIntent_withdrawn i reason s).congr k.2.2.1 k.2.2.2.2.2.2.2 k.2.2.2.2.2.2.1

/-- R118, R130: what the relay does with a notice leaves the controller and the INTENT slot. -/
theorem relayNotice_slot (k : StageId) (old new : StageState) (s : State) :
    (relayNotice k old new s).vc = s.vc ∧ (relayNotice k old new s).lc.intentSlot = s.lc.intentSlot := by
  have ha : ∀ u : State, (abandonCapture k u).vc = u.vc ∧ (abandonCapture k u).lc.intentSlot = u.lc.intentSlot := by
    intro u
    unfold abandonCapture captureEnded
    split
    · split
      · split <;> simp [writeOrder]
      · exact ⟨rfl, rfl⟩
    · exact ⟨rfl, rfl⟩
  unfold relayNotice unbalanceNotice
  split
  · exact ⟨rfl, rfl⟩
  · split
    · exact ⟨rfl, rfl⟩
    · split
      · split <;> simp [rejudge, ha, State.modEntry]
      · exact ⟨rfl, rfl⟩

/-- R51: a report leaves the INTENT slot. -/
theorem report_intentSlot (r : SwitchReport) (s : State) : (report r s).lc.intentSlot = s.lc.intentSlot := by
  have hq : ∀ u : State, (enterQuiet u).lc.intentSlot = u.lc.intentSlot := fun _ => rfl
  have hp : ∀ u : State, (enterSuspended u).lc.intentSlot = u.lc.intentSlot := fun u => by simp [enterSuspended]
  have hc : ∀ u : State, (controllerReport r u).lc.intentSlot = u.lc.intentSlot := by
    intro u
    unfold controllerReport
    split
    · split
      · split
        · dsimp only; split <;> simp [hq, hp]
        · rfl
      · rfl
    · exact hq u
    · rfl
    · rfl
  have ho : ∀ u : State, (settleOrder r u).lc.intentSlot = u.lc.intentSlot := by
    intro u
    unfold settleOrder
    split
    · split <;> simp [writeOrder]
    · rfl
  have hs : ∀ u : State, (settleChain r u).lc.intentSlot = u.lc.intentSlot := by
    intro u
    unfold settleChain endChain advanceChain
    split
    · rfl
    · split
      · rfl
      · split
        · split
          · simp [removeCause_keeps, writeOrder]
          · split
            · dsimp only; split <;> simp [writeOrder]
            · simp [removeCause_keeps, writeOrder]
        · rfl
  simp [report, hs, ho, hc, exchangeReport, placeOutcome]

end Sys2Proof.Machine
end

