-- ==== Sys2Proof/WellFormed.lean ====
section
/-! DEFINITION. Which commands are events that can come about, judged on the operands alone.
Every meaning is total: an ill-formed command still has an answer (log 2, log 29). -/

namespace Sys2Proof

/-- A yard address (00_scope Table 0-2). -/
def yardNumber (n : Byte) : Bool := 1 ≤ n.toNat && n.toNat ≤ 62

/-- What may follow a stop bit read as space (R173): the line held at space, up to its return to mark at the most. -/
def spaceTail (l : List Bool) : Bool := l.dropLast.all fun x => !x

def Instr.wf : Instr → Bool
  | .imageCheck image => image.length == 256
  | .contactChange changed => changed != 0
  | .peerStale n | .peerRemoval n | .heardIntentExpiry n => yardNumber n
  | .characterEnd samples =>
    match Machine.runChar .atEdge samples with
    | some (_, last, left) => left == 0 || (!last && spaceTail (samples.drop (samples.length - left)))
    | none => false
  | _ => true

end Sys2Proof
end

