-- ==== Sys2Proof/Tests/Slice0.lean ====
section
/-! SUPPORT. The model's own tests: the smoke test of WellFormed, the spec's worked figures, one step of each command on a
small state, and for every obligation with hypotheses a named state that meets them (`witness_<Name>`). -/

namespace Sys2Proof.Tests

open Sys2Proof.Machine

set_option Elab.async false

/-! ### WellFormed refuses -/

/-- A character whose stop bit is read as space, the line held at space for `n` sub-samples more. -/
def heldSpace (n : Nat) : List Bool := List.replicate (152 + n) false

theorem test_wf_image_length : (Instr.imageCheck [0, 1]).wf = false := by decide
theorem test_wf_no_contact : (Instr.contactChange 0).wf = false := by decide
theorem test_wf_peer_stale_number : (Instr.peerStale 0).wf = false ∧ (Instr.peerStale 63).wf = false := by decide
theorem test_wf_peer_removal_number : (Instr.peerRemoval 64).wf = false := by decide
theorem test_wf_heard_number : (Instr.heardIntentExpiry 255).wf = false := by decide
theorem test_wf_character_unfinished : (Instr.characterEnd [false, false]).wf = false := by decide +kernel
theorem test_wf_character_overlong : (Instr.characterEnd (cleanSamples 0x41 ++ [true])).wf = false ∧
    (Instr.characterEnd (heldSpace 3 ++ [true, false])).wf = false := by decide +kernel
theorem test_wf_accepts : (Instr.peerStale 62).wf = true ∧ (Instr.characterEnd (cleanSamples 0x41)).wf = true ∧
    (Instr.characterEnd (heldSpace 0)).wf = true ∧ (Instr.characterEnd (heldSpace 40 ++ [true])).wf = true ∧
    (Instr.contactChange 1).wf = true ∧ (Instr.powerOn .hz60).wf = true := by decide +kernel

/-! ### Worked figures of the spec -/

/-- Table 1-3. -/
theorem test_phase_voltages : magnitudeOf ⟨18900, -3200⟩ = 19168 ∧ phaseVoltage 19168 20000 = 958 ∧
    phaseVoltage 19220 20000 = 961 ∧ phaseVoltage 19100 20000 = 955 ∧ (958 + 961 + 955) / 3 = 958 := by decide +kernel

/-- Table 1-4. -/
theorem test_harmonic_figures : [200, 1150, 620, 15, 12].map (harmonicMagnitude · 20000) = [10, 58, 31, 1, 1] ∧
    [200, 1150, 620, 15, 12].map (distortion · 19168) = [10, 59, 32, 0, 0] ∧ thdOf [10, 59, 32, 0, 0] = 67 := by
  decide +kernel

/-- Table 1-5, R24. -/
theorem test_unbalance : unbalance ⟨410, -95⟩ ⟨380, -120⟩ = 39 ∧ unbalance ⟨560, 60⟩ ⟨380, -120⟩ = 254 ∧
    captureNull 6085 (-1911) = ⟨380, -119⟩ ∧ (captureNull (-1000) 0).re = -62 := by decide +kernel

/-- R14: a quotient of 18900.5, and its negative. -/
theorem test_rounding : roundDiv 4954652672 (2 ^ 18) = 18901 ∧ roundDiv (-4954652672) (2 ^ 18) = -18901 := by decide

/-- R14: a cosine of peak 16384 with its crest on the marked set. -/
theorem test_phasor : phasorOf 1 cosTable = ⟨16384, 0⟩ ∧ (phasorOf 3 cosTable).re = 0 := by decide +kernel

/-- R174: the code of the nine digits. -/
theorem test_crc : crc16 [0x31, 0x32, 0x33, 0x34, 0x35, 0x36, 0x37, 0x38, 0x39] = 0x29B1 := by decide +kernel

/-- R107. -/
theorem test_resonance_ends : resonanceIndex 20000 1 = 255 ∧ isqrt 20000000 = 4472 ∧ resonanceIndex 8000 0 = 255 ∧
    resonanceIndex 1 1001 = 0 := by decide +kernel

/-! ### A small state -/

def stageCfg : StageSettings where
  size := 50
  dischargeTime := 300
  dutyLimit := 4
  pulseWidth := 100
  operateWindow := 300
  discrepancyTime := 60
  alarmLevel := 100
  alarmDelay := 50
  tripLevel := 200
  tripDelay := 25
  blanking := 20
  nullRe := 0
  nullIm := 0

def cfg : Settings := { Settings.none with
  station := 5, stageCount := 2, panelMask := 1, position := 1000, bitRateCode := 1, keyUp := 20, period := 10
  holdOff := 30, nominal := ⟨20000, 20000, 20000⟩, vset := 1000, halfBand := 20, decay := 2, threshold := 500
  stationSettle := 60, peerSettle := 20, fastOv := 1100, restoreTime := 300, nearReach := 100, farReach := 400
  slots := ⟨⟨some 3, 60, 20⟩, ⟨some 5, 60, 20⟩, ⟨none, 60, 20⟩, ⟨none, 60, 20⟩, ⟨none, 60, 20⟩, ⟨none, 60, 20⟩⟩
  thdLimit := 80, persistence := 120, hysteresis := 5, shedDelay := 600, guard := 2, ssc := 8000
  channels := [⟨some .va, false⟩, ⟨some .vb, true⟩, ⟨some .vc, false⟩, ⟨some (.n .s1), false⟩, ⟨some (.n .s2), false⟩,
    ⟨none, false⟩, ⟨none, true⟩, ⟨none, false⟩]
  stages := .all stageCfg }

def inputsOpened : StageInputs := ⟨⟨false, 0⟩, ⟨true, 0⟩, ⟨false, 0⟩, true⟩
def inputsClosed : StageInputs := ⟨⟨true, 0⟩, ⟨false, 0⟩, ⟨false, 0⟩, true⟩

/-- A running part of two stages, the first READY and the second CLOSED, in WATCHING, measurement VALID. -/
def base : State := { State.reset with
  phase := .running
  settings := cfg
  ms := 100000000
  inputs := ⟨inputsOpened, inputsClosed, .start, .start⟩
  port := ⟨true, none, false, 0, 0, some 40⟩
  store := { Store.start with vctl := 1000, vhi := 1000 }
  stages := ⟨{ Stage.start with state := .ready }, { Stage.start with state := .closed, duty := [99900] },
    .start, .start⟩
  ready := [.s1]
  inService := [.s2]
  vc := { Controller.start with state := .watching, causes := ⟨false, false, false, false, false, false, false⟩ }
  ur := { Relay.start with entries := .ofFn fun k =>
    if k = .s2 then { RelayEntry.start with inService := true } else .start }
  pv := { PeerView.start with entries := [⟨7, 900, 10, some 40, 20, 3, 5000, false⟩] }
  lc := { LineChannel.start with
    working := true, lfsr := 0x0505, seq := 9, framesSent := 8, periodTimer := some 5000
    rx := ⟨none, false, 75, true⟩ }
  healthy := true }

def nextOf (o : Host.Outcome State Fault Refusal) : State :=
  match o with
  | .next t => t
  | _ => State.reset

/-- The state after one command. -/
def after (c : Instr) (s : State) : State := nextOf (exec c s)

def withStage (k : StageId) (r : Stage) (s : State) : State := { s with stages := s.stages.set k r }

def withInputs (k : StageId) (i : StageInputs) (s : State) : State := { s with inputs := s.inputs.set k i }

def proposing (phase : IntentPhase) (s : State) : State := { s with
  vc := { s.vc with state := .proposing, low := 500 }
  ix := { s.ix with own := some ⟨4, .close, .s1, 50, 30, phase⟩ } }

def lowering : State := { base with
  vc := { base.vc with state := .proposing, high := 500 }
  ix := { base.ix with own := some ⟨4, .opening, .s2, 50, 30, .holding 0⟩ } }

/-- An order on stage 2 awaits its report. -/
def reporting (state : CtlState) : State := { base with
  vc := { base.vc with state := state, ownOp := some ⟨.s2, .opening, 4⟩, low := 7 }
  oi := { base.oi with last := ⟨0x40, 0x77, .inProgress, 0⟩, mark := .report .s2 } }

theorem proposes {s : State} {phase : IntentPhase} (h : s.vc.causes.isEmpty = true ∧ phase ≠ .committed) :
    Proposes ⟨4, .close, .s1, 50, 30, phase⟩ (proposing phase s) :=
  ⟨h.1, rfl, rfl, h.2⟩

/-- The base state with a record in the receive ring (its two last bytes, the code, are not read again). -/
def holding (bytes : List Byte) (s : State) : State := { s with lc := { s.lc with ring := [⟨0, bytes.length, bytes⟩] } }

/-- An ORDER of panel 0x40 with tag 0x77 to this part. -/
def orderBytes (code stage : Byte) (arg : List Byte) : List Byte :=
  [0x34, 0x40, 5, 1, BitVec.ofNat 8 (4 + arg.length), 0x77, code, stage, BitVec.ofNat 8 arg.length] ++ arg ++ [0, 0]

def ordered (code stage : Byte) (arg : List Byte) : State := holding (orderBytes code stage arg) base

/-- A state in which that order without argument has arrived. -/
def heardOrder (code stage : Byte) (s : State) : State := holding (orderBytes code stage []) s

def orderFrame (code stage : Byte) (arg : List Byte) : Frame :=
  ⟨.order, 0x40, 5, 1, [0x77, code, stage, BitVec.ofNat 8 arg.length] ++ arg⟩

theorem quietChain (k : StageId) (s : State) (h : s.oi.chain = none) : ChainApart k s where
  notDue := by simp [State.stepDue, h]
  elsewhere c st hc := by rw [h] at hc; cases hc

theorem orderTaken (code stage : Byte) (arg : List Byte)
    (h : (ordered code stage arg).head (.order code.toNat) = some (orderFrame code stage arg))
    (hf : (orderFrame code stage arg).order.formOk = true) :
    OrderTaken (ordered code stage arg) code.toNat (orderFrame code stage arg) where
  head := h
  new := .inl (by rfl)
  addressed := by rfl
  permitted := by change base.panelPermitted 0x40 = true; decide +kernel
  form := hf

/-- A state with an order heard for the first time from its panel, whose conditions are then plain to check. -/
theorem orderIn {s : State} {code : Nat} {f : Frame} (h : s.head (.order code) = some f ∧
    (s.pv.panels.getD (f.sender - 0x40) ⟨false, 0⟩).valid = false ∧ s.addressed f.order.dest = true ∧
    s.panelPermitted f.order.panel = true ∧ f.order.formOk = true) : OrderTaken s code f :=
  ⟨⟨h.1, .inl h.2.1, h.2.2.1⟩, h.2.2.2.1, h.2.2.2.2⟩

/-! ### The queue and the start -/

theorem test_step_front : step { base with pending := [.mediumIdle, .markTimeout] } =
    exec .mediumIdle { base with pending := [.markTimeout] } := rfl

/-- R58: a countdown that ends with this millisecond. -/
def ending : State := withStage .s1 { Stage.start with state := .discharging, discharge := 1 } { base with ready := [] }

theorem witness_IdleStepQueuesOrCounts : base.pending = [] ∧ base.phase ≠ .held ∧ base.due = [] ∧
    { base with vc := { base.vc with stationSettle := some 0 } }.due = [.stationSettleExpiry] ∧
    ending.pending = [] ∧ ending.phase ≠ .held ∧ ending.due = [] ∧ ending.configured .s1 = true ∧
    (ending.stage .s1).state = .discharging ∧ (ending.stage .s1).discharge = 1 := by decide +kernel

/-- R58: the figure of a DISCHARGING stage reaches 0 with its entry to READY, and not before. -/
theorem test_countdown : (nextOf (step ending)).pending = [.dischargeEnd .s1] ∧
    ((nextOf (step ending)).stage .s1).discharge = 1 ∧
    ((nextOf (step (nextOf (step ending)))).stage .s1).state = .ready ∧
    ((nextOf (step (nextOf (step ending)))).stage .s1).discharge = 0 := by decide +kernel

def inReset : State := after .externalReset base

/-- 254 bytes of an image of a station 5 with two stages, default channel map. -/
def imageBody : List Byte :=
  [5, 0xFF, 2, 1, 0, 0, 0x03, 0xE8, 1, 20, 10, 30, 1, 0x82, 3, 4, 5, 0, 0, 0, 0, 0] ++
  [0x4E, 0x20, 0x4E, 0x20, 0x4E, 0x20, 0x03, 0xE8, 20, 2, 0, 1, 0xF4, 0, 60, 20, 0x04, 0x4C, 0x01, 0x2C] ++
  [0, 100, 1, 0x90, 3, 5, 7, 11, 13, 3, 60, 60, 60, 60, 60, 60, 20, 20, 40, 20, 20, 20] ++
  [0, 80, 0, 120, 5, 3, 0xE8, 2, 0x1F, 0x40] ++ List.replicate 6 0 ++ List.replicate 174 1

def goodImage : List Byte :=
  imageBody ++ toBytes ((65536 - (imageBody.map BitVec.toNat).sum % 65536) % 65536) 2

def readingState : State := after (.powerOn .hz60) State.reset

theorem test_power_on : readingState.phase = .reading 200 ∧ readingState.strap = .hz60 ∧
    readingState.vc.causes = ⟨false, false, false, true, false, true, false⟩ := by decide +kernel

theorem witness_StartsAndResets : State.reset.resetInput = false ∧ inReset.resetInput = true ∧
    ∃ t, exec .externalReset base = .next t := ⟨by decide +kernel, by decide +kernel, _, rfl⟩

theorem test_reset_release : (after (.resetRelease .hz50) inReset).phase = .reading 200 ∧
    (after (.powerOn .hz50) inReset).phase = .held ∧ inReset.healthy = false ∧ inReset.strap = base.strap := by decide +kernel

theorem test_image_check : imageOk goodImage = true ∧ imageOk (goodImage.set 9 21) = false ∧
    imageOk (goodImage.set 14 2) = false := by decide +kernel

theorem witness_ImageCheckInstalls : readingState.isReading = true ∧ imageOk goodImage = true := by decide +kernel

theorem test_image_installs : (after (.imageCheck goodImage) readingState).phase = .probing 500 ∧
    (after (.imageCheck goodImage) readingState).settings.vset = 1000 ∧
    (after (.imageCheck goodImage) readingState).settings.slots.m6.order = none ∧
    (after (.imageCheck goodImage) readingState).lc.lfsr = 0x0505 := by decide +kernel

theorem witness_SettingsInRange : StageId.s2.num ≤ (readSettings goodImage).stageCount ∧
    StageId.s1.num ≤ (readSettings (List.replicate 256 1)).stageCount ∧ StageId.s2.num ≤ byteAt goodImage 2 ∧
    (readSettings goodImage).slots.toList[5]?.isSome = true := by decide +kernel

theorem witness_FallbackOpensAll : readingState.isReading = true ∧
    (∃ img, imageOk img = false ∧ Instr.imageCheck [] = .imageCheck img) ∧
    (after .imageReadTimeout readingState).fallbackPulse = some 100 :=
  ⟨by decide +kernel, ⟨[], by decide +kernel, rfl⟩, by decide +kernel⟩

theorem test_fallback : (after (.imageCheck []) readingState).alarm = true ∧
    ((after (.imageCheck []) readingState).stage .s4).openOut = true ∧
    ((after .fallbackPulseEnd (after .imageReadTimeout readingState)).stage .s4).openOut = false := by decide +kernel

def probed : State := { State.reset with
  phase := .probing 0
  settings := { cfg with stageCount := 4 }
  inputs := ⟨inputsOpened, inputsClosed, { StageInputs.start with seen := true },
    ⟨⟨true, 0⟩, ⟨true, 0⟩, ⟨false, 0⟩, true⟩⟩ }

theorem witness_ProbeTakesPositions : probed.phase = .probing 0 ∧ probed.configured .s1 = true ∧
    base.configured .s3 = false ∧ probed.position .s1 = .opened ∧ probed.position .s2 = .closed ∧
    probed.position .s3 = .transit ∧ probed.position .s4 = .bad ∧ (State.reset.inputs.get .s1).seen = false := by
  decide +kernel

theorem test_probe_end : (after .presenceProbeEnd probed).stages.toList.map Stage.state =
    [.discharging, .closed, .discharging, .fault (.discrepancy false)] ∧
    (after .presenceProbeEnd probed).inService = [.s2] ∧
    ((after .presenceProbeEnd probed).stage .s1).discharge = 300000 := by decide +kernel

def listening (others : Bool) : State := { base with vc := { base.vc with
  state := .suspended, listenIn := some 0, causes := ⟨others, false, false, false, false, true, false⟩ } }

def settling (station peer : Option Nat) : State := { base with
  vc := { base.vc with state := .quiet, stationSettle := station, peerSettle := peer } }

theorem witness_ListenInAndSettlesEnd :
    (∀ b, (listening b).vc.listenIn = some 0 ∧ (listening b).vc.causes.listenIn = true) ∧
    (listening false).vc.causes = ⟨false, false, false, false, false, true, false⟩ ∧
    (settling (some 0) none).vc.stationSettle = some 0 ∧ (settling none (some 0)).vc.peerSettle = some 0 := by
  decide +kernel

theorem test_listen_in : (after .listenInExpiry (listening false)).vc.state = .quiet ∧
    (after .listenInExpiry (listening true)).vc.state = .suspended := by decide +kernel

/-! ### Cycles -/

def words : SampleSet := ⟨100, 0x8000, 0x7FFF, 0, 0, 0, 0, 0⟩

def running (count : Nat) (lost : Bool) (discards recovery : Nat) : State := { base with port := { base.port with
  run := some ⟨count, List.replicate (min count 32) (.all 1000), .all false⟩, lost := lost, discards := discards
  recovery := recovery } }

theorem witness_SetsAndDiscards : base.port.working = true ∧ base.port.run = none ∧ base.stepDue = false ∧
    (running 31 false 0 0).port.run.isSome = true ∧ (running 32 false 0 0).port.run.isSome = true ∧
    (running 31 false 1 0).port.discards < 2 ∧ (running 31 false 1 0).port.lost = false ∧
    (running 33 true 0 9).port.lost = true ∧ (running 32 true 0 8).port.recovery < 9 ∧
    (running 32 true 0 8).stepDue = false ∧ (running 31 false 1 0).port.working = true := by decide +kernel

/-- R5: −32768 inverted is stored as 32767, and is clipped. -/
theorem test_sets : ((after (.sampleSet words) (running 31 false 0 0)).port.run.map Run.count) = some 32 ∧
    ((after (.sampleSet words) (running 31 false 0 0)).port.run.map fun r =>
      ((r.sets.getD 31 (.all 0)).vb, r.clipped.vb, r.clipped.va)) = some (32767, true, false) ∧
    ((after (.sampleSet words) (running 255 false 0 0)).port.run.map Run.count) = some 255 := by decide +kernel

/-- Table 1-6, three of its rows. -/
theorem test_disturbance : (after (.cycleCompletion words .vhu) (running 33 false 0 0)).port.discards = 1 ∧
    (after (.cycleCompletion words .vhu) (running 32 true 0 4)).port.recovery = 5 ∧
    (after .markTimeout (running 3 true 0 4)).port.recovery = 0 := by decide +kernel

theorem witness_MeasurementLost : 2 ≤ (running 1 false 2 0).port.discards ∧ (running 1 false 2 0).port.lost = false ∧
    (running 1 false 2 0).stepDue = false ∧ (running 1 false 2 0).port.working = true ∧
    base.port.markTimer = some 40 ∧ base.port.lost = false ∧ (running 1 true 0 4).port.markTimer = some 40 ∧
    base.vc.causes.isEmpty = true ∧ base.vc.state ≠ .executing ∧
    Proposes ⟨4, .close, .s1, 50, 30, .holding 10⟩ (proposing (.holding 10) (running 1 false 2 0)) ∧
    Proposes ⟨4, .close, .s1, 50, 30, .queued false 3⟩ (proposing (.queued false 3) base) := by
  and_intros
  all_goals first | decide +kernel | exact proposes (by decide +kernel)

/-- R75, R162, Table 8-2: the own intent is withdrawn with the reason of the cause. -/
theorem test_withdrawals :
    (after (.cycleCompletion words .hvu) (proposing (.holding 10) (running 1 false 2 0))).lc.outcomeSlot =
      some ⟨4, .withdrawn, .close, .s1, .autoRaise, .measLost⟩ ∧
    (after (.contactChange blockContact) (proposing (.queued false 3) base)).lc.outcomeSlot =
      some ⟨4, .withdrawn, .close, .s1, .autoRaise, .suspended⟩ ∧
    (after (.contactChange (bothContacts .s2)) lowering).ix.own = none ∧
    (requestOpen .s2 .harmShed 0 lowering).lc.outcomeSlot =
      some ⟨4, .withdrawn, .opening, .s2, .autoLower, .stageChanged⟩ ∧
    (requestOpen .s2 .harmShed 0 lowering).vc.state = .watching := by decide +kernel

theorem test_loss : (after (.cycleCompletion words .hvu) (running 1 false 2 0)).port.lost = true ∧
    (after (.cycleCompletion words .hvu) (running 1 false 2 0)).vc.state = .suspended ∧
    (after .markTimeout base).vc.causes.measLost = true := by decide +kernel

/-- Measurement LOST for nine accepted cycles, and the controller suspended for that alone. -/
def recovering : State := { running 32 true 0 9 with vc := { base.vc with
  state := .suspended, causes := ⟨false, false, false, true, false, false, false⟩ } }

theorem witness_AcceptedCycleIsEvaluated : (running 32 false 0 0).port.working = true ∧
    (running 32 false 0 0).port.lost = false ∧ (running 32 false 0 0).port.run.map Run.count = some 32 ∧
    9 ≤ (running 32 true 0 9).port.recovery ∧ recovering.port.lost = true ∧ 9 ≤ recovering.port.recovery ∧
    recovering.vc.causes = ⟨false, false, false, true, false, false, false⟩ ∧ recovering.vc.state = .suspended ∧
    (running 32 true 0 9).vc.state = .watching ∧
    (fastOvTest [] (deadLineTest [] base)).vc.state = .watching ∧
    (fastOvTest [] (deadLineTest [] recovering)).vc.state ≠ .watching ∧ base.stepDue = false := by decide +kernel

theorem test_recovery : (after (.cycleCompletion words .uhv) (running 32 true 0 9)).port.lost = false ∧
    (after (.cycleCompletion words .uhv) (running 32 true 0 9)).port.recovery = 0 ∧
    (after (.cycleCompletion words .uhv) recovering).vc.state = .quiet := by decide +kernel

theorem witness_ArithmeticExact : (0 : Nat) < 2 ^ 40 ∧ 2 ^ 40 - 1 < 2 ^ 40 ∧ 0 < 2 ^ 18 := by decide

theorem witness_StoreFigures : 4000 ≤ cfg.nominal.a ∧ 4000 ≤ cfg.nominal.b ∧ 4000 ≤ cfg.nominal.c ∧
    (computeStore cfg [] (.all false)).weak = true ∧
    (computeStore cfg (cosTable.map .all) (.all false)).weak = false ∧
    cfg.slots.toList[0]?.map Slot.order = some (some 3) ∧ cfg.slots.toList[5]?.map Slot.order = some none ∧
    (computeStore cfg [] (.all false)).phases.a.slots.toList[5]? = some ⟨⟨0, 0⟩, 0, 0, 0⟩ ∧
    StageId.s2.num ≤ cfg.stageCount ∧ ¬ StageId.s3.num ≤ cfg.stageCount := by decide +kernel

/-- R14, R19, R21, R23: a sample of 20000 on the marked set alone: at every order Re = 20000·16384 / 2^18 = 1250, so H = 1000·1250 /
20000 = 62.5 ‰, half up, and D = 1000 ‰ where the fundamental is no less; with it the weak flag sets, and D stays 0. -/
theorem test_store_figures :
    (computeStore cfg (.all 20000 :: List.replicate 31 (.all 0)) (.all false)).h = ⟨63, 63, 0, 0, 0, 0⟩ ∧
    (computeStore cfg (.all 20000 :: List.replicate 31 (.all 0)) (.all false)).thd = 0 ∧
    (computeStore { cfg with nominal := ⟨4000, 4000, 4000⟩ } (.all 20000 :: List.replicate 31 (.all 0)) (.all false)).thd =
      1000 ∧
    (computeStore cfg (.all 20000 :: List.replicate 31 (.all 0)) (.all false)).neutral =
      ⟨⟨1250, 0⟩, ⟨1250, 0⟩, ⟨0, 0⟩, ⟨0, 0⟩⟩ := by decide +kernel

/-! ### Control, harmonics, unbalance -/

def heardIntent (dir : Direction) (s : State) : State := { s with pv := { s.pv with heard := [⟨7, 1000, dir, 9, 30, 0, 5000⟩] } }

/-- The stage's duty list stands at its limit: the close test refuses it. -/
def worn (s : State) : State := withStage .s1 { Stage.start with state := .ready, duty := [99000, 99001, 99002, 99003] } s

/-- R78, both ends of the band included; 22 below it (1.9.1). -/
theorem test_accumulators : updateAccumulators cfg 958 100 0 = (122, 0) ∧ updateAccumulators cfg 980 100 0 = (98, 0) ∧
    updateAccumulators cfg 1020 0 1 = (0, 0) ∧ updateAccumulators cfg 1021 7 499 = (0, 500) := by decide

def demanding (low high : Nat) : State := { base with vc := { base.vc with low := low, high := high } }

def isolate (s : State) : State := { s with ix := { s.ix with isolated := true } }

/-- A third stage, READY behind the first, which is refused. -/
def twoReady : State := withStage .s3 { Stage.start with state := .ready } (withInputs .s3 inputsOpened (worn
  { demanding 500 0 with settings := { cfg with stageCount := 3 }, ready := [.s1, .s3] }))

theorem witness_DemandProposes :
    (demanding 500 0).settings.threshold ≤ (demanding 500 0).vc.low ∧ (demanding 500 0).peerIntent .close = false ∧
    (demanding 500 0).harmAlarm = false ∧ (demanding 500 0).ix.isolated = false ∧
    unblocked (demanding 500 0) (demanding 500 0).ready = [] ++ [.s1] ∧
    closeTest ((demanding 500 0).prune .s1) StageId.s1.num .autoRaise 0 = none ∧
    twoReady.settings.threshold ≤ twoReady.vc.low ∧ twoReady.peerIntent .close = false ∧ twoReady.harmAlarm = false ∧
    unblocked twoReady twoReady.ready = [.s1] ++ [.s3] ∧
    closeTest (twoReady.prune .s1) StageId.s1.num .autoRaise 0 = some .duty ∧
    closeTest (twoReady.prune .s3) StageId.s3.num .autoRaise 0 = none ∧
    (isolate (demanding 500 0)).ix.own = none ∧ (isolate (demanding 500 0)).position .s1 ≠ .closed ∧
    closeTest ((isolate (demanding 500 0)).prune .s1) StageId.s1.num .autoRaise 0 = none ∧
    (demanding 0 500).vc.low < (demanding 0 500).settings.threshold ∧
    (demanding 0 500).settings.threshold ≤ (demanding 0 500).vc.high ∧ (demanding 0 500).peerIntent .opening = false ∧
    unblocked (demanding 0 500) (demanding 0 500).inService = [.s2] ∧
    openRefusal (isolate (demanding 0 500)) StageId.s2.num .autoLower = none ∧
    (isolate (demanding 0 500)).position .s2 ≠ .opened := by decide +kernel

theorem witness_DemandHeldBack : cfg.halfBand ≤ cfg.vset ∧ 979 < cfg.vset - cfg.halfBand ∧
    cfg.vset + cfg.halfBand < 1021 ∧ cfg.vset - cfg.halfBand ≤ 980 ∧ 1020 ≤ cfg.vset + cfg.halfBand ∧
    (heardIntent .close (demanding 500 0)).peerIntent .close = true ∧
    (heardIntent .opening (demanding 0 500)).peerIntent .opening = true ∧
    { demanding 500 0 with hm := { base.hm with thdAlarm := true } }.harmAlarm = true ∧
    unblocked { demanding 500 0 with ready := [] } [] = [] ∧
    unblocked (worn (demanding 500 0)) (worn (demanding 500 0)).ready = [.s1] ∧
    closeTest ((worn (demanding 500 0)).prune .s1) StageId.s1.num .autoRaise 0 = some .duty ∧
    (demanding 499 499).vc.low < (demanding 499 499).settings.threshold ∧
    (demanding 499 499).vc.high < (demanding 499 499).settings.threshold := by decide +kernel

theorem test_demand : (demand (demanding 500 0)).ix.own = some ⟨1, .close, .s1, 50, 30, .queued false 0⟩ ∧
    (demand (demanding 0 500)).lc.intentSlot = some ⟨1, .opening, .s2, 50, 1000, 30⟩ ∧
    (demand (demanding 499 0)).vc.state = .watching ∧ (demand twoReady).ix.own.map Intent.stage = some .s3 ∧
    ((demand (isolate (demanding 500 0))).stage .s1).closeOut = true ∧
    ((demand (isolate (demanding 0 500))).stage .s2).lastCause = .autoLower := by decide +kernel

theorem test_demand_held : (demand (worn (demanding 500 0))).vc.unserved = .duty ∧
    (demand (heardIntent .close (demanding 500 0))).vc.unserved = .peerIntent ∧
    (demand { demanding 0 500 with inService := [] }).vc.unserved = .noneClosed := by decide +kernel

theorem witness_CloseTestPasses : base.configured .s1 = true ∧ closeTest base 1 .autoRaise 0 = none ∧
    ¬(1 ≤ 0 ∧ 0 ≤ 4 ∧ 0 ≤ base.settings.stageCount) ∧ ¬(1 ≤ 3 ∧ 3 ≤ 4 ∧ 3 ≤ base.settings.stageCount) := by decide +kernel

/-- Table 3-2, two conditions at once: the first of the table gives the reason. -/
theorem test_close_test_order :
    closeTest { base with blockSet := .all true, stages := .all .start } 1 .autoRaise 0 = some .blocked ∧
    closeTest { base with blockSet := .all true, stages := .all .start } 1 .order 0 = some .absent ∧
    closeTest { base with hm := { base.hm with thdAlarm := true } } 3 .autoRaise 0 = some .harmBlock ∧
    closeTest (withStage .s1 { Stage.start with state := .fault .failToClose, tripLatch := true } base) 1 .order 0 =
      some .lockout ∧
    closeTest { worn base with vc := { base.vc with deadLine := true }, port := { base.port with lost := true } } 1 .order 0 =
      some .deadLine := by decide +kernel

/-- Table 3-2. -/
theorem test_close_test : closeTest base 2 .order 0 = some .already ∧ closeTest base 3 .order 0 = some .badStage ∧
    closeTest { base with vc := { base.vc with deadLine := true } } 1 .order 0 = some .deadLine := by decide +kernel

theorem base_safe : StagesSafe base where
  each k := by cases k <;> constructor <;> decide +kernel
  lists := by constructor <;> first | decide +kernel | (intro k; cases k <;> decide +kernel)
  configured k := by cases k <;> decide +kernel
  oneClosing j k := by cases j <;> cases k <;> decide +kernel

def dying : State := { base with vc := { base.vc with deadRun := 2 }, store := { base.store with vctl := 299 } }

theorem dying_safe : StagesSafe dying :=
  ⟨base_safe.each, ⟨base_safe.lists.ready, base_safe.lists.inService, base_safe.lists.readyOnce,
    base_safe.lists.inServiceOnce⟩, base_safe.configured, base_safe.oneClosing⟩

def closingOp (cut : Option Cause) : Operation := ⟨.close, .order, 3, 99999900, cut⟩

/-- Stage 1 closes while stage 2 is CLOSED. -/
def closing (cut : Option Cause) : State := withStage .s1
  { Stage.start with state := .closing, closeOut := true, op := some (closingOp cut), pulse := some 10, window := some 9 }
  { base with ready := [] }

def dyingClosing : State := { closing none with
  vc := { base.vc with deadRun := 2 }, store := { base.store with vctl := 299 } }

theorem dyingClosing_safe : StagesSafe dyingClosing where
  each k := by cases k <;> constructor <;> decide +kernel
  lists := by constructor <;> first | decide +kernel | (intro k; cases k <;> decide +kernel)
  configured k := by cases k <;> decide +kernel
  oneClosing j k := by cases j <;> cases k <;> decide +kernel

/-- A declared dead line with its restore count, and the voltage now. -/
def dead (restore vctl : Nat) : State := { base with
  vc := { base.vc with
    state := .suspended, deadLine := true, restore := restore
    causes := ⟨false, false, false, false, true, false, false⟩ }
  store := { base.store with vctl := vctl } }

def overvolted (run : Nat) : State := { base with
  vc := { base.vc with fovRun := run, fovRep := 59 }, store := { base.store with vhi := 1100 } }

theorem witness_DeadLineDeclaredAndEnded : StagesSafe dying ∧ dying.vc.deadLine = false ∧ dying.store.vctl < 300 ∧
    2 ≤ dying.vc.deadRun ∧ (dying.stage .s2).state = .closed ∧ (dying.stage .s1).state = .ready ∧
    StagesSafe dyingClosing ∧ dyingClosing.vc.deadLine = false ∧ dyingClosing.store.vctl < 300 ∧
    2 ≤ dyingClosing.vc.deadRun ∧ (dyingClosing.stage .s1).state = .closing ∧
    (dyingClosing.stage .s1).op = some (closingOp none) ∧
    { dying with vc := { dying.vc with deadRun := 1 } }.vc.deadRun < 2 ∧ 300 ≤ base.store.vctl ∧
    (dead 298 800).vc.deadLine = true ∧ 0 < (dead 298 800).settings.restoreTime ∧
    800 ≤ (dead 298 800).store.vctl ∧ (dead 298 800).vc.restore + 1 < (dead 298 800).settings.restoreTime ∧
    (dead 298 799).store.vctl < 800 ∧ (dead 299 800).settings.restoreTime ≤ (dead 299 800).vc.restore + 1 ∧
    (dead 299 800).vc.causes = ⟨false, false, false, false, true, false, false⟩ ∧
    (dead 299 800).vc.state = .suspended ∧
    Proposes ⟨4, .close, .s1, 50, 30, .holding 10⟩ (proposing (.holding 10) dying) ∧
    StagesSafe (proposing (.holding 10) dying) ∧
    ((dying.stage .s1).state ≠ .closed ∧ dying.position .s2 ≠ .opened ∧ (dying.stage .s3).state ≠ .closed) := by
  refine ⟨dying_safe, ?_, ?_, ?_, ?_, ?_, dyingClosing_safe, ?_⟩
  on_goal 6 => and_intros
  all_goals first
    | decide +kernel
    | exact proposes (by decide +kernel)
    | exact ⟨dying_safe.each, ⟨dying_safe.lists.1, dying_safe.lists.2, dying_safe.lists.3, dying_safe.lists.4⟩,
        dying_safe.configured, dying_safe.oneClosing⟩

/-- A close intent of the own station while the voltage is high. -/
def highProposing (run : Nat) : State := { overvolted run with
  vc := { (overvolted run).vc with state := .proposing }
  ix := { base.ix with own := some ⟨4, .close, .s1, 50, 30, .queued false 0⟩ } }

theorem witness_FastOvervoltageOpens : (overvolted 3).permitted = true ∧
    (overvolted 3).settings.fastOv ≤ (overvolted 3).store.vhi ∧ (overvolted 3).vc.fovRun = 3 ∧
    unblocked (overvolted 3) [.s2] = [.s2] ∧
    (overvolted 3).configured .s2 = true ∧ ((overvolted 3).stage .s2).state = .closed ∧
    (overvolted 4).vc.fovRun = 4 ∧ 59 ≤ (overvolted 4).vc.fovRep ∧ (highProposing 4).vc.state = .proposing ∧
    (highProposing 4).ix.own = some ⟨4, .close, .s1, 50, 30, .queued false 0⟩ ∧ StageId.s1 ∉ [StageId.s2] ∧
    (overvolted 4).vc.state ≠ .proposing ∧ unblocked (overvolted 3) [] = [] ∧
    { (overvolted 4).vc with fovRep := 58 }.fovRep < 59 ∧
    (overvolted 2).vc.fovRun < 3 ∧ base.store.vhi < base.settings.fastOv ∧
    { overvolted 3 with vc := (dead 0 0).vc }.permitted = false := by decide +kernel

theorem test_extremes : ((deadLineTest (snapshot dying).live dying).stage .s2).state = .opening ∧
    ((deadLineTest (snapshot dyingClosing).live dyingClosing).stage .s1).op = some (closingOp (some .deadLine)) ∧
    (deadLineTest [] (dead 299 800)).vc.state = .quiet ∧ (deadLineTest [] (dead 299 799)).vc.restore = 0 := by
  decide +kernel

/-- R92: the fourth cycle in a row, and the sixtieth after. -/
theorem test_overvoltage : ((fastOvTest [.s2] (overvolted 3)).stage .s2).lastCause = .fastOv ∧
    ((fastOvTest [.s2] (overvolted 4)).stage .s2).openOut = true ∧
    (fastOvTest [.s2] (overvolted 2)).vc.fovRun = 3 ∧
    (fastOvTest [.s2] (highProposing 4)).lc.outcomeSlot = some ⟨4, .withdrawn, .close, .s1, .autoRaise, .overvoltage⟩ := by
  decide +kernel

theorem witness_ResonanceIndex : 0 < (1 : Nat) ∧ 1000 * 1 < (1001 : Nat) ∧ (20000 : Nat) ≤ 20000 ∧ (1 : Nat) ≤ 1 := by
  decide

theorem witness_AlarmPersistence : cfg.slots.m1.order.isSome = true ∧ (1 : Nat) ≤ 2 ∧ [61, 62].length ≤ 2 ∧
    (∀ x ∈ [61, 62], 60 < x) ∧ (∀ x ∈ [54, 0], x < clearLevel 60 5) ∧ cfg.slots.m1.limit < 61 ∧
    55 = clearLevel cfg.slots.m1.limit cfg.hysteresis ∧ 1 ≤ 60 - 5 ∧ 5 - 5 < 1 := by decide +kernel

/-- Slot 1 in alarm, its shed count one below the delay; the station stands near the third harmonic. -/
def shedding (count thd : Nat) : State := { base with
  settings := { cfg with ssc := 81 }
  store := { base.store with h := ⟨100, 0, 0, 0, 0, 0⟩, thd := thd }
  hm := { base.hm with slots := ⟨⟨true, 0, count⟩, ⟨false, 0, 0⟩, ⟨false, 0, 0⟩, ⟨false, 0, 0⟩, ⟨false, 0, 0⟩, ⟨false, 0, 0⟩⟩ } }

def marksOf (s : State) : Six Bool :=
  Six.zipWith (qualifies s.settings s.presentIndex) s.settings.slots
    (Six.zipWith (shedStep s.settings.shedDelay s.permitted) s.settings.slots
      (monitorAlarms s.settings s.store s.hm).slots)

theorem witness_MonitorTakesCycle : { base.store with weak := true }.weak = true ∧ base.hm.thdAlarm = false ∧
    cfg.thdLimit < 81 ∧ 74 < max 1 (cfg.thdLimit - cfg.hysteresis) ∧ max 1 (cfg.thdLimit - cfg.hysteresis) ≤ 75 ∧
    cfg.slots.m1.order.isSome = true ∧ distance 30 (10 * 3) ≤ cfg.guard ∧ (shedding 599 0).store.weak = false ∧
    (∀ b ∈ (marksOf (shedding 598 0)).toList, b = false) ∧ unblocked (shedding 599 0) [] = [] ∧
    true ∈ (marksOf (shedding 599 0)).toList ∧
    (unblocked (shedding 599 0) (snapshot (shedding 599 0)).inService).getLast? = some .s2 ∧
    (shedding 599 0).configured .s2 = true ∧ ((shedding 599 0).stage .s2).state = .closed ∧
    cfg.slots.toList[1]? = some ⟨some 5, 60, 20⟩ ∧ base.store.h.toList[1]? = some base.store.h.m2 ∧
    base.hm.slots.toList[1]? = some base.hm.slots.m2 ∧ cfg.slots.toList[5]? = some ⟨none, 60, 20⟩ := by decide +kernel

/-- R102, R103, R112, R113. -/
theorem test_monitor : ((monitorCycle (snapshot (shedding 599 0)) (shedding 599 0)).stage .s2).lastCause = .harmShed ∧
    (monitorCycle (snapshot (shedding 599 0)) (shedding 599 0)).hm.slots.m1.shed = 0 ∧
    (monitorCycle (snapshot (shedding 598 0)) (shedding 598 0)).hm.slots.m1.shed = 599 ∧
    (monitorCycle ⟨[], [], .all none⟩ { base with
      store := { base.store with thd := 81 }, hm := { base.hm with thdRun := 119 } }).lc.triggerDelay = some 350 := by
  decide +kernel

/-- R101: a magnitude equal to the limit does not count; P = 2. -/
theorem test_alarm : alarmStep 2 60 5 60 false 1 = (false, 0) ∧ alarmStep 2 60 5 61 false 1 = (true, 0) ∧
    alarmStep 2 60 5 55 true 1 = (true, 0) ∧ alarmStep 2 60 5 54 true 1 = (false, 0) := by decide

def served : RelayEntry := { RelayEntry.start with inService := true, highCount := 1, tripCount := 24 }

/-- Stage 2 in service, its unbalance at `u` in the cycle, its entry as given. -/
def unbalanced (u : Int) (e : RelayEntry) (s : State) : State := { s with
  store := { s.store with neutral := .all ⟨u, 0⟩ }, ur := { s.ur with entries := s.ur.entries.set .s2 e } }

theorem witness_UnbalanceTrips : 2 ≤ stageCfg.tripDelay ∧ served.highCount ≤ 1 ∧
    (judgeEntry stageCfg 400 served).2 = some .unbHighset ∧ (judgeEntry stageCfg 200 served).2 = some .unbTrip ∧
    0 < { served with blanking := 1 }.blanking ∧ base.configured .s3 = false ∧ base.configured .s1 = true ∧
    (base.ur.entries.get .s1).inService = false ∧ base.configured .s2 = true ∧
    (base.ur.entries.get .s2).inService = true ∧ base.ur.capture = none ∧
    (relayJudge (unbalanced 99 { served with alarmCount := 49 } base)).unbAlarm = base.unbAlarm ∧
    (relayJudge (unbalanced 100 { served with alarmCount := 49 } base)).unbAlarm ≠ base.unbAlarm ∧
    (snapshot (unbalanced 200 served base)).trips = ⟨none, some .unbTrip, none, none⟩ ∧
    (snapshot (unbalanced 400 served base)).trips = ⟨none, some .unbHighset, none, none⟩ := by decide +kernel

/-- R120, R126, R92: a fast overvoltage and a trip name one stage in one cycle. Whichever request arrives first, the latch is
set and the open in flight has the trip's cause. -/
theorem test_trip_and_overvoltage : ∀ o ∈ [CycleOrder.vhu, .uhv],
    let s := unbalanced 200 served (overvolted 3)
    ((evaluate o s).stage .s2).tripLatch = true ∧ ((evaluate o s).stage .s2).state = .opening ∧
    ((evaluate o s).stage .s2).op.map Operation.cause = some .unbTrip ∧
    ((evaluate o s).stage .s2).lastCause = .unbTrip := by decide +kernel

theorem test_unbalance_trip : (judgeEntry stageCfg 254 { served with tripCount := 23 }).1.tripCount = 24 ∧
    (judgeEntry stageCfg 199 served).1.tripCount = 0 ∧ (judgeEntry stageCfg 199 served).2 = none := by decide +kernel

def capturing (count : Nat) : State := { base with
  store := { base.store with neutral := .all ⟨160, -160⟩ }
  ur := { base.ur with capture := some ⟨.s2, count, 0, 0, 0x40, 0x77⟩ }
  oi := { base.oi with mark := .capture } }

theorem witness_UnbalanceAlarmAndCapture : (served.blanking = 0 ∧ served.tripSent = false ∧
    stageCfg.alarmLevel ≤ 100 ∧ 92 < stageCfg.alarmLevel * 15 / 16 ∧ stageCfg.alarmLevel * 15 / 16 ≤ 93 ∧
    RelayEntry.start.alarmCount = 0 ∧ RelayEntry.start.alarm = false ∧ 1 ≤ stageCfg.alarmDelay ∧
    [100, 101].length ≤ stageCfg.alarmDelay ∧ (capturing 14).ur.capture = some ⟨.s2, 14, 0, 0, 0x40, 0x77⟩ ∧
    (capturing 15).ur.capture = some ⟨.s2, 15, 0, 0, 0x40, 0x77⟩ ∧ base.configured .s2 = true ∧
    ((capturing 15).ur.entries.get .s2).inService = true ∧ StageState.opening ≠ .closed ∧
      ((fun _ => some Cause.unbTrip : StageId → Option Cause) .s2).isSome = true) ∧
    ∀ k, (relayEntry (capturing 14) k).2 = none ∧ (relayEntry (capturing 15) k).2 = none :=
  ⟨by decide +kernel, by intro k; cases k <;> decide +kernel⟩

/-- R121, R129, R130. -/
theorem test_capture : ((relayJudge (capturing 15)).ur.entries.get .s2).null = ⟨10, -10⟩ ∧
    (relayJudge (capturing 15)).oi.last = ⟨0x40, 0x77, .done, 0⟩ ∧
    (relayNotice .s2 .closed .opening (capturing 3)).oi.last = ⟨0x40, 0x77, .failed, 21⟩ ∧
    (judgeEntry stageCfg 100 { served with tripCount := 0, alarmCount := 49 }).1.alarm = true := by decide +kernel

/-! ### Contacts and the Stage Supervisor -/

def blocked : State := { base with
  block := ⟨true, 0⟩
  vc := { base.vc with state := .suspended, causes := ⟨false, true, false, false, false, false, false⟩ } }

theorem witness_BlockInputSuspends : base.watchingInputs = true ∧ base.stepDue = false ∧ base.block.active = false ∧
    base.vc.causes.isEmpty = true ∧ base.vc.state ≠ .executing ∧ blocked.watchingInputs = true ∧
    blocked.block.active = true ∧ blocked.vc.causes = ⟨false, true, false, false, false, false, false⟩ ∧
    blocked.vc.state = .suspended ∧ blocked.phase = .running ∧ probed.watchingInputs = true ∧
    probed.stepDue = false ∧ probed.block.active = false ∧ probed.vc.causes.isEmpty = false ∧
    { probed with block := ⟨true, 0⟩ }.block.active = true ∧
    Proposes ⟨4, .close, .s1, 50, 30, .queued false 3⟩ (proposing (.queued false 3) base) := by
  and_intros
  all_goals first | decide +kernel | exact proposes (by decide +kernel)

theorem test_block_input : (after (.contactChange blockContact) base).vc.state = .suspended ∧
    (after (.contactChange blockContact) blocked).vc.state = .quiet ∧
    (after (.contactChange blockContact) base).pins = 0x1000 ∧
    (after (.contactChange blockContact) probed).vc.causes.blockInput = true := by decide +kernel

/-- A change of a stage's position contacts, judged by evaluation. -/
theorem travels {k : StageId} {changed : BitVec 13} {p : Position} {s : State}
    (h : (changed = oneContact k .closed ∨ changed = oneContact k .opened ∨ changed = bothContacts k) ∧
      s.phase = .running ∧ s.configured k = true ∧ (takeInputs changed s).position k = p) : Travel k changed p s :=
  ⟨h.1, h.2.1, h.2.2.1, h.2.2.2⟩

def inputsTransit : StageInputs := ⟨⟨false, 0⟩, ⟨false, 0⟩, ⟨false, 0⟩, true⟩

/-- The breaker of a stage between its positions, as the stage sees it. -/
def between (k : StageId) (s : State) : State := withInputs k inputsTransit s

def discharging : State := withStage .s1 { Stage.start with state := .discharging, discharge := 200000 }
  { base with ready := [] }

def lockedOut : State := withStage .s1 { Stage.start with state := .lockout, tripLatch := true, discharge := 5000 }
  { base with ready := [] }

/-- A declared dead line. -/
def underDead (s : State) : State := { s with vc := { s.vc with deadLine := true } }

theorem witness_ExternalChangesTaken : Travel .s2 (bothContacts .s2) .opened base ∧ ChainApart .s2 base ∧
    Travel .s2 (oneContact .s2 .opened) .opened (between .s2 base) ∧ ChainApart .s2 (between .s2 base) ∧
    (base.stage .s2).state = .closed ∧
    Travel .s1 (bothContacts .s1) .closed base ∧ ChainApart .s1 base ∧ base.vc.deadLine = false ∧
    (base.stage .s1).state = .ready ∧ Travel .s1 (oneContact .s1 .closed) .closed (between .s1 discharging) ∧
    ChainApart .s1 (between .s1 discharging) ∧ (discharging.stage .s1).state = .discharging ∧
    Travel .s1 (bothContacts .s1) .closed lockedOut ∧ Travel .s1 (oneContact .s1 .closed) .closed (between .s1 lockedOut) ∧
    lockedOut.stepDue = false ∧ (lockedOut.stage .s1).state = .lockout ∧
    Travel .s1 (bothContacts .s1) .closed (underDead base) ∧ ChainApart .s1 (underDead base) ∧
    (underDead base).vc.deadLine = true ∧
    Travel .s1 (oneContact .s1 .closed) .closed (between .s1 (underDead discharging)) ∧
    ChainApart .s1 (between .s1 (underDead discharging)) ∧
    ((underDead discharging).stage .s1).state = .discharging ∧
    Travel .s2 (bothContacts .s2) .opened lowering ∧ ChainApart .s2 lowering ∧ (lowering.stage .s2).state = .closed ∧
    lowering.ix.own = some ⟨4, .opening, .s2, 50, 30, .holding 0⟩ ∧
    Travel .s1 (bothContacts .s1) .closed (proposing (.holding 10) base) ∧
    ChainApart .s1 (proposing (.holding 10) base) ∧ ((proposing (.holding 10) base).stage .s1).state = .ready := by
  and_intros
  all_goals first | decide +kernel | exact quietChain _ _ rfl | exact travels (by decide +kernel)

/-- R95: what enters CLOSED under a dead line is opened at once. -/
theorem test_dead_line_open : ((after (.contactChange (bothContacts .s1)) (underDead base)).stage .s1).lastCause = .deadLine ∧
    ((after (.contactChange (bothContacts .s1)) (underDead base)).stage .s1).openOut = true ∧
    (after (.contactChange (bothContacts .s1)) (underDead base)).inService = [.s2] := by decide +kernel

theorem test_external : ((after (.contactChange (bothContacts .s2)) base).stage .s2).lastCause = .extOpen ∧
    ((after (.contactChange (oneContact .s2 .opened)) (between .s2 base)).stage .s2).state = .discharging ∧
    ((after (.contactChange (bothContacts .s1)) discharging).stage .s1).lastCause = .extCloseCharged ∧
    (after (.contactChange (bothContacts .s1)) base).inService = [.s2, .s1] := by decide +kernel

theorem test_lockout_enforced : ((after (.contactChange (bothContacts .s1)) lockedOut).stage .s1).openOut = true ∧
    ((after (.contactChange (bothContacts .s1)) lockedOut).stage .s1).tripLatch = true ∧
    ((after (.contactChange (bothContacts .s1)) lockedOut).stage .s1).duty = [100000] := by decide +kernel

def openingOp : Operation := ⟨.opening, .unbTrip, 0, 99999900, none⟩

def opening (latched : Bool) : State := withStage .s2
  { Stage.start with
    state := .opening, openOut := true, tripLatch := latched, op := some openingOp, pulse := some 10, window := some 9 }
  { base with inService := [] }

theorem witness_CommandsComplete : Travel .s1 (bothContacts .s1) .closed (closing none) ∧
    Travel .s1 (oneContact .s1 .closed) .closed (between .s1 (closing none)) ∧ ChainApart .s1 (closing none) ∧
    ChainApart .s1 (between .s1 (closing none)) ∧ (closing none).vc.deadLine = false ∧
    ((closing none).stage .s1).state = .closing ∧ ((closing none).stage .s1).op = some (closingOp none) ∧
    Travel .s2 (bothContacts .s2) .opened (opening true) ∧
    Travel .s2 (oneContact .s2 .opened) .opened (between .s2 (opening false)) ∧ ChainApart .s2 (opening true) ∧
    ChainApart .s2 (between .s2 (opening false)) ∧
    ((opening true).stage .s2).state = .opening ∧ ((opening true).stage .s2).op = some openingOp ∧
    Travel .s1 (bothContacts .s1) .closed (underDead (closing none)) ∧ ChainApart .s1 (underDead (closing none)) ∧
    (underDead (closing none)).vc.deadLine = true ∧ ((underDead (closing none)).stage .s1).op = some (closingOp none) :=
  ⟨travels (by decide +kernel), travels (by decide +kernel), quietChain _ _ rfl, quietChain _ _ rfl, rfl, rfl, rfl,
    travels (by decide +kernel), travels (by decide +kernel), quietChain _ _ rfl, quietChain _ _ rfl, rfl, rfl,
    travels (by decide +kernel), quietChain _ _ rfl, rfl, rfl⟩

theorem test_completions : ((after (.contactChange (bothContacts .s1)) (closing none)).stage .s1).lastClose = 100 ∧
    ((after (.contactChange (bothContacts .s2)) (opening true)).stage .s2).state = .lockout ∧
    ((after (.contactChange (oneContact .s2 .opened)) (between .s2 (opening false))).stage .s2).state = .discharging := by
  decide +kernel

/-! ### The Stage Supervisor's requests and timers -/

/-- Stage 2 in FAULT, counted as connected or not. -/
def faulted (kind : FaultKind) : State := withStage .s2 { Stage.start with state := .fault kind } { base with inService := [] }

/-- Table 3-4, two conditions at once. -/
theorem test_open_conditions_order :
    openRefusal { base with blockSet := .all true } 1 .fastOv = some .blocked ∧
    openRefusal (withStage .s1 .start base) 1 .harmShed = some .stageChanged ∧
    openRefusal (withStage .s1 .start base) 1 .order = some .absent ∧ openRefusal base 3 .fastOv = some .badStage := by
  decide +kernel

theorem witness_OpenRequestsAct : base.configured .s2 = true ∧ ¬(1 ≤ 3 ∧ 3 ≤ 4 ∧ 3 ≤ base.settings.stageCount) ∧ openRefusal base StageId.s2.num .order = none ∧
    openRefusal base StageId.s1.num .order = some .already ∧ (base.stage .s2).state = .closed ∧
    openRefusal (faulted .failToOpen) StageId.s2.num .order = none ∧
    ((faulted .failToOpen).stage .s2).state.isFault = true ∧
    openRefusal (withInputs .s2 inputsOpened base) StageId.s2.num .order = none ∧
    (withInputs .s2 inputsOpened base).position .s2 = .opened ∧
    openRefusal (closing none) StageId.s1.num .order = none ∧ ((closing none).stage .s1).state = .closing ∧
    ((closing none).stage .s1).op = some (closingOp none) ∧
    openRefusal (opening true) StageId.s2.num .unbTrip = none ∧ ((opening true).stage .s2).state = .opening ∧
    ((opening true).stage .s2).op = some openingOp ∧
    lowering.ix.own = some ⟨4, .opening, .s2, 50, 30, .holding 0⟩ ∧
    openRefusal lowering StageId.s2.num .fastOv = none ∧ lowering.position .s2 ≠ .opened ∧
    openRefusal (withInputs .s2 inputsOpened lowering) StageId.s2.num .fastOv = none ∧
    (withInputs .s2 inputsOpened lowering).position .s2 = .opened ∧
    { lowering.ix with own := some ⟨4, .opening, .s2, 50, 30, .committed⟩ }.own.map Intent.phase = some .committed := by
  decide +kernel

/-- R32, R37, R39, R40. -/
theorem test_open_requests : ((requestOpen .s2 .harmShed 0 base).stage .s2).openOut = true ∧
    ((requestOpen .s2 .order 0 (withInputs .s2 inputsOpened base)).stage .s2).state = .discharging ∧
    ((requestOpen .s1 .order 9 (closing none)).stage .s1).op = some (closingOp (some .order)) ∧
    ((requestOpen .s2 .order 0 (faulted .failToOpen)).stage .s2).state = .opening := by decide +kernel

theorem witness_TripRequestsTaken : base.configured .s2 = true ∧ (base.stage .s2).state = .closed ∧
    ((faulted .failToOpen).stage .s2).state.isFault = true ∧ ((faulted .failToOpen).stage .s2).connected = true ∧
    ((faulted .failToClose).stage .s2).state.isFault = true ∧ ((faulted .failToClose).stage .s2).connected = false ∧
    ((closing none).stage .s1).state = .closing ∧ ((closing none).stage .s1).op = some (closingOp none) ∧
    ((opening false).stage .s2).state = .opening ∧ ((opening false).stage .s2).op = some openingOp ∧
    (base.stage .s1).state = .ready ∧ base.position .s1 = .opened ∧ (discharging.stage .s1).state = .discharging ∧
    (between .s1 discharging).position .s1 = .transit ∧ (withInputs .s1 inputsClosed discharging).position .s1 = .closed ∧
    (lockedOut.stage .s1).state = .lockout ∧ base.configured .s3 = false ∧
    ((withStage .s1 .start base).stage .s1).state = .absent ∧
    lowering.ix.own = some ⟨4, .opening, .s2, 50, 30, .holding 0⟩ ∧ (lowering.stage .s2).state = .closed ∧
    (proposing (.holding 10) base).ix.own = some ⟨4, .close, .s1, 50, 30, .holding 10⟩ ∧
    ((proposing (.holding 10) base).stage .s1).state = .ready ∧
    (proposing (.holding 10) base).position .s1 = .opened := by decide +kernel

/-- R47: the table by state. -/
theorem test_trip_requests : ((requestTrip .s2 .unbTrip base).stage .s2).state = .opening ∧
    ((requestTrip .s1 .unbTrip base).stage .s1).state = .lockout ∧ (requestTrip .s1 .unbTrip base).ready = [] ∧
    ((requestTrip .s1 .unbTrip discharging).stage .s1).discharge = 200000 ∧
    ((requestTrip .s1 .unbHighset (closing none)).stage .s1).op = some (closingOp (some .unbHighset)) ∧
    ((requestTrip .s2 .unbTrip (faulted .failToClose)).stage .s2).lastCause = .unbTrip := by decide +kernel

theorem test_pulse_end : ((after (.pulseEnd .s1) (closing none)).stage .s1).closeOut = false ∧
    ((after (.pulseEnd .s1) (closing none)).stage .s1).state = .closing := by decide +kernel

theorem witness_PulsesAndWindowsEnd : ((closing none).stage .s1).pulse = some 10 ∧
    (closing none).configured .s1 = true ∧ ChainApart .s1 (closing none) ∧
    ((closing none).stage .s1).state = .closing ∧ ((closing none).stage .s1).op = some (closingOp none) ∧
    (opening true).configured .s2 = true ∧ ChainApart .s2 (opening true) ∧
    ((opening true).stage .s2).state = .opening ∧ ((opening true).stage .s2).op = some openingOp :=
  ⟨rfl, by decide +kernel, quietChain _ _ rfl, rfl, rfl, by decide +kernel, quietChain _ _ rfl, rfl, rfl⟩

theorem test_windows : ((after (.closeWindowExpiry .s1) (closing none)).stage .s1).state = .fault .failToClose ∧
    (after (.closeWindowExpiry .s1) (closing none)).alarm = true ∧
    ((after (.openWindowExpiry .s2) (opening false)).stage .s2).state = .fault .failToOpen := by decide +kernel

theorem witness_CutCloseEnds : ChainApart .s1 (closing (some .deadLine)) ∧
    (closing (some .deadLine)).configured .s1 = true ∧
    ((closing (some .deadLine)).stage .s1).op = some (closingOp (some .deadLine)) ∧
    ((closing (some .deadLine)).stage .s1).state = .closing ∧ (closing (some .deadLine)).position .s1 = .opened ∧
    ChainApart .s1 (between .s1 (closing (some .order))) ∧ (between .s1 (closing (some .order))).position .s1 = .transit ∧
    Travel .s1 (bothContacts .s1) .closed (closing (some .order)) ∧ ChainApart .s1 (closing (some .order)) ∧
    Travel .s1 (oneContact .s1 .closed) .closed (between .s1 (closing (some .order))) ∧
    (closing (some .order)).vc.deadLine = false ∧
    Travel .s1 (bothContacts .s1) .closed (underDead (closing (some .order))) ∧
    ChainApart .s1 (underDead (closing (some .order))) ∧ (underDead (closing (some .order))).vc.deadLine = true ∧
    ((underDead (closing (some .order))).stage .s1).state = .closing :=
  ⟨quietChain _ _ rfl, by decide +kernel, rfl, rfl, by decide +kernel, quietChain _ _ rfl, by decide +kernel,
    travels (by decide +kernel), quietChain _ _ rfl, travels (by decide +kernel), rfl,
    travels (by decide +kernel), quietChain _ _ rfl, rfl, rfl⟩

theorem test_cut_close : ((after (.closeWindowExpiry .s1) (closing (some .order))).stage .s1).state = .discharging ∧
    ((after (.contactChange (bothContacts .s1)) (closing (some .order))).stage .s1).state = .opening ∧
    (after (.contactChange (bothContacts .s1)) (closing (some .order))).lc.outcomeSlot =
      some ⟨3, .executed, .close, .s1, .order, .none⟩ := by decide +kernel

def drifting (k : StageId) (origin : StageState) : State :=
  withStage k { base.stage k with disc := some ⟨origin, 60⟩ } base

theorem witness_PositionsInTravel : Travel .s2 (oneContact .s2 .closed) .transit base ∧
    Travel .s2 (oneContact .s2 .opened) .bad base ∧ (base.stage .s2).state = .closed ∧ base.stepDue = false ∧
    Travel .s1 (oneContact .s1 .opened) .transit base ∧ (base.stage .s1).state.resting = true ∧
    Travel .s2 (oneContact .s2 .closed) .closed (between .s2 (drifting .s2 .closed)) ∧
    Travel .s1 (oneContact .s1 .opened) .opened (between .s1 (drifting .s1 .ready)) ∧
    Travel .s1 (oneContact .s1 .opened) .transit (closing none) ∧ ((closing none).stage .s1).state = .closing ∧
    Travel .s2 (oneContact .s2 .closed) .transit (opening true) ∧ ((opening true).stage .s2).state = .opening ∧
    Travel .s2 (bothContacts .s2) .opened (faulted .failToOpen) ∧
    ((faulted .failToOpen).stage .s2).state.isFault = true ∧
    Travel .s1 (bothContacts .s1) .closed (withStage .s1 .start base) ∧
    ((withStage .s1 .start base).stage .s1).state = .absent ∧
    base.watchingInputs = true ∧ base.configured .s1 = true ∧
    probed.phase = .probing 0 ∧ probed.stepDue = false ∧ (oneContact .s1 .closed).getLsbD 12 = false ∧
    probed.configured .s1 = true ∧ (drifting .s2 .closed).configured .s2 = true ∧
    ((drifting .s2 .closed).stage .s2).disc = some ⟨.closed, 60⟩ ∧
    ((drifting .s2 .closed).stage .s2).state = .closed ∧ ((drifting .s1 .ready).stage .s1).disc = some ⟨.ready, 60⟩ ∧
    ((drifting .s1 .ready).stage .s1).state.resting = true ∧ (drifting .s1 .ready).configured .s1 = true :=
  ⟨travels (by decide +kernel), travels (by decide +kernel), rfl, rfl, travels (by decide +kernel), rfl,
    travels (by decide +kernel), travels (by decide +kernel), travels (by decide +kernel), rfl,
    travels (by decide +kernel), rfl, travels (by decide +kernel), rfl, travels (by decide +kernel), rfl,
    by decide +kernel⟩

/-- R43, R45, R46: from CLOSED to TRANSIT and back. -/
theorem test_travel : ((after (.contactChange (oneContact .s2 .closed)) base).stage .s2).disc = some ⟨.closed, 0⟩ ∧
    ((after (.contactChange (oneContact .s2 .opened)) base).stage .s2).disc = some ⟨.closed, 0⟩ ∧
    ((after (.contactChange (oneContact .s2 .closed)) (between .s2 (drifting .s2 .closed))).stage .s2).disc = none ∧
    ((after (.contactChange (oneContact .s1 .closed)) probed).inputs.get .s1).seen = true ∧
    ((after (.contactChange (oneContact .s1 .attention)) base).inputs.get .s1).attention = ⟨true, 0⟩ := by
  decide +kernel

theorem test_discrepancy :
    ((after (.discrepancyExpiry .s2) (drifting .s2 .closed)).stage .s2).state = .fault (.discrepancy true) ∧
    (after (.discrepancyExpiry .s2) (drifting .s2 .closed)).inService = [] ∧
    ((after (.discrepancyExpiry .s1) (drifting .s1 .ready)).stage .s1).connected = false := by decide +kernel

theorem test_discharge_end : (after (.dischargeEnd .s1) discharging).ready = [.s1] ∧
    ((after (.dischargeEnd .s1) lockedOut).stage .s1).state = .lockout ∧
    ((after (.dischargeEnd .s1) lockedOut).stage .s1).discharge = 0 := by decide +kernel

def dutied : State := withStage .s1 { base.stage .s1 with duty := [13599, 13600, 13601] } base

theorem witness_DischargesAndDutiesEnd : discharging.stepDue = false ∧ (discharging.stage .s1).state = .discharging ∧
    discharging.position .s1 = .opened ∧ (lockedOut.stage .s1).state = .lockout ∧ lockedOut.stepDue = false ∧
    ((faulted .failToClose).stage .s2).state.isFault = true ∧ dutied.configured .s3 = false ∧
    dutied.configured .s1 = true ∧ (dutied.stage .s1).duty.Pairwise (· ≤ ·) ∧
    (between .s1 discharging).position .s1 = .transit ∧ ((between .s1 discharging).stage .s1).disc = none ∧
    ((between .s1 (drifting .s1 .discharging)).stage .s1).disc = some ⟨.discharging, 60⟩ ∧
    (withInputs .s1 inputsClosed discharging).position .s1 = .closed ∧ discharging.configured .s1 = true ∧
    (underDead (withInputs .s1 inputsClosed discharging)).vc.deadLine = true ∧
    ChainApart .s1 (withInputs .s1 inputsClosed discharging) ∧
    ChainApart .s1 (underDead (withInputs .s1 inputsClosed discharging)) := by
  and_intros
  all_goals first | decide +kernel | exact quietChain _ _ rfl

/-- R46: the position taken at the end of a discharge. -/
theorem test_discharge_end_positions :
    ((after (.dischargeEnd .s1) (between .s1 discharging)).stage .s1).disc = some ⟨.ready, 0⟩ ∧
    (after (.dischargeEnd .s1) (between .s1 discharging)).ready = [.s1] ∧
    ((after (.dischargeEnd .s1) (withInputs .s1 inputsClosed discharging)).stage .s1).lastCause = .extClose ∧
    ((after (.dischargeEnd .s1) (underDead (withInputs .s1 inputsClosed discharging))).stage .s1).state = .opening := by
  decide +kernel

/-- R62: an entry is older than the horizon from second t + 86,401 on. -/
theorem test_pruning : ((after .minutePruning dutied).stage .s1).duty = [13600, 13601] := by decide +kernel

theorem test_settles : (after .stationSettleExpiry (settling (some 0) none)).vc.state = .watching ∧
    (after .stationSettleExpiry (settling (some 0) (some 100))).vc.state = .quiet ∧
    (after .peerSettleExpiry (settling none (some 0))).vc.state = .watching := by decide +kernel

/-! ### The line -/

def awaiting : State := { base with lc := { base.lc with access := .waiting, armed := true } }

theorem witness_LineEventsTaken : base.receiving = true ∧ base.lc.rx.character = false ∧ awaiting.awaitsIdle = true ∧
    (0x0505 : BitVec 16) ≠ 0 := by decide +kernel

/-- R179: the seed and the first two draws of station 0x0B. -/
theorem test_draws : lfsrSeed 0x0B = 0x0B0B ∧ lfsrDraw 0x0B0B = 0x8F30 ∧ lfsrDraw 0x8F30 = 0x08F3 ∧
    deferralOf 0x8F30 = 0 ∧ deferralOf 0x08F3 = 3 := by decide +kernel

theorem test_line_events : (after .mediumIdle awaiting).lc.access =
      .deferring ((lfsrDraw 0x0505).toNat % 16) (60 * ((lfsrDraw 0x0505).toNat % 16)) ∧
    (after .startEdge (after .mediumIdle awaiting)).lc.access = .waiting ∧
    (after (.carrierDetectChange true) (after .mediumIdle awaiting)).lc.access = .waiting := by decide +kernel

def midCharacter : State := { base with lc := { base.lc with rx := ⟨some ⟨[0x31], 1, false, false⟩, true, 0, false⟩ } }

/-- A frame held by the receiver, the line at space or at mark. -/
def heldAt (mark : Bool) : State := { base with lc := { base.lc with rx := ⟨some ⟨[0x31], 1, false, false⟩, false, 0, mark⟩ } }

def framed (bytes : List Byte) : State := { base with lc := { base.lc with
  rx := ⟨some ⟨bytes, bytes.length, false, false⟩, false, 0, true⟩ } }

def orderFrameBytes : List Byte :=
  [0x34, 0x40, 5, 1, 4, 0x77, 1, 1, 0] ++ toBytes (crc16 [0x34, 0x40, 5, 1, 4, 0x77, 1, 1, 0]) 2

theorem witness_FramesReceived : midCharacter.receiving = true ∧ midCharacter.lc.rx.character = true ∧
    runChar .atEdge (cleanSamples 0xA5) = some (.ended 0xA5 false false, true, 0) ∧
    runChar .atEdge (heldSpace 0) = some (.ended 0 false true, false, 0) ∧
    runChar .atEdge (List.replicate 9 true) = some (.falseStart, true, 0) ∧
    (∀ b, (heldAt b).pending = [] ∧ (heldAt b).phase ≠ .held ∧ (heldAt b).due = [] ∧ (heldAt b).receiving = true) ∧
    (framed orderFrameBytes).receiving = true ∧ (framed orderFrameBytes).lc.rx.character = false ∧
    (framed orderFrameBytes).lc.rx.frame = some ⟨orderFrameBytes, 11, false, false⟩ ∧
    checkFrame ⟨orderFrameBytes, 11, false, false⟩ = .good := by decide +kernel

theorem test_characters : (after (.characterEnd (cleanSamples 0xA5)) midCharacter).lc.rx.frame =
      some ⟨[0x31, 0xA5], 2, false, false⟩ ∧
    (after (.characterEnd (List.replicate 9 true)) midCharacter).lc.rx.frame = some ⟨[0x31], 1, true, false⟩ := by
  decide +kernel

/-- R173: after a stop bit read as space the idle count begins with the return to mark. -/
theorem test_held_space : (after (.characterEnd (heldSpace 0)) midCharacter).lc.rx.mark = false ∧
    (after (.characterEnd (heldSpace 7 ++ [true])) midCharacter).lc.rx.mark = true ∧
    (nextOf (step (heldAt false))).lc.rx.idle = 0 ∧ (nextOf (step (heldAt true))).lc.rx.idle = 6 := by decide +kernel

theorem test_frames : (after .frameCompletion (framed orderFrameBytes)).lc.ring.length = 1 ∧
    (after .frameCompletion (framed (orderFrameBytes.set 5 0))).lc.stats.crc = 1 ∧
    (after .frameCompletion (framed [1, 2, 3])).lc.stats.format = 1 := by decide +kernel

/-- R174, Table 9-2: the first check that fails, in its order. -/
theorem test_frame_checks : checkFrame ⟨orderFrameBytes, 11, true, true⟩ = .noise ∧
    checkFrame ⟨orderFrameBytes, 104, false, true⟩ = .framing ∧ checkFrame ⟨orderFrameBytes, 104, false, false⟩ = .long ∧
    checkFrame ⟨orderFrameBytes, 12, false, false⟩ = .format ∧ checkFrame ⟨orderFrameBytes, 6, false, false⟩ = .format := by
  decide +kernel

def deferred (l : LineChannel) : State := { base with lc := { l with access := .deferring 0 0 } }

def anIntent : IntentContent := ⟨4, .close, .s1, 50, 1000, 30⟩
def anOutcome : OutcomeContent := ⟨4, .executed, .close, .s1, .autoRaise, .none⟩

theorem witness_TransmissionStarts : (deferred base.lc).deferring = true ∧ chooseSlot (deferred base.lc).lc = none ∧
    chooseSlot (deferred { base.lc with armed := true }).lc = some .bulletin ∧
    chooseSlot (deferred { base.lc with detailSlot := some (2, 0x40) }).lc = some (.detail 2 0x40) ∧
    chooseSlot (deferred { base.lc with intentSlot := some anIntent, armed := true }).lc = some (.intent anIntent) := by
  decide +kernel

theorem test_transmission_start :
    (after .transmissionStart (deferred { base.lc with armed := true, intentSlot := some anIntent })).lc.armed = true ∧
    (after .transmissionStart (deferred { base.lc with armed := true })).lc.spacing = some 1000 ∧
    (after .transmissionStart (deferred { base.lc with armed := true })).lc.seq = 10 ∧
    (after .transmissionStart (deferred base.lc)).lc.access = .noAttempt := by decide +kernel

def keyed : State := { base with
  lc := { base.lc with access := .transmitting [0x32] 0 }
  ix := { base.ix with own := some ⟨4, .close, .s1, 50, 30, .queued true 0⟩ } }

def scheduled : State := { base with lc := { base.lc with
  triggerDelay := some 0, spacing := some 0, periodTimer := some 0 } }

theorem witness_TransmissionEndsAndArming : keyed.lc.access = .transmitting [0x32] 0 ∧
    scheduled.lc.periodTimer = some 0 ∧ scheduled.lc.triggerDelay = some 0 ∧ scheduled.lc.spacing = some 0 ∧
    { scheduled.lc with armed := true }.access = .noAttempt ∧ scheduled.lc.intentSlot = none ∧
    scheduled.lc.outcomeSlot = none ∧ scheduled.lc.detailSlot = none ∧
    (base.lc.working = true ∧ base.lc.triggerDelay = none ∧ base.lc.armed = false) ∧
    (listening false).vc.causes.has .listenIn = true ∧
    ((listening false).vc.causes.put .listenIn false).isEmpty = true ∧ (listening false).vc.state = .suspended := by
  decide +kernel

/-- R179, R181: arming begins an attempt, but within 1000 ms of the last bulletin's start. -/
theorem test_arming_attempt :
    (after .bulletinPeriodExpiry { scheduled with lc := { scheduled.lc with spacing := none } }).lc.access =
      .deferring ((lfsrDraw 0x0505).toNat % 16) (60 * ((lfsrDraw 0x0505).toNat % 16)) ∧
    (after .triggerDelayExpiry { scheduled with carrier := true, lc := { scheduled.lc with spacing := none } }).lc.access =
      .waiting ∧
    (after .bulletinPeriodExpiry scheduled).lc.access = .noAttempt := by decide +kernel

theorem test_transmission_end : (after .transmissionEnd keyed).ix.own.map Intent.phase = some (.holding 3000) ∧
    (after .transmissionEnd keyed).lc.access = .noAttempt := by decide +kernel

theorem test_arming : (after .bulletinPeriodExpiry scheduled).lc.armed = true ∧
    (after .triggerDelayExpiry scheduled).lc.triggerDelay = none ∧
    (after .bulletinSpacingExpiry scheduled).lc.spacing = none := by decide +kernel

theorem witness_ComposedFramesAreRead : 1 ≤ base.settings.station ∧ base.settings.station ≤ 62 ∧
    1 ≤ base.settings.stageCount ∧ base.settings.stageCount ≤ 4 ∧ base.lc.seq < 256 ∧ (Chosen.detail 2 0x40).fits ∧
    (Chosen.intent anIntent).fits ∧ (Chosen.outcome anOutcome).fits ∧ Chosen.bulletin.fits := by
  simp only [Chosen.fits]; decide

theorem test_composed : decodeFrame (composeFrame base (.outcome anOutcome)) =
      some ⟨.outcome, 5, 0xFF, 9, [4, 0x11, 1, 0, 0, 50, 0x03, 0xE8]⟩ ∧
    (decodeFrame (composeFrame base .bulletin)).map (fun f => f.body.length) = some 28 ∧
    (decodeFrame (composeFrame base (.detail 1 0x40))).map Frame.dest = some 0x40 := by decide +kernel

def peer7 : Peer := ⟨7, 900, 10, some 40, 20, 3, 5000, false⟩

/-- The base state with more to tell. -/
def telling : State := { base with
  stages := base.stages.set .s2 { base.stage .s2 with disc := some ⟨.closed, 300⟩ }
  store := { base.store with neutral := .all ⟨-2, 5⟩ }
  vc := { base.vc with high := 70000, stationSettle := some 25601, peerSettle := some 100 }
  ix := ⟨some ⟨4, .opening, .s2, 50, 30, .holding 10⟩, 5, 2, true⟩
  oi := { base.oi with chain := some ⟨[⟨.close, 1, 300⟩], 1, false, 258, 0x41, 3⟩ }
  ur := { base.ur with capture := some ⟨.s2, 16, 0, 0, 0x41, 3⟩ } }

/-- Table 9-8, written out: number, START and CLOSE and stage, size, position, hold-off. -/
theorem test_intent_bytes : intentBody true ⟨4, .close, .s1, 500, 1000, 30⟩ = [4, 0x81, 0x01, 0xF4, 0x03, 0xE8, 0, 30] := by
  decide +kernel

theorem witness_ContentsAreRead : anIntent.number < 256 ∧ anIntent.size < 65536 ∧ anIntent.position < 65536 ∧
    10 ≤ anIntent.holdOff ∧ anIntent.holdOff ≤ 100 ∧ anOutcome.number < 256 ∧ base.ix.own = none ∧
    telling.ix.own = some ⟨4, .opening, .s2, 50, 30, .holding 10⟩ ∧ telling.configured .s2 = true ∧
    telling.ix.busyCount ≤ 3 ∧ base.oi.chain = none ∧
    telling.oi.chain = some ⟨[⟨.close, 1, 300⟩], 1, false, 258, 0x41, 3⟩ ∧ telling.vc.low ≤ 500000 ∧
    telling.vc.high ≤ 500000 ∧ base.oi.stepReason = .none ∧ { base.oi with stepReason := .duty }.stepReason ≠ .none ∧
    base.vc.stationSettle = none ∧ base.vc.peerSettle = none ∧
    telling.vc.stationSettle = some 25601 ∧ telling.vc.peerSettle = some 100 ∧ (base.stage .s2).disc = none ∧
    (telling.stage .s2).disc = some ⟨.closed, 300⟩ ∧ telling.store.phases.toList[2]? = some telling.store.phases.c ∧
    { telling.pv with entries := [] }.entries = [] ∧ peer7 ∈ telling.pv.entries ∧ peer7.missed ≤ 255 ∧
    (∀ x ∈ telling.pv.entries, x.missed ≤ peer7.missed) ∧ base.ur.capture = none ∧
    telling.ur.capture = some ⟨.s2, 16, 0, 0, 0x41, 3⟩ ∧ (telling.store.neutral.get .s2).re.natAbs < 2 ^ 23 := by
  decide +kernel

/-- Tables 9-6, 9-7, 4-3, 2-2, 2-6, written out: CHAIN_ACTIVE (bit 11) and ISOLATED (bit 8) in the first byte; period 10,
position 1000, WATCHING, 1000 ‰, 50, index 255, 0, 0, intent 4, no order, 2 stages; READY, START; CLOSED, START. -/
theorem test_bulletin_bytes : chosenBody telling .bulletin =
    [0x09, 0x00, 10, 0x03, 0xE8, 2, 0x03, 0xE8, 0, 50, 255, 0, 0, 0, 4, 0, 0, 0, 0, 2, 1, 0, 0, 0, 4, 0, 0, 0] := by
  decide +kernel

/-- Table 9-10, written out. Page 0; station: no cause; ready list 1; in-service list 2; no block; intent 4, HOLDING, OPEN,
stage 2; ISOLATED, busy count 2; step 1, delay 258 s; HIGH 70000; settles 257 and 1. Stage 2: CLOSED, connected; position
CLOSED; one duty entry; START; no discharge; times 0; the entry 99900; discrepancy 300 ms. -/
theorem test_detail_bytes : chosenBody telling (.detail 0 0x41) =
    [0, 0, 0x10, 0x00, 0x20, 0x00, 0, 4, 0x8A, 0x82, 1, 0x01, 0x02, 0x81, 0x11, 0x70, 0x01, 0x01, 0, 1,
     1, 0, 0, 0, 0, 0, 0, 0, 0, 0, 0, 0, 0, 0, 0, 0,
     0x44, 1, 1, 0, 0, 0, 0, 0, 0, 0, 0x00, 0x01, 0x86, 0x3C, 0x01, 0x2C] := by
  decide +kernel

/-- Table 9-12, byte 10 and the phasor of a stage: stage 2 with 16 cycles; Re −2. -/
theorem test_detail_line_page : byteAt (chosenBody telling (.detail 2 0x41)) 10 = 130 ∧
    field (chosenBody telling (.detail 2 0x41)) 36 3 = 0xFFFFFE ∧
    byteAt (chosenBody telling (.detail 2 0x41)) 8 = 3 := by decide +kernel

/-! ### Arriving frames -/

/-- A body of 24 bytes: flags 0, period 20, position 950, figure 60 at byte 8. -/
def bulletinFrame (sender seq : Byte) : List Byte :=
  [0x31, sender, 0xFF, seq, 24, 0, 0, 20, 0x03, 0xB6, 0, 0, 0, 0, 60] ++ List.replicate 14 0 ++ [0, 0]

/-- An EXECUTED close by station 7, intent 9, figure 55, position 950. -/
def outcomeFrame (seq result : Byte) : List Byte :=
  [0x33, 7, 0xFF, seq, 8, 9, result, 1, 0, 0, 55, 0x03, 0xB6, 0, 0]

/-- An INTENT of station 7 to close, number 9, position 1001 or 999, hold-off 40. -/
def intentFrame (position : Byte) : List Byte := [0x32, 7, 0xFF, 21, 8, 9, 1, 0, 50, 0x03, position, 0, 40, 0, 0]

def detailFrame : List Byte := [0x35, 7, 0x40, 22, 20] ++ List.replicate 20 0 ++ [0, 0]
def yardOrder (sender : Byte) : List Byte := [0x34, sender, 5, 21, 4, 0, 1, 1, 0, 0, 0]
def panelBulletin : List Byte := (bulletinFrame 0x40 21)

def frameIn (bytes : List Byte) : Frame := (decodeFrame bytes).getD default

/-- A record at the head of the ring, the first panel's record valid at number 1. -/
def panelHeard (bytes : List Byte) : State :=
  holding bytes { base with pv := { base.pv with panels := base.pv.panels.set 0 ⟨true, 1⟩ } }

def panelFrame (seq : Byte) : List Byte := bulletinFrame 0x40 seq

def badBytes : List Byte := [0x34, 0x40, 5, 1, 4, 0x77, 11, 1, 0, 0, 0]

theorem witness_FramesJudged : (255 : Nat) < 256 ∧ peer7.lastSeq < 256 ∧
    (Instr.bulletinArrival, Taken.bulletin) ∈ [(Instr.bulletinArrival, Taken.bulletin)] ∧
    (holding (bulletinFrame 7 20) base).head .bulletin = some (frameIn (bulletinFrame 7 20)) ∧
    isYard (frameIn (bulletinFrame 7 20)).sender = true ∧
    (frameIn (bulletinFrame 7 20)).sender ≠ base.settings.station ∧
    findPeer (frameIn (bulletinFrame 7 20)).sender base.pv.entries = some peer7 ∧
    (frameIn (bulletinFrame 7 20)).start = false ∧
    isNew (seqDiff (frameIn (bulletinFrame 7 20)).seq peer7.lastSeq) = false ∧
    (holding (bulletinFrame 5 1) base).head .bulletin = some (frameIn (bulletinFrame 5 1)) ∧
    (frameIn (bulletinFrame 5 1)).sender = base.settings.station ∧ base.pv.clash.isSome = false ∧
    (panelHeard (panelFrame 1)).head .frame = some (frameIn (panelFrame 1)) ∧
    (panelHeard badBytes).head .badOrder = some (frameIn badBytes) ∧
    (panelHeard (orderBytes 1 1 [])).head (.order 1) = some (orderFrame 1 1 []) ∧
    (∀ f ∈ [frameIn (panelFrame 1), frameIn badBytes, orderFrame 1 1 []], isYard f.sender = false ∧ f.start = false ∧
      isNew (seqDiff f.seq ((panelHeard []).pv.panels.getD (f.sender - 0x40) ⟨false, 0⟩).lastSeq) = false) ∧
    ((panelHeard []).pv.panels.getD 0 ⟨false, 0⟩).valid = true ∧ (panelHeard []).stepDue = false := by decide +kernel

/-- R136: 149 = 20 + 129 is out of date, 148 is new; a difference of 3 misses two. -/
theorem test_sequence : isNew (seqDiff 149 20) = false ∧ isNew (seqDiff 148 20) = true ∧ (peer7.track 23).missed = 5 ∧
    isNew (seqDiff 2 250) = true ∧ (after .bulletinArrival (holding (bulletinFrame 7 20) base)).pv = base.pv ∧
    (after .bulletinArrival (holding (bulletinFrame 5 1) base)).pv.clash = some 100060 := by decide +kernel

/-- R138: a panel's repetition is discarded. -/
theorem test_panel_duplicate : (after .orderClose (panelHeard (orderBytes 1 1 []))).lc.ring = [] ∧
    (after .orderClose (panelHeard (orderBytes 1 1 []))).oi = base.oi := by decide +kernel

theorem yardTaken (bytes : List Byte) (want : Taken) (h : (holding bytes base).head want = some (frameIn bytes))
    (h7 : (frameIn bytes).sender = 7) (hn : isNew (seqDiff (frameIn bytes).seq 20) = true) :
    YardTaken (holding bytes base) want (frameIn bytes) peer7 where
  head := h
  other := by rw [h7]; change 7 ≠ base.settings.station; decide +kernel
  known := by rw [h7]; change findPeer 7 base.pv.entries = some peer7; decide +kernel
  new := .inr hn

theorem witness_BulletinTaken :
    YardTaken (holding (bulletinFrame 7 21) base) .bulletin (frameIn (bulletinFrame 7 21)) peer7 ∧
    (holding (bulletinFrame 8 21) base).head .bulletin = some (frameIn (bulletinFrame 8 21)) ∧
    (frameIn (bulletinFrame 8 21)).sender ≠ base.settings.station ∧
    findPeer (frameIn (bulletinFrame 8 21)).sender base.pv.entries = none ∧ base.pv.entries.length < 12 :=
  ⟨yardTaken _ _ (by decide +kernel) (by decide +kernel) (by decide +kernel), by decide +kernel⟩

theorem test_bulletin : (after .bulletinArrival (holding (bulletinFrame 7 23) base)).pv.entries =
      [⟨7, 950, 20, some 60, 23, 5, 0, false⟩] ∧
    (after .bulletinArrival (holding (bulletinFrame 8 200) base)).pv.entries.getLast? =
      some ⟨8, 950, 20, some 60, 200, 0, 0, false⟩ := by decide +kernel

/-- A full view of the stations 11..22; two of them STALE with equal ages when it is not all FRESH. -/
def fullView (fresh : Bool) (s : State) : State := { s with pv := { s.pv with
  entries := (List.range 12).map fun i => ⟨11 + i, 900, 10, some 0, 1, 0, if i < 2 then 30000 else 0, !fresh && i < 2⟩ } }

theorem witness_NewcomersEntered : base.pv.entries.length < 12 ∧ 12 ≤ (fullView false base).pv.entries.length ∧
    (oldestStale (fullView false base).pv.entries).map Peer.station = some 11 ∧
    oldestStale (fullView true base).pv.entries = none ∧
    (∀ bytes ∈ [bulletinFrame 8 21, (outcomeFrame 21 0x11).set 1 8, (intentFrame 0xE9).set 1 8, detailFrame.set 1 8],
      (frameIn bytes).sender ≠ base.settings.station ∧ findPeer (frameIn bytes).sender base.pv.entries = none) ∧
    (holding (bulletinFrame 8 21) base).head .bulletin = some (frameIn (bulletinFrame 8 21)) ∧
    (holding ((outcomeFrame 21 0x11).set 1 8) base).head .outcome = some (frameIn ((outcomeFrame 21 0x11).set 1 8)) ∧
    (holding ((intentFrame 0xE9).set 1 8) base).head .intent = some (frameIn ((intentFrame 0xE9).set 1 8)) ∧
    (holding (detailFrame.set 1 8) base).head .detail = some (frameIn (detailFrame.set 1 8)) ∧
    byteAt (frameIn ((intentFrame 0xE9).set 1 8)).body 0 ≠ 0 ∧
    (holding (((intentFrame 0xE9).set 1 8).set 5 0) base).head .intent =
      some (frameIn (((intentFrame 0xE9).set 1 8).set 5 0)) ∧
    byteAt (frameIn (((intentFrame 0xE9).set 1 8).set 5 0)).body 0 = 0 := by decide +kernel

/-- R141. -/
theorem test_newcomers :
    ((after .bulletinArrival (holding (bulletinFrame 8 21) (fullView false base))).pv.entries.map Peer.station).getLast? = some 8 ∧
    findPeer 11 (after .bulletinArrival (holding (bulletinFrame 8 21) (fullView false base))).pv.entries = none ∧
    (after .bulletinArrival (holding (bulletinFrame 8 21) (fullView true base))).pv.viewFull = true ∧
    (after .outcomeArrival (holding ((outcomeFrame 21 0x11).set 1 8) base)).pv.entries.getLast? =
      some ⟨8, 950, 10, some 55, 21, 0, 0, false⟩ ∧
    (after .intentArrival (holding ((intentFrame 0xE9).set 1 8) base)).pv.entries = base.pv.entries := by decide +kernel

/-- R141, R146, R160: the OUTCOME of a newcomer that a full view does not take, and the INTENT of a yard not entered. -/
theorem test_newcomers_heard :
    (after .outcomeArrival (holding ((outcomeFrame 21 0x11).set 1 8) (fullView true base))).vc.state = .quiet ∧
    (after .intentArrival (holding ((intentFrame 0xE9).set 1 8) base)).pv.heard.map Heard.sender = [8] ∧
    (after .intentArrival (proposing (.holding 10) (holding ((intentFrame 0xE9).set 1 8) base))).lc.outcomeSlot =
      some ⟨4, .withdrawn, .close, .s1, .autoRaise, .precedence⟩ ∧
    (after .intentArrival (holding (((intentFrame 0xE9).set 1 8).set 5 0) base)).pv.heard = [] := by decide +kernel

theorem witness_OutcomeTaken :
    YardTaken (holding (outcomeFrame 21 0x11) base) .outcome (frameIn (outcomeFrame 21 0x11)) peer7 ∧
    resultOf (byteAt (frameIn (outcomeFrame 21 0x11)).body 1) = 1 ∧
    distance (field (frameIn (outcomeFrame 21 0x11)).body 6 2) base.settings.position ≤ base.settings.farReach ∧
    resultOf (byteAt (frameIn (outcomeFrame 21 0x41)).body 1) ≠ 1 ∧ base.vc.state = .watching ∧
    (settling (some 0) none).vc.state = .quiet ∧ (reporting .suspended).vc.state = .suspended ∧
    (reporting .executing).vc.state = .executing ∧ lowering.vc.state = .proposing ∧
    directionOf (byteAt (frameIn (outcomeFrame 21 0x11)).body 1) = .close ∧
    lowering.ix.own.map Intent.dir = some .opening ∧
    (proposing (.holding 10) base).ix.own.map Intent.dir = some .close :=
  ⟨yardTaken _ _ (by decide +kernel) (by decide +kernel) (by decide +kernel), by decide +kernel⟩

theorem test_outcome : (after .outcomeArrival (holding (outcomeFrame 21 0x11) base)).vc.state = .quiet ∧
    (after .outcomeArrival (holding (outcomeFrame 21 0x11) base)).vc.peerSettle = some 20000 ∧
    (after .outcomeArrival (holding (outcomeFrame 21 0x41) base)).vc.state = .watching := by decide +kernel

/-- R81: what an EXECUTED close of a near peer leaves but for the peer settle: each other state, and a proposal to open. -/
theorem test_outcome_kept : (∀ s ∈ [settling (some 7) none, reporting .suspended, reporting .executing, lowering],
      (after .outcomeArrival (holding (outcomeFrame 21 0x11) s)).vc = { s.vc with peerSettle := some 20000 } ∧
      (after .outcomeArrival (holding (outcomeFrame 21 0x11) s)).ix = s.ix) ∧
    (after .outcomeArrival (holding (outcomeFrame 21 0x11) (proposing (.holding 10) base))).ix.own = none := by
  decide +kernel

/-- The same INTENT with intent number 0. -/
def unnumbered (position : Byte) : List Byte := (intentFrame position).set 5 0

def heardFrom (sender : Nat) : Heard := ⟨sender, 1001, .close, 9, 40, 0, 13000⟩

theorem witness_IntentTaken :
    YardTaken (holding (intentFrame 0xE9) base) .intent (frameIn (intentFrame 0xE9)) peer7 ∧
    byteAt (frameIn (intentFrame 0xE9)).body 0 ≠ 0 ∧
    (proposing (.holding 10) base).ix.own = some ⟨4, .close, .s1, 50, 30, .holding 10⟩ ∧
    base.settings.position < (heardOf (frameIn (intentFrame 0xE9)) 0).position ∧
    (heardOf (frameIn (intentFrame 0xE7)) 0).position < base.settings.position ∧
    YardTaken (holding (unnumbered 0xE9) base) .intent (frameIn (unnumbered 0xE9)) peer7 ∧
    byteAt (frameIn (unnumbered 0xE9)).body 0 = 0 ∧
    (∃ x ∈ [heardFrom 7], x.sender = (heardFrom 7).sender) ∧
    (∀ x ∈ [heardFrom 8], x.sender ≠ (heardFrom 7).sender) ∧ [heardFrom 8].length < 4 ∧
    (∀ x ∈ [8, 9, 10, 11].map heardFrom, x.sender ≠ (heardFrom 7).sender) := by
  and_intros
  all_goals first | decide +kernel | exact yardTaken _ _ (by decide +kernel) (by decide +kernel) (by decide +kernel)

/-- R146: a record replaced, one appended, the oldest of four giving way; number 0 is not recorded. -/
theorem test_heard_records :
    recordIntent (heardFrom 7) ([7, 8].map heardFrom) = [8, 7].map heardFrom ∧
    recordIntent (heardFrom 7) ([8].map heardFrom) = [8, 7].map heardFrom ∧
    recordIntent (heardFrom 7) ([8, 9, 10, 11].map heardFrom) = [9, 10, 11, 7].map heardFrom ∧
    (after .intentArrival (holding (unnumbered 0xE9) base)).pv.heard = [] := by decide +kernel

theorem test_intent :
    (after .intentArrival (proposing (.holding 10) (holding (intentFrame 0xE9) base))).ix.own = none ∧
    (after .intentArrival (proposing (.holding 10) (holding (intentFrame 0xE7) base))).ix.own.isSome = true ∧
    (after .intentArrival (holding (intentFrame 0xE9) base)).pv.heard =
      [⟨7, 1001, .close, 9, 40, 1000000, 13000⟩] := by decide +kernel

theorem witness_OtherFramesTaken : YardTaken (holding detailFrame base) .detail (frameIn detailFrame) peer7 ∧
    YardTaken (holding (yardOrder 7) base) .frame (frameIn (yardOrder 7)) peer7 ∧
    isYard (frameIn (yardOrder 7)).sender = true ∧ (frameIn (yardOrder 7)).kind ≠ .intent ∧
    (holding panelBulletin base).head .frame = some (frameIn panelBulletin) ∧
    isYard (frameIn panelBulletin).sender = false ∧ (base.pv.panels.getD 0 ⟨false, 0⟩).valid = false ∧
    decodeFrame [0, 1] = none :=
  ⟨yardTaken _ _ (by decide +kernel) (by decide +kernel) (by decide +kernel),
    yardTaken _ _ (by decide +kernel) (by decide +kernel) (by decide +kernel), by decide +kernel⟩

theorem test_other_frames : (after .detailArrival (holding detailFrame base)).pv.entries =
      [{ peer7 with lastSeq := 22, missed := 4, ageMs := 0 }] ∧
    (after .frameArrival (holding (yardOrder 7) base)).pv.entries = [{ peer7 with lastSeq := 21 }] ∧
    (after .formatDiscard (holding [0, 1] base)).lc.stats.format = 1 := by decide +kernel

def clashing : State := { base with pv := { base.pv with
  clash := some 100000, heard := [⟨7, 900, .close, 9, 30, 0, 0⟩] } }

/-- The entry of station 7 at an age. -/
def aged (ageMs : Nat) : State := { base with pv := { base.pv with entries := [{ peer7 with ageMs := ageMs }] } }

def hearing (left : Nat) : State := { base with pv := { base.pv with heard := [⟨7, 900, .close, 9, 30, 0, left⟩] } }

theorem witness_PeerAgesEnd : findPeer (7 : Byte).toNat (aged 120000).pv.entries = some { peer7 with ageMs := 120000 } ∧
    12000 * peer7.period ≤ 120000 ∧ ¬ 12000 * peer7.period ≤ 119999 ∧ 1 ≤ peer7.period ∧
    clashing.pv.clash = some 100000 := by decide +kernel

/-- R145: what has reached its age, and a moment before. -/
theorem test_ages : (after (.peerStale 7) (aged 30000)).pv.entries = [{ peer7 with stale := true, ageMs := 30000 }] ∧
    (after (.peerStale 7) (aged 29999)).pv = (aged 29999).pv ∧
    (after (.peerRemoval 7) (aged 120000)).pv.entries = [] ∧
    (after (.peerRemoval 7) (aged 119999)).pv.entries.length = 1 := by decide +kernel

/-- R148, R135. -/
theorem test_expiries : (after (.heardIntentExpiry 7) (hearing 0)).pv.heard = [] ∧
    (after (.heardIntentExpiry 7) (hearing 1)).pv.heard.length = 1 ∧
    (after .numberClashExpiry clashing).pv.clash = none := by decide +kernel

/-- R182: station 5 waits 350 ms; a trigger that finds the delay running, or the bulletin armed, changes nothing. R135: a clash is one,
a further clash none. -/
theorem test_trigger : [trigger base, after (.contactChange blockContact) base,
      after .bulletinArrival (holding (bulletinFrame 5 1) base), after .numberClashExpiry clashing,
      after .orderMode (ordered 3 0 [0])].map (·.lc.triggerDelay) = List.replicate 5 (some 350) ∧
    (trigger scheduled).lc.triggerDelay = some 0 ∧ trigger awaiting = awaiting ∧
    (after .bulletinArrival (holding (bulletinFrame 5 1) clashing)).lc.triggerDelay = none := by decide +kernel

/-! ### The own intent -/

/-- The own close is due while its stage is under attention. -/
def attended : State := withInputs .s1 ⟨⟨false, 0⟩, ⟨true, 0⟩, ⟨true, 0⟩, true⟩ (proposing (.holding 0) base)

theorem witness_IntentTimersEnd : (proposing (.holding 0) base).ix.own = some ⟨4, .close, .s1, 50, 30, .holding 0⟩ ∧
    (proposing (.holding 0) base).permitted = true ∧ base.configured .s1 = true ∧ base.stepDue = false ∧
    base.position .s1 ≠ .closed ∧ closeTest (pruneFor (proposing .committed base) 1) 1 .autoRaise 4 = none ∧
    lowering.ix.own = some ⟨4, .opening, .s2, 50, 30, .holding 0⟩ ∧ lowering.permitted = true ∧
    lowering.stepDue = false ∧ lowering.position .s2 ≠ .opened ∧
    openRefusal { lowering with ix := { lowering.ix with own := some ⟨4, .opening, .s2, 50, 30, .committed⟩ } }
      StageId.s2.num .autoLower = none ∧
    attended.ix.own = some ⟨4, .close, .s1, 50, 30, .holding 0⟩ ∧ attended.permitted = true ∧
    commitRefusal (pruneRequest { attended with ix := { attended.ix with own := some ⟨4, .close, .s1, 50, 30, .committed⟩ } }
      .close StageId.s1.num) ⟨4, .close, .s1, 50, 30, .holding 0⟩ = some .attention ∧
    (proposing (.queued false 5000) base).ix.own = some ⟨4, .close, .s1, 50, 30, .queued false 5000⟩ := by
  decide +kernel

theorem test_commit : ((after .holdOffExpiry (proposing (.holding 0) base)).stage .s1).closeOut = true ∧
    (after .holdOffExpiry (proposing (.holding 0) base)).vc.state = .executing ∧
    (after .holdOffExpiry (proposing (.holding 0) base)).vc.ownOp = some ⟨.s1, .close, 4⟩ ∧
    ((after .holdOffExpiry lowering).stage .s2).lastCause = .autoLower := by decide +kernel

/-- R89, R90: a re-test that fails. -/
theorem test_retest : (after .holdOffExpiry attended).vc.state = .watching ∧
    (after .holdOffExpiry attended).vc.low = 500 ∧ (after .holdOffExpiry attended).vc.unserved = .attention ∧
    (after .holdOffExpiry attended).ix.own = none := by decide +kernel

/-- R179, R156: the withdrawal of an INTENT for which alone the channel waited ends that attempt; its OUTCOME begins one
of its own, with a new draw (log 21). -/
theorem test_withdrawal_attempt : ((dropIntent ⟨4, .close, .s1, 50, 30, .queued false 0⟩ .order
      { base with lc := { base.lc with access := .deferring 3 180, intentSlot := some ⟨4, .close, .s1, 50, 1000, 30⟩ } }).lc.lfsr) =
      lfsrDraw base.lc.lfsr ∧
    (dropIntent ⟨4, .close, .s1, 50, 30, .queued false 0⟩ .order
      { base with lc := { base.lc with
        access := .deferring 3 180, armed := true, intentSlot := some ⟨4, .close, .s1, 50, 1000, 30⟩ } }).lc.access =
      .deferring 3 180 := by decide +kernel

theorem test_queue_time :
    (after .queueTimeExpiry (proposing (.queued false 5000) { base with ix := ⟨none, 5, 2, false⟩ })).ix =
      ⟨none, 5, 3, true⟩ ∧
    (after .queueTimeExpiry (proposing (.queued false 5000) base)).vc.state = .quiet := by decide +kernel

/-! ### Orders and chains -/

def chained : Chain := ⟨[⟨.close, 1, 2⟩, ⟨.opening, 2, 0⟩], 1, false, 0, 0x41, 3⟩

def chaining (s : State) : State := { s with
  oi := { s.oi with chain := some chained, mark := .chain }
  vc := { s.vc with state := .suspended, causes := { s.vc.causes with chainActive := true } } }

/-- The chain at its second step, the opening of stage 2, WAITING or in flight. -/
def chainedAt (operating : Bool) (s : State) : State := { chaining s with
  oi := { (chaining s).oi with chain := some { chained with index := 2, operating := operating } } }

theorem witness_SwitchOrdersIssue :
    OrderTaken (ordered 1 1 []) 1 (orderFrame 1 1 []) ∧ OrderTaken (ordered 2 2 []) 2 (orderFrame 2 2 []) ∧
    base.oi.chain = none ∧ base.vc.state ≠ .proposing ∧ base.orderBusy .close 1 = false ∧
    stageOf base.settings.stageCount 1 = some .s1 ∧ closeTest (base.prune .s1) 1 .order 0 = none ∧
    base.position .s1 ≠ .closed ∧ base.orderBusy .opening 2 = false ∧
    stageOf base.settings.stageCount 2 = some .s2 ∧ (base.stage .s2).state = .closed ∧
    base.position .s2 ≠ .opened ∧
    (OrderTaken (chainedAt true (ordered 1 1 [])) 1 (orderFrame 1 1 []) ∧
      (chainedAt true (ordered 1 1 [])).oi.chain.isSome = true) ∧
    (OrderTaken (heardOrder 1 1 (opening false)) 1 (orderFrame 1 1 []) ∧
      (opening false).orderBusy .close 1 = true) ∧
    (OrderTaken (heardOrder 2 2 (opening false)) 2 (orderFrame 2 2 []) ∧
      (opening false).orderBusy .opening 2 = true) ∧
    (OrderTaken (proposing (.holding 10) (ordered 1 1 [])) 1 (orderFrame 1 1 []) ∧
      (proposing (.holding 10) (ordered 1 1 [])).vc.state = .proposing ∧
      (proposing (.holding 10) (ordered 1 1 [])).ix.own = some ⟨4, .close, .s1, 50, 30, .holding 10⟩) ∧
    (OrderTaken (ordered 2 1 []) 2 (orderFrame 2 1 []) ∧
      requestRefusal (pruneRequest (ordered 2 1 []) .opening 1) .opening 1 .order = some .already ∧
      base.orderBusy .opening 1 = false) ∧
    (OrderTaken (heardOrder 1 1 (worn base)) 1 (orderFrame 1 1 []) ∧
      requestRefusal (pruneRequest (worn base) .close 1) .close 1 .order = some .duty ∧
      (worn base).orderBusy .close 1 = false) ∧
    (OrderTaken (heardOrder 2 2 (faulted .failToOpen)) 2 (orderFrame 2 2 []) ∧
      ((faulted .failToOpen).stage .s2).state.isFault = true ∧ ((faulted .failToOpen).stage .s2).connected = true ∧
      (faulted .failToOpen).orderBusy .opening 2 = false) ∧
    (withInputs .s2 inputsOpened base).position .s2 = .opened ∧
    OrderTaken (heardOrder 1 1 (withInputs .s1 inputsClosed base)) 1 (orderFrame 1 1 []) ∧
    closeTest ((withInputs .s1 inputsClosed base).prune .s1) 1 .order 0 = none ∧
    (withInputs .s1 inputsClosed base).position .s1 = .closed := by
  refine ⟨orderTaken 1 1 [] (by decide +kernel) (by decide +kernel), orderTaken 2 2 [] (by decide +kernel) (by decide +kernel), ?_⟩
  and_intros
  all_goals first | decide +kernel | exact orderIn (by decide +kernel)

theorem test_switch_orders : ((after .orderClose (ordered 1 1 [])).stage .s1).state = .closing ∧
    (after .orderClose (ordered 1 1 [])).oi.last = ⟨0x40, 0x77, .inProgress, 0⟩ ∧
    ((after .orderOpen (ordered 2 2 [])).stage .s2).openOut = true ∧
    (after .orderOpen (ordered 2 1 [])).oi.last = ⟨0x40, 0x77, .refused, 3⟩ := by decide +kernel

/-- R191: a chain present, a stage moving, an own proposal withdrawn, a breaker at its target. -/
theorem test_switch_order_steps : (after .orderClose (chainedAt true (ordered 1 1 []))).oi.last = ⟨0x40, 0x77, .refused, 8⟩ ∧
    (after .orderOpen (heardOrder 2 2 (opening false))).oi.last = ⟨0x40, 0x77, .refused, 8⟩ ∧
    (after .orderClose (proposing (.holding 10) (ordered 1 1 []))).ix.own = none ∧
    ((after .orderClose (proposing (.holding 10) (ordered 1 1 []))).stage .s1).closeOut = true ∧
    (after .orderOpen (heardOrder 2 2 (withInputs .s2 inputsOpened base))).oi.last = ⟨0x40, 0x77, .done, 0⟩ := by
  decide +kernel

def deaf (bytes : List Byte) : State :=
  holding bytes { base with settings := { cfg with panelMask := 2 } }

theorem witness_OrdersRefused :
    OrderHeard (ordered 3 0 [2]) (.order 3) (orderFrame 3 0 [2]) ∧ (ordered 3 0 [2]).stepDue = false ∧
    (orderFrame 3 0 [2]).order.formOk = false ∧
    OrderHeard (deaf (orderBytes 1 1 [])) (.order 1) (orderFrame 1 1 []) ∧
    (deaf (orderBytes 1 1 [])).panelPermitted 0x40 = false ∧
    OrderHeard (holding badBytes base) .badOrder (frameIn badBytes) ∧
    (holding ((orderBytes 1 1 []).set 2 6) base).head (.order 1) = some { orderFrame 1 1 [] with dest := 6 } ∧
    (base.pv.panels.getD 0 ⟨false, 0⟩).valid = false ∧ base.addressed 6 = false :=
  ⟨⟨by decide +kernel, .inl (by decide +kernel), by decide +kernel⟩, by decide +kernel, by decide +kernel,
    ⟨by decide +kernel, .inl (by decide +kernel), by decide +kernel⟩, by decide +kernel,
    ⟨by decide +kernel, .inl (by decide +kernel), by decide +kernel⟩, by decide +kernel⟩

theorem test_refusals : (after .orderMode (ordered 3 0 [2])).oi.last = ⟨0x40, 0x77, .refused, 27⟩ ∧
    (after .orderClose (deaf (orderBytes 1 1 []))).oi.last = ⟨0x40, 0x77, .refused, 26⟩ ∧
    (after .badOrder (holding badBytes base)).oi.last = ⟨0x40, 0x77, .refused, 27⟩ ∧
    (after .orderClose (holding ((orderBytes 1 1 []).set 2 6) base)).oi = base.oi := by decide +kernel

theorem witness_SingleOrdersServed : OrderTaken (ordered 3 0 [1]) 3 (orderFrame 3 0 [1]) ∧
    OrderTaken (ordered 4 0 [1]) (if true then 4 else 5) (orderFrame 4 0 [1]) ∧
    OrderTaken (ordered 5 0 [1]) (if false then 4 else 5) (orderFrame 5 0 [1]) ∧
    OrderTaken (ordered 10 0 []) 10 (orderFrame 10 0 []) ∧ OrderTaken (ordered 7 2 []) 7 (orderFrame 7 2 []) ∧
    base.vc.manual = false ∧ byteAt (orderFrame 3 0 [1]).order.arg 0 = 1 ∧ base.vc.causes.isEmpty = true ∧
    base.ur.capture = none ∧ (base.ur.entries.get .s2).inService = true ∧
    (base.ur.entries.get .s2).blanking = 0 ∧ stageOf base.settings.stageCount 2 = some .s2 ∧
    captureRefusal base 3 = some .badStage ∧ captureRefusal base 1 = some .notClosed ∧
    captureRefusal (capturing 3) 2 = none ∧ captureRefusal (capturing 3) 1 = some .busy ∧
    OrderTaken (heardOrder 7 1 (capturing 3)) 7 (orderFrame 7 1 []) ∧
    OrderTaken (proposing (.holding 10) (ordered 3 0 [1])) 3 (orderFrame 3 0 [1]) ∧
    (proposing (.holding 10) (ordered 3 0 [1])).vc.manual = false ∧
    Proposes ⟨4, .close, .s1, 50, 30, .holding 10⟩ (proposing (.holding 10) (ordered 3 0 [1])) := by
  and_intros
  all_goals first | decide +kernel | exact orderIn (by decide +kernel) | exact proposes (by decide +kernel)

theorem test_mode : (after .orderMode (ordered 3 0 [1])).vc.state = .suspended ∧
    (after .orderMode (ordered 3 0 [0])).vc.state = .watching := by decide +kernel

theorem test_block_orders : (after .orderBlockSet (ordered 4 0 [0x0F])).blockSet = ⟨true, true, false, false⟩ ∧
    (after .orderBlockClear (ordered 5 0 [1])).blockSet = .all false := by decide +kernel

theorem test_report_capture : (after .orderReport (ordered 10 0 [2])).lc.detailSlot = some (2, 0x40) ∧
    (after .orderCaptureNull (ordered 7 2 [])).ur.capture = some ⟨.s2, 0, 0, 0, 0x40, 0x77⟩ ∧
    (after .orderCaptureNull (ordered 7 1 [])).oi.last = ⟨0x40, 0x77, .refused, 25⟩ ∧
    (after .orderCaptureNull (heardOrder 7 1 (capturing 3))).oi.last = ⟨0x40, 0x77, .refused, 8⟩ := by decide +kernel

def resettable (left : Nat) : State := withStage .s1
  { Stage.start with state := .lockout, tripLatch := true, discharge := left }
  { ordered 6 1 [] with ready := [] }

theorem witness_StageResets : OrderTaken (resettable 0) 6 (orderFrame 6 1 []) ∧ (resettable 0).stepDue = false ∧
    stageOf (resettable 0).settings.stageCount (orderFrame 6 1 []).order.stage = some .s1 ∧
    ((resettable 0).stage .s1).state = .lockout ∧ (resettable 0).position .s1 = .opened ∧
    (StageState.fault .failToOpen).isFault = true ∧
    resetRefusal base 0 = some .badStage ∧ resetRefusal base 3 = some .badStage ∧
    resetRefusal (withStage .s1 .start base) 1 = some .absent ∧ resetRefusal base 2 = some .already ∧
    OrderTaken (ordered 6 2 []) 6 (orderFrame 6 2 []) ∧ (ordered 6 2 []).stepDue = false ∧
    (between .s1 (resettable 0)).position .s1 = .transit ∧ (withInputs .s1 inputsClosed (resettable 0)).position .s1 = .closed ∧
    OrderTaken (between .s1 (resettable 0)) 6 (orderFrame 6 1 []) ∧
    OrderTaken (withInputs .s1 inputsClosed (resettable 5)) 6 (orderFrame 6 1 []) ∧
    OrderTaken (underDead (withInputs .s1 inputsClosed (resettable 5))) 6 (orderFrame 6 1 []) ∧
    ChainApart .s1 (resettable 0) ∧ ChainApart .s1 (underDead (withInputs .s1 inputsClosed (resettable 5))) := by
  and_intros
  all_goals first | decide +kernel | exact orderIn (by decide +kernel) | exact quietChain _ _ rfl

theorem test_stage_reset : ((after .orderResetStage (resettable 0)).stage .s1).state = .ready ∧
    ((after .orderResetStage (resettable 7000)).stage .s1).state = .discharging ∧
    (after .orderResetStage (ordered 6 2 [])).oi.last = ⟨0x40, 0x77, .refused, 3⟩ ∧
    ((after .orderResetStage (withInputs .s1 inputsClosed (resettable 5))).stage .s1).lastCause = .extCloseCharged ∧
    ((after .orderResetStage (underDead (withInputs .s1 inputsClosed (resettable 5)))).stage .s1).state = .opening := by
  decide +kernel

/-- CLOSE stage 1 after 2 s, OPEN stage 2 at once. -/
def sequenceArg : List Byte := [0, 1, 0, 2, 1, 2, 0, 0]

/-- The step, and after it CLOSE stage 1, both with delay 0. -/
def atOnce (st : Sys2Proof.Machine.Step) : List Byte :=
  [if st.dir = .close then 0 else 1, BitVec.ofNat 8 st.stage, 0, 0, 0, 1, 0, 0]

/-- R192: a first step of delay 0: issued; refused ALREADY; done at its issue, the second step (CLOSE of a stage in DISCHARGING) served
at the same event. -/
theorem test_sequence_at_once :
    ((after .orderSequence (ordered 8 0 (atOnce ⟨.close, 1, 0⟩))).stage .s1).lastCause = .sequence ∧
    (after .orderSequence (ordered 8 0 (atOnce ⟨.close, 1, 0⟩))).oi.chain.map Chain.operating = some true ∧
    (after .orderSequence (ordered 8 0 (atOnce ⟨.opening, 1, 0⟩))).oi.last = ⟨0x40, 0x77, .refused, 3⟩ ∧
    (after .orderSequence (withInputs .s2 inputsOpened (ordered 8 0 [1, 2, 0, 0, 0, 2, 0, 0]))).oi =
      ⟨⟨0x40, 0x77, .refused, 4⟩, .none, none, 2, .discharging⟩ := by decide +kernel

theorem witness_ChainsBeginAndStop : OrderTaken (ordered 8 0 sequenceArg) 8 (orderFrame 8 0 sequenceArg) ∧
    (ordered 8 0 sequenceArg).oi.chain = none ∧
    stepsOf ((orderFrame 8 0 sequenceArg).order.arg.take (orderFrame 8 0 sequenceArg).order.argLen) =
      [⟨.close, 1, 2⟩, ⟨.opening, 2, 0⟩] ∧
    OrderTaken (chaining (ordered 9 0 [])) 9 (orderFrame 9 0 []) ∧
    (chaining (ordered 9 0 [])).oi.chain = some chained ∧
    OrderTaken (chainedAt true (ordered 8 0 sequenceArg)) 8 (orderFrame 8 0 sequenceArg) ∧
    (chainedAt true (ordered 8 0 sequenceArg)).oi.chain.isSome = true ∧
    (chainedAt true (ordered 8 0 sequenceArg)).stepDue = false ∧
    OrderTaken (ordered 9 0 []) 9 (orderFrame 9 0 []) ∧ (ordered 9 0 []).oi.chain = none ∧
    OrderTaken (proposing (.holding 10) (ordered 8 0 sequenceArg)) 8 (orderFrame 8 0 sequenceArg) ∧
    (proposing (.holding 10) (ordered 8 0 sequenceArg)).oi.chain = none ∧
    Proposes ⟨4, .close, .s1, 50, 30, .holding 10⟩ (proposing (.holding 10) (ordered 8 0 sequenceArg)) ∧
    (∀ st ∈ [Sys2Proof.Machine.Step.mk .close 1 0, ⟨.opening, 2, 0⟩, ⟨.opening, 1, 0⟩],
      stepsOf ((orderFrame 8 0 (atOnce st)).order.arg.take (orderFrame 8 0 (atOnce st)).order.argLen) = [st, ⟨.close, 1, 0⟩]) ∧
    OrderTaken (ordered 8 0 (atOnce ⟨.close, 1, 0⟩)) 8 (orderFrame 8 0 (atOnce ⟨.close, 1, 0⟩)) ∧
    OrderTaken (ordered 8 0 (atOnce ⟨.opening, 2, 0⟩)) 8 (orderFrame 8 0 (atOnce ⟨.opening, 2, 0⟩)) ∧
    OrderTaken (ordered 8 0 (atOnce ⟨.opening, 1, 0⟩)) 8 (orderFrame 8 0 (atOnce ⟨.opening, 1, 0⟩)) ∧
    base.orderBusy .close 1 = false ∧ closeTest (base.prune .s1) 1 .sequence 0 = none ∧ base.position .s1 ≠ .closed ∧
    base.orderBusy .opening 2 = false ∧ openRefusal base 2 .sequence = none ∧ base.position .s2 ≠ .opened ∧
    base.orderBusy .opening 1 = false ∧
    requestRefusal (pruneRequest base .opening 1) .opening 1 .sequence = some .already ∧
    (opening false).orderBusy .close 1 = true := by
  and_intros
  all_goals first | decide +kernel | exact orderIn (by decide +kernel) | exact proposes (by decide +kernel)

theorem test_sequence_order : (after .orderSequence (ordered 8 0 sequenceArg)).vc.causes.chainActive = true ∧
    (after .orderSequence (ordered 8 0 sequenceArg)).oi.chain.map Chain.delay = some 2 ∧
    (after .orderStopSequence (chaining (ordered 9 0 []))).oi.last = ⟨0x41, 3, .stopped, 1⟩ ∧
    (after .orderStopSequence (ordered 9 0 [])).oi.last = ⟨0x40, 0x77, .refused, 3⟩ ∧
    (after .orderSequence (chainedAt true (ordered 8 0 sequenceArg))).oi.last = ⟨0x40, 0x77, .refused, 8⟩ := by
  decide +kernel

theorem witness_ChainStepServed : (chaining base).oi.chain = some chained ∧ chained.operating = false ∧
    chained.current = some ⟨.close, 1, 2⟩ ∧ (chaining base).orderBusy .close 1 = false ∧
    stageOf base.settings.stageCount 1 = some .s1 ∧ closeTest ((chaining base).prune .s1) 1 .sequence 0 = none ∧
    base.position .s1 ≠ .closed ∧
    (chainedAt false base).oi.chain = some { chained with index := 2 } ∧
    { chained with index := 2 }.current = some ⟨.opening, 2, 0⟩ ∧ (chainedAt false base).orderBusy .opening 2 = false ∧
    stageOf base.settings.stageCount 2 = some .s2 ∧ openRefusal (chainedAt false base) 2 .sequence = none ∧
    base.position .s2 ≠ .opened ∧ base.ur.capture = none ∧
    (chaining discharging).orderBusy .close 1 = false ∧
    requestRefusal (pruneRequest (chaining discharging) .close 1) .close 1 .sequence = some .discharging ∧
    (chaining (opening false)).orderBusy .close 1 = true := by decide +kernel

theorem test_chain_step : ((after .chainStep (chaining base)).stage .s1).lastCause = .sequence ∧
    (after .chainStep (chaining base)).oi.chain = some { chained with operating := true } ∧
    (after .chainStep (chaining discharging)).oi.last = ⟨0x41, 3, .refused, 4⟩ ∧
    (after .chainStep (chaining (opening false))).oi.last = ⟨0x41, 3, .refused, 8⟩ ∧
    ((after .chainStep (chainedAt false base)).stage .s2).state = .opening := by decide +kernel

/-- R71, R194: page 0 with no chain: the step index, and the code of the refused step (DISCHARGING, 4), of an unserved demand
(NONE_READY, 15), of none, and none for the step index of a FAILED chain. -/
theorem test_recorded_reason :
    [after .chainStep (chaining discharging), { base with vc := { base.vc with unserved := .noneReady } }, base,
      { base with oi := { base.oi with last := ⟨0x41, 3, .stepFailed, 2⟩, stepIndex := 2 } }].map (fun s =>
        let d := chosenBody { s with lc := { s.lc with outcomeSlot := none } } (.detail 0 0x41)
        (byteAt d 0, byteAt d 10, byteAt d 11, byteAt d 12)) =
      [(0, 1, 0, 4), (0, 0, 0, 15), (0, 0, 0, 0), (0, 2, 0, 0)] := by decide +kernel

def reportOf (dir : Direction) (result : Result) (cause : Cause) : SwitchReport := ⟨.s2, dir, result, cause, 0⟩

theorem witness_ReportsTaken : base.oi.chain = none ∧ (reporting .executing).vc.state = .executing ∧
    (reporting .executing).vc.ownOp = some ⟨.s2, .opening, 4⟩ ∧ (reporting .watching).vc.state = .watching ∧
    (reporting .quiet).vc.state = .quiet ∧ (reporting .proposing).vc.state = .proposing ∧
    (reporting .suspended).vc.state = .suspended ∧ base.oi.mark ≠ .report .s2 ∧
    (reporting .watching).oi.mark = .report .s2 ∧ (reportOf .opening .executed .order).result = .executed ∧
    (reportOf .opening .failed .order).result = .failed ∧ (reportOf .close .cut .deadLine).result = .cut ∧
    (chainedAt true base).oi.chain = some { chained with index := 2, operating := true } ∧
    (chainedAt true base).oi.mark ≠ .report .s2 ∧
    { chained with index := 2, operating := true }.current = some ⟨.opening, 2, 0⟩ ∧
    { chained with index := 2 }.operating = false ∧ chained.steps.length ≤ 2 ∧ chained.steps[1]? = some ⟨.opening, 2, 0⟩ ∧
    { chained with operating := true }.current = some ⟨.close, StageId.s1.num, 2⟩ := by decide +kernel

/-- R191, R193, R194. -/
theorem test_reports : (report (reportOf .opening .executed .order) (reporting .watching)).oi.last = ⟨0x40, 0x77, .done, 0⟩ ∧
    (report (reportOf .close .cut .unbTrip) (reporting .watching)).oi.last = ⟨0x40, 0x77, .failed, 5⟩ ∧
    (report (reportOf .opening .executed .sequence) (chainedAt true base)).oi.last = ⟨0x41, 3, .done, 0⟩ ∧
    (report (reportOf .opening .failed .sequence) (chainedAt true base)).oi.last = ⟨0x41, 3, .stepFailed, 2⟩ ∧
    (report ⟨.s1, .close, .executed, .sequence, 0⟩
      { chaining base with oi := { (chaining base).oi with chain := some { chained with operating := true } } }).oi.chain =
      some { chained with index := 2, delay := 0 } := by decide +kernel

/-! ### The invariants -/

theorem witness_StagesStaySafe : StagesSafe base ∧ ∃ t, step base = .next t := ⟨base_safe, _, rfl⟩

theorem witness_RecordsStayBounded : CollectionsBounded base ∧ AccumulatorsBounded base ∧ ∃ t, step base = .next t :=
  ⟨by constructor <;> decide +kernel,
    by constructor <;> decide +kernel, _, rfl⟩

theorem witness_TripLatchHolds : (∃ t, exec .minutePruning lockedOut = .next t) ∧
    (lockedOut.stage .s1).tripLatch = true := ⟨⟨_, rfl⟩, by decide +kernel⟩

theorem witness_StatusOutputsFollow : StagesSafe base ∧ StatusFollows base ∧ ∃ t, step base = .next t :=
  ⟨base_safe, ⟨fun _ => by decide +kernel, (by rintro (h | ⟨n, h⟩) <;> cases h), fun h => absurd rfl h, fun _ => rfl⟩, _, rfl⟩

/-! ### The word interface: no row of the table gives bits -/

theorem test_decode_none : decodeTableWord 16 0 = none ∧ State.reset.withFetchWord 16 0 = State.reset := ⟨rfl, rfl⟩

end Sys2Proof.Tests
end

/-! ### The integer square root and the resonance index (R107) -/

section
namespace Sys2Proof.Machine

/-- What the bits below `b` can still add to a root found so far: the root itself, or every bit set when it
lies beyond their reach. -/
theorem isqrtFrom_eq_min (n b : Nat) {acc : Nat} (hacc : acc ≤ Nat.sqrt n) :
    isqrtFrom n b acc = min (acc + (2 ^ b - 1)) (Nat.sqrt n) := by
  induction b generalizing acc with
  | zero => simp [isqrtFrom, hacc]
  | succ b ih =>
    have hpow : 2 ^ (b + 1) = 2 ^ b + 2 ^ b := by omega
    have hpos : 0 < 2 ^ b := Nat.two_pow_pos b
    rw [isqrtFrom]
    split
    next hbit =>
      rw [ih (Nat.le_sqrt.mpr hbit)]
      omega
    next hbit =>
      have hbeyond : Nat.sqrt n < acc + 2 ^ b := Nat.sqrt_lt.mpr (by omega)
      rw [ih hacc]
      omega

/-- Twenty bits give the root of any operand, up to the greatest number they can write. -/
theorem isqrt_eq_min (n : Nat) : isqrt n = min (2 ^ 20 - 1) (Nat.sqrt n) := by
  simp [isqrt, isqrtFrom_eq_min n 20 (Nat.zero_le _)]

@[simp] theorem resonanceIndex_zero (ssc : Nat) : resonanceIndex ssc 0 = 255 := rfl

/-- The clamp to 255 hides the reach of `isqrt`: the index is exact for every operand. -/
theorem resonanceIndex_of_pos (ssc : Nat) {q : Nat} (hq : 0 < q) :
    resonanceIndex ssc q = min 255 (Nat.sqrt (1000 * ssc / q)) := by
  rw [resonanceIndex, if_neg hq.ne', isqrt_eq_min]
  omega

theorem resonanceIndex_le (ssc q : Nat) : resonanceIndex ssc q ≤ 255 := by
  rcases q.eq_zero_or_pos with rfl | hq
  · simp
  · rw [resonanceIndex_of_pos ssc hq]
    exact Nat.min_le_left ..

/-- R107: each stage added moves the resonance down. -/
theorem resonanceIndex_antitone (ssc : Nat) : Antitone (resonanceIndex ssc) := by
  intro q q' hle
  rcases q.eq_zero_or_pos with rfl | hq
  · exact resonanceIndex_le ssc q'
  · rw [resonanceIndex_of_pos ssc hq, resonanceIndex_of_pos ssc (hq.trans_le hle)]
    have hquot : 1000 * ssc / q' ≤ 1000 * ssc / q := Nat.div_le_div_left hle hq
    exact min_le_min_left 255 (Nat.sqrt_le_sqrt hquot)

theorem resonanceIndex_of_lt {ssc q : Nat} (h : 1000 * ssc < q) : resonanceIndex ssc q = 0 := by
  simp [resonanceIndex_of_pos ssc (Nat.zero_lt_of_lt h), Nat.div_eq_of_lt h]

theorem sqrt_greatest_quotient : Nat.sqrt 20000000 = 4472 :=
  (Nat.eq_sqrt.mpr (by omega)).symm

end Sys2Proof.Machine
end

/-! ### The alarm of an order slot (R101) -/

section
namespace Sys2Proof.Machine

theorem clearLevel_of_one_le {limit hysteresis : Nat} (h : 1 ≤ limit - hysteresis) :
    clearLevel limit hysteresis = limit - hysteresis := max_eq_right h

theorem clearLevel_of_lt_one {limit hysteresis : Nat} (h : limit - hysteresis < 1) : clearLevel limit hysteresis = 1 :=
  max_eq_left h.le

section AlarmStep

variable {p limit hysteresis x run : Nat}

theorem alarmStep_above (h : limit < x) :
    alarmStep p limit hysteresis x false run = if p ≤ run + 1 then (true, 0) else (false, run + 1) := by
  simp [alarmStep, h]

theorem alarmStep_not_above (h : x ≤ limit) : alarmStep p limit hysteresis x false run = (false, 0) := by
  simp [alarmStep, h]

theorem alarmStep_below_clear (h : x < clearLevel limit hysteresis) :
    alarmStep p limit hysteresis x true run = if p ≤ run + 1 then (false, 0) else (true, run + 1) := by
  simp [alarmStep, h]

theorem alarmStep_not_below_clear (h : clearLevel limit hysteresis ≤ x) :
    alarmStep p limit hysteresis x true run = (true, 0) := by
  simp [alarmStep, h]

end AlarmStep

/-- A used slot takes the alarm step on its own limit; its shed count falls to 0 at the clearing alone. -/
theorem slotStep_used (c : Settings) {slot : Slot} (x : Nat) (a : SlotAlarm) (hused : slot.order.isSome = true) :
    slotStep c slot x a =
      let next := alarmStep c.persistence slot.limit c.hysteresis x a.alarm a.run
      ⟨next.1, next.2, if a.alarm && !next.1 then 0 else a.shed⟩ := by
  have hsome : slot.order.isNone = false := by simpa using hused
  simp [slotStep, hsome]

section SlotStep

variable (c : Settings) {slot : Slot} {x : Nat} {a : SlotAlarm}

theorem slotStep_above (hused : slot.order.isSome = true) (ha : a.alarm = false) (hx : slot.limit < x) :
    slotStep c slot x a =
      if c.persistence ≤ a.run + 1 then { a with alarm := true, run := 0 } else { a with run := a.run + 1 } := by
  rw [slotStep_used c x a hused, ha, alarmStep_above hx]
  split <;> simp

theorem slotStep_not_above (hused : slot.order.isSome = true) (ha : a.alarm = false) (hx : x ≤ slot.limit) :
    slotStep c slot x a = { a with run := 0 } := by
  simp [slotStep_used c x a hused, ha, alarmStep_not_above hx]

theorem slotStep_below_clear (hused : slot.order.isSome = true) (ha : a.alarm = true)
    (hx : x < clearLevel slot.limit c.hysteresis) :
    slotStep c slot x a = if c.persistence ≤ a.run + 1 then ⟨false, 0, 0⟩ else { a with run := a.run + 1 } := by
  rw [slotStep_used c x a hused, ha, alarmStep_below_clear hx]
  split <;> simp

theorem slotStep_not_below_clear (hused : slot.order.isSome = true) (ha : a.alarm = true)
    (hx : clearLevel slot.limit c.hysteresis ≤ x) : slotStep c slot x a = { a with run := 0 } := by
  simp [slotStep_used c x a hused, ha, alarmStep_not_below_clear hx]

end SlotStep

/-- Cycles that all count toward the change of a flag: the flag changes at the `p`-th of the run and not before. The run is
taken up at any count below `p`, and the argument is the same for setting and for clearing. -/
theorem foldl_alarmStep_of_counting {p limit hysteresis : Nat} {flag : Bool} (xs : List Nat) {run : Nat}
    (hcount : ∀ x ∈ xs, ∀ r, alarmStep p limit hysteresis x flag r = if p ≤ r + 1 then (!flag, 0) else (flag, r + 1))
    (hrun : run < p) (hlen : run + xs.length ≤ p) :
    xs.foldl (fun a x => alarmStep p limit hysteresis x a.1 a.2) (flag, run) =
      if run + xs.length = p then (!flag, 0) else (flag, run + xs.length) := by
  induction xs generalizing run with
  | nil => simp [hrun.ne]
  | cons x xs ih =>
    rw [List.length_cons] at hlen ⊢
    rw [List.foldl_cons, hcount x List.mem_cons_self]
    by_cases hp : p ≤ run + 1
    · have hlast : xs = [] := List.eq_nil_of_length_eq_zero (by omega)
      subst hlast
      simp [show run + 1 = p by omega]
    · rw [if_neg hp, ih (fun y hy => hcount y (List.mem_cons_of_mem x hy)) (by omega) (by omega),
        Nat.add_right_comm, Nat.add_assoc]

end Sys2Proof.Machine
end

/-! ### The obligations -/

section
namespace Sys2Proof.Proofs
open Machine

/-- Settles O21, from the closed form of the index at a positive capacitance. -/
theorem resonanceIndex : Obligations.ResonanceIndex := by
  refine ⟨fun ssc _ => resonanceIndex_of_pos ssc, resonanceIndex_zero, ?largest, rfl, sqrt_greatest_quotient, ?clamped,
    fun _ _ h => ⟨Nat.div_eq_of_lt h, resonanceIndex_of_lt h⟩, resonanceIndex_le,
    fun ssc _ _ h => resonanceIndex_antitone ssc h⟩
  case largest =>
    intro ssc q hssc _
    calc 1000 * ssc / q ≤ 1000 * ssc := Nat.div_le_self ..
      _ ≤ 20000000 := by omega
  case clamped =>
    rw [resonanceIndex_of_pos 20000 Nat.one_pos, Nat.div_one, sqrt_greatest_quotient]
    rfl

/-- Settles O22: the four rows of R101's table, and the persistence by induction over a run of counting cycles. -/
theorem alarmPersistence : Obligations.AlarmPersistence := by
  refine ⟨fun _ _ => ⟨clearLevel_of_one_le, clearLevel_of_lt_one⟩, ?table, ?persistence⟩
  case table =>
    intro c slot x a hused
    exact ⟨slotStep_above c hused, slotStep_not_above c hused, slotStep_below_clear c hused,
      slotStep_not_below_clear c hused⟩
  case persistence =>
    intro p limit hysteresis xs hp hlen
    constructor
    · intro habove
      simpa using foldl_alarmStep_of_counting xs (run := 0) (flag := false) (fun x hx _ => alarmStep_above (habove x hx))
        (by omega) (by omega)
    · intro hbelow
      simpa using foldl_alarmStep_of_counting xs (run := 0) (flag := true)
        (fun x hx _ => alarmStep_below_clear (hbelow x hx)) (by omega) (by omega)

end Sys2Proof.Proofs
end

/-! ### What a step does -/

section
namespace Sys2Proof.Machine

/-- The state after a command: every meaning answers one (`exec_eq`). -/
def runCommand (c : Instr) (s : State) : State :=
  match exec c s with
  | .next t => t
  | .fault _ | .refused _ => s

theorem exec_eq (c : Instr) (s : State) : exec c s = .next (runCommand c s) := by
  cases c <;> rfl

theorem eq_runCommand {c : Instr} {s t : State} (h : exec c s = .next t) : t = runCommand c s :=
  (Host.Outcome.next.inj ((exec_eq c s).symm.trans h)).symm

/-- A step takes the command at the front, queues the first due event, lets a millisecond pass, or does nothing while the
part is held. -/
theorem step_cases {s t : State} (h : step s = .next t) :
    (∃ c rest, s.pending = c :: rest ∧ t = runCommand c { s with pending := rest }) ∨
    (∃ q, t = { s with pending := q }) ∨ t = advance s := by
  unfold step at h
  split at h
  next c rest hq => exact .inl ⟨c, rest, hq, eq_runCommand h⟩
  next hq =>
    obtain rfl := Host.Outcome.next.inj h
    refine .inr ?_
    unfold idle
    split
    · exact .inl ⟨s.pending, rfl⟩
    · split
      · exact .inl ⟨_, rfl⟩
      · exact .inr rfl

/-- What every command and every millisecond keeps, and what does not look at the queue, every step keeps. -/
theorem step_keeps {P : State → Prop} (hqueue : ∀ s q, P s → P { s with pending := q })
    (hcommand : ∀ c s, P s → P (runCommand c s)) (hadvance : ∀ s, P s → P (advance s)) {s t : State} (hs : P s)
    (h : step s = .next t) : P t := by
  rcases step_cases h with ⟨c, rest, -, rfl⟩ | ⟨q, rfl⟩ | rfl
  · exact hcommand c _ (hqueue s rest hs)
  · exact hqueue s q hs
  · exact hadvance s hs

/-- A guarded event: it acts where its cause stands, and changes nothing otherwise. -/
theorem guarded {P : State → Prop} {b : Prop} [Decidable b] {s t : State} (hs : P s) (ht : b → P t) :
    P (if b then t else s) := by
  split
  next h => exact ht h
  next => exact hs

end Sys2Proof.Machine
end

/-! ### The Stage Supervisor's invariant -/

section
namespace Sys2Proof.Machine

theorem StageSafe.tick {p : Phase} {r : Stage} (h : StageSafe p r) : StageSafe p.tick r.tick where
  closeOut := h.closeOut
  openOut hopen := (h.openOut hopen).imp_right fun hp => by simp [hp, Phase.tick]
  oper := h.oper
  rested hst := by
    have hst' : r.state = .ready := hst
    simpa [Stage.tick, hst', StageState.countdown] using h.rested hst'
  start hp := h.start fun hr => hp (by simp [hr, Phase.tick])

theorem advance_stage (s : State) (k : StageId) : (advance s).stage k = (s.stage k).tick := by
  simp [advance, State.stage]

theorem advance_safe {s : State} (hs : StagesSafe s) : StagesSafe (advance s) where
  each k := by
    rw [advance_stage]
    exact (hs.each k).tick
  lists :=
    { ready := fun k => by rw [advance_stage]; exact hs.lists.ready k
      inService := fun k => by rw [advance_stage]; exact hs.lists.inService k
      readyOnce := hs.lists.readyOnce
      inServiceOnce := hs.lists.inServiceOnce }
  configured k h := hs.configured k (by rwa [advance_stage] at h)
  oneClosing j k hj hk := hs.oneClosing j k (by rwa [advance_stage] at hj) (by rwa [advance_stage] at hk)

theorem takeNothing_safe (f : Frame) {s : State} (hs : StagesSafe s) : StagesSafe (takeNothing f s) := by
  unfold takeNothing
  split
  · exact judgeYard_safe hs f
  · exact judgePanel_safe hs f

theorem takeDetail_safe (f : Frame) {s : State} (hs : StagesSafe s) : StagesSafe (takeDetail f s) :=
  safe_of hs rfl rfl rfl rfl rfl

theorem doneOrder_safe {s : State} (hs : StagesSafe s) (o : Order) (d : Nat) : StagesSafe (doneOrder o d s) :=
  (writeOrder_frame ..).safe hs

theorem serveMode_safe {s : State} (hs : StagesSafe s) (o : Order) : StagesSafe (serveMode o s) :=
  doneOrder_safe ((setMode_frame ..).safe hs) o 0

theorem serveBlock_safe {s : State} (hs : StagesSafe s) (member : Bool) (o : Order) : StagesSafe (serveBlock member o s) :=
  doneOrder_safe (s := maskBlock s (byteAt o.arg 0) member) (safe_of hs rfl rfl rfl rfl rfl) o 0

theorem serveReport_safe {s : State} (hs : StagesSafe s) (o : Order) : StagesSafe (serveReport o s) := by
  have hslot : StagesSafe { s with lc.detailSlot := some (if o.argLen = 0 then 0 else byteAt o.arg 0, o.panel) } :=
    safe_of hs rfl rfl rfl rfl rfl
  exact doneOrder_safe ((refreshAccess_frame _).safe hslot) o _

theorem chainStep_safe {s : State} (hs : StagesSafe s) : StagesSafe (chainStep s) := by
  unfold chainStep
  split
  next c _ =>
    split
    · exact hs
    · exact serveStep_safe (safe_of hs rfl rfl rfl rfl rfl)
  next => exact hs

theorem expireHoldOff_safe {s : State} (hs : StagesSafe s) : StagesSafe (expireHoldOff s) := by
  unfold expireHoldOff
  split
  · exact hs
  · split
    · exact guarded hs fun _ => commit_safe hs _
    · exact hs

theorem endTransmission_safe {s : State} (hs : StagesSafe s) : StagesSafe (endTransmission s) :=
  (refreshAccess_frame _).safe (safe_of hs rfl rfl rfl rfl rfl)

theorem runCommand_safe (c : Instr) (s : State) (hs : StagesSafe s) : StagesSafe (runCommand c s) := by
  cases c with
  | powerOn strap =>
    show StagesSafe (if s.resetInput then cleared s else beginStart strap s)
    split
    · exact cleared_safe s
    · exact beginStart_safe strap s
  | externalReset => exact cleared_safe _
  | resetRelease strap => exact guarded hs fun _ => beginStart_safe strap _
  | imageCheck image =>
    refine guarded hs fun h => ?_
    split
    · exact installSettings_safe hs h _
    · exact enterFallback_safe hs h
  | imageReadTimeout => exact guarded hs (enterFallback_safe hs)
  | fallbackPulseEnd => exact guarded hs fun _ => fallbackEnd_safe hs
  | presenceProbeEnd =>
    show StagesSafe (match s.phase with | .probing _ => endProbe s | _ => s)
    split
    next n h => exact endProbe_safe hs n h
    next => exact hs
  | sampleSet words => exact guarded hs fun _ => safe_of hs rfl rfl rfl rfl rfl
  | cycleCompletion words order => exact guarded hs fun _ => settleDue_safe (markedSet_safe hs words order)
  | markTimeout =>
    refine guarded hs fun _ => ?_
    split
    · exact safe_of hs rfl rfl rfl rfl rfl
    · exact declareLost_safe (safe_of hs rfl rfl rfl rfl rfl)
  | contactChange changed => exact guarded hs fun _ => settleDue_safe (contactChange_safe hs changed)
  | pulseEnd k => exact endPulse_safe hs k
  | closeWindowExpiry k => exact settleDue_safe (closeWindow_safe hs k)
  | openWindowExpiry k => exact settleDue_safe (openWindow_safe hs k)
  | discrepancyExpiry k => exact expireDiscrepancy_safe hs k
  | dischargeEnd k => exact settleDue_safe (endDischarge_safe hs k)
  | minutePruning => exact foldl_safe _ (fun _ k h => prune_safe h k) _ s hs
  | listenInExpiry => exact guarded hs fun _ => (removeCause_frame ..).safe (safe_of hs rfl rfl rfl rfl rfl)
  | stationSettleExpiry => exact guarded hs fun _ => endQuiet_safe (safe_of hs rfl rfl rfl rfl rfl)
  | peerSettleExpiry => exact guarded hs fun _ => endQuiet_safe (safe_of hs rfl rfl rfl rfl rfl)
  | frameCompletion =>
    show StagesSafe (match s.lc.rx.frame with | some a => if s.receiving && !s.lc.rx.character then _ else s | none => s)
    split
    · exact guarded hs fun _ => safe_of hs rfl rfl rfl rfl rfl
    · exact hs
  | bulletinArrival => exact takeHead_safe hs _ _ fun f _ => takeYard_safe _ (fun f _ => takeBulletin_safe f) f
  | outcomeArrival => exact takeHead_safe hs _ _ fun f _ => takeYard_safe _ (fun f _ => takeOutcome_safe f) f
  | intentArrival => exact takeHead_safe hs _ _ fun f _ => takeYard_safe _ (fun f _ => takeIntent_safe f) f
  | detailArrival => exact takeHead_safe hs _ _ fun f _ => takeYard_safe _ (fun f _ => takeDetail_safe f) f
  | formatDiscard => exact guarded hs fun _ => safe_of hs rfl rfl rfl rfl rfl
  | peerStale station => exact safe_of hs rfl rfl rfl rfl rfl
  | peerRemoval station =>
    show StagesSafe (match findPeer station.toNat s.pv.entries with
      | some e => if removalAge e.period ≤ e.ageMs then _ else s | none => s)
    split
    · exact guarded hs fun _ => safe_of hs rfl rfl rfl rfl rfl
    · exact hs
  | heardIntentExpiry sender => exact safe_of hs rfl rfl rfl rfl rfl
  | numberClashExpiry => exact guarded hs fun _ => (trigger_frame _).safe (safe_of hs rfl rfl rfl rfl rfl)
  | holdOffExpiry => exact settleDue_safe (expireHoldOff_safe hs)
  | queueTimeExpiry =>
    show StagesSafe (match s.ix.own with
      | some i => if unsent i then countBusy (withdraw .channelBusy s) else s | none => s)
    split
    · exact guarded hs fun _ => safe_of ((withdraw_frame .channelBusy s).safe hs) rfl rfl rfl rfl rfl
    · exact hs
  | mediumIdle => exact guarded hs fun _ => safe_of hs rfl rfl rfl rfl rfl
  | carrierDetectChange active =>
    show StagesSafe (if active then _ else _)
    split <;> exact safe_of hs rfl rfl rfl rfl rfl
  | transmissionStart => exact guarded hs fun _ => startTransmission_safe hs
  | transmissionEnd => exact guarded hs fun _ => endTransmission_safe hs
  | bulletinPeriodExpiry => exact guarded hs fun _ => arm_safe (safe_of hs rfl rfl rfl rfl rfl)
  | triggerDelayExpiry => exact guarded hs fun _ => arm_safe (safe_of hs rfl rfl rfl rfl rfl)
  | bulletinSpacingExpiry =>
    exact guarded hs fun _ => (refreshAccess_frame _).safe (safe_of hs rfl rfl rfl rfl rfl)
  | orderClose => exact takeOrder_safe 1 _ (fun o _ h => serveOrderSwitch_safe h _ o) hs
  | orderOpen => exact takeOrder_safe 2 _ (fun o _ h => serveOrderSwitch_safe h _ o) hs
  | orderMode => exact takeOrder_safe 3 _ (fun o _ h => serveMode_safe h o) hs
  | orderBlockSet => exact takeOrder_safe 4 _ (fun o _ h => serveBlock_safe h _ o) hs
  | orderBlockClear => exact takeOrder_safe 5 _ (fun o _ h => serveBlock_safe h _ o) hs
  | orderResetStage => exact settleDue_safe (takeOrder_safe 6 _ (fun o _ h => serveReset_safe h o) hs)
  | orderCaptureNull => exact takeOrder_safe 7 _ (fun o _ h => serveCapture_safe h o) hs
  | orderSequence => exact settleDue_safe (takeOrder_safe 8 _ (fun o _ h => serveSequence_safe h o) hs)
  | orderStopSequence => exact takeOrder_safe 9 _ (fun o _ h => serveStop_safe h o) hs
  | orderReport => exact takeOrder_safe 10 _ (fun o _ h => serveReport_safe h o) hs
  | chainStep => exact settleDue_safe (chainStep_safe hs)
  | startEdge => exact guarded hs fun _ => safe_of hs rfl rfl rfl rfl rfl
  | characterEnd samples =>
    refine guarded hs fun _ => ?_
    split
    · exact safe_of hs rfl rfl rfl rfl rfl
    · exact hs
  | frameArrival => exact takeHead_safe hs _ _ fun f _ => takeNothing_safe f
  | badOrder => exact takeHead_safe hs _ _ fun f _ => takePanel_safe _ (fun _ _ h => h) f

end Sys2Proof.Machine
end

section
namespace Sys2Proof.Proofs
open Machine

/-- Settles O56: one lemma for each command and for the millisecond. -/
theorem stagesStaySafe : Obligations.StagesStaySafe := fun _ _ hs h =>
  step_keeps (fun _ _ hs => safe_of hs rfl rfl rfl rfl rfl) runCommand_safe (fun _ => advance_safe) hs h

end Sys2Proof.Proofs
end

/-! ### The bounds of the collections -/

section
namespace Sys2Proof.Machine

theorem satInc_le (hi n : Nat) : satInc hi n ≤ hi := Nat.min_le_left ..

theorem advance_collections {s : State} (hs : CollectionsBounded s) : CollectionsBounded (advance s) where
  peers := by simpa [advance, PeerView.tick] using hs.peers
  onePerStation := by simpa [advance, PeerView.tick, Function.comp_def] using hs.onePerStation
  yards e he := by
    obtain ⟨x, hx, rfl⟩ := List.mem_map.mp he
    exact hs.yards x hx
  heard := by simpa [advance, PeerView.tick] using hs.heard
  onePerSender := by simpa [advance, PeerView.tick, Function.comp_def] using hs.onePerSender
  panels := hs.panels
  ring := hs.ring
  silent hw := by simpa [advance, PeerView.tick, State.tickLine] using hs.silent hw
  working hw := by simp [advance, Phase.tick, hs.working hw]

theorem takeNothing_collections (f : Frame) {s : State} (hs : CollectionsBounded s) :
    CollectionsBounded (takeNothing f s) := by
  unfold takeNothing
  split
  · exact (judgeYard_collections hs f).1
  · exact judgePanel_collections hs f

theorem serveMode_collections {s : State} (hs : CollectionsBounded s) (o : Order) : CollectionsBounded (serveMode o s) :=
  ((setMode_frame ..).trans (writeOrder_frame ..)).toSwitchFrame.collections hs

theorem serveBlock_collections {s : State} (hs : CollectionsBounded s) (member : Bool) (o : Order) :
    CollectionsBounded (serveBlock member o s) :=
  (writeOrder_frame _ _ _ _ _ (maskBlock s (byteAt o.arg 0) member)).toSwitchFrame.collections
    (collections_of hs rfl rfl rfl rfl rfl)

theorem serveReset_frame (o : Order) (s : State) : SwitchFrame s (serveReset o s) := by
  unfold serveReset
  split
  · exact (refuseOrder_frame ..).toSwitchFrame
  · split
    · exact (resetStage_frame ..).trans (writeOrder_frame ..).toSwitchFrame
    · exact .refl s

theorem serveCapture_frame (o : Order) (s : State) : NoticeFrame s (serveCapture o s) := by
  unfold serveCapture
  split
  · exact refuseOrder_frame ..
  · split
    next k _ =>
      exact (relayFrame_of s { s.ur with capture := some ⟨k, 0, 0, 0, o.panel, o.tag⟩ } rfl).trans (writeOrder_frame ..)
    · exact .refl s

theorem serveSequence_frame (o : Order) (s : State) : NoticeFrame s (serveSequence o s) := by
  unfold serveSequence
  split
  · exact refuseOrder_frame ..
  · dsimp only
    refine NoticeFrame.trans (NoticeFrame.trans ?_ (addCause_frame ..)) (writeOrder_frame ..)
    exact orderFrame_of s { s.oi with chain := some _ } rfl

theorem serveStop_frame (o : Order) (s : State) : NoticeFrame s (serveStop o s) := by
  unfold serveStop
  split
  · exact endChain_frame ..
  · exact refuseOrder_frame ..

theorem serveReport_collections {s : State} (hs : CollectionsBounded s) (o : Order) :
    CollectionsBounded (serveReport o s) := by
  have hslot : CollectionsBounded { s with lc.detailSlot := some (if o.argLen = 0 then 0 else byteAt o.arg 0, o.panel) } :=
    collections_of hs rfl rfl rfl rfl rfl
  exact (writeOrder_frame ..).toSwitchFrame.collections (refreshAccess_collections hslot)

theorem chainStep_frame (s : State) : SwitchFrame s (chainStep s) := by
  unfold chainStep
  split
  next c _ =>
    split
    · exact .refl s
    · exact (orderFrame_of s { s.oi with chain := some { c with delay := 0 } } rfl).toSwitchFrame.trans (serveStep_frame _)
  next => exact .refl s

/-- A change of the own intent alone. -/
theorem intentFrame_of (s : State) (own : Option Intent) : NoticeFrame s { s with ix := { s.ix with own := own } } :=
  noticeFrame_of s s.vc s.ur own s.oi s.alarm s.healthy (.refl _) rfl rfl

theorem actCommitted_frame (i : Intent) (s : State) : SwitchFrame s (actCommitted i s) := by
  have henter := (enterExecuting_frame i.stage i.dir i.number s).toSwitchFrame
  unfold actCommitted
  dsimp only
  split
  · exact henter.trans (issueClose_frame ..)
  · exact henter.trans (actOpen_frame ..)

theorem commit_frame (i : Intent) (s : State) : SwitchFrame s (commit i s) := by
  have hprune : SwitchFrame s
      (pruneRequest { s with ix.own := some { i with phase := .committed } } i.dir i.stage.num) :=
    (intentFrame_of s _).toSwitchFrame.trans (pruneRequest_frame ..)
  unfold commit
  dsimp only
  split
  · exact hprune.trans (withdrawCommitted_frame ..).toSwitchFrame
  · refine hprune.trans ?_
    exact actCommitted_frame ..

theorem expireHoldOff_frame (s : State) : SwitchFrame s (expireHoldOff s) := by
  unfold expireHoldOff
  split
  · exact .refl s
  · split
    · split
      · exact commit_frame ..
      · exact .refl s
    · exact .refl s

theorem handPosition_frame (before : Position) (k : StageId) (s : State) : SwitchFrame s (handPosition before k s) := by
  unfold handPosition
  split
  · exact .refl s
  · exact positionChange_frame ..

theorem handBlock_frame (s : State) : NoticeFrame s (handBlock s) := by
  unfold handBlock
  split
  · exact addCause_frame ..
  · exact removeCause_frame ..

/-- What follows the taking of the inputs is a switching event. -/
theorem contactChange_frame (changed : BitVec 13) (s : State) :
    SwitchFrame (takeInputs changed s) (contactChange changed s) := by
  have hpositions : SwitchFrame (takeInputs changed s) (handPositions s (takeInputs changed s)) := by
    unfold handPositions
    split
    · exact foldl_switch _ (fun _ _ => handPosition_frame ..) _ _
    · exact .refl _
  unfold contactChange
  dsimp only
  split
  · exact hpositions.trans (handBlock_frame _).toSwitchFrame
  · exact hpositions

theorem endProbe_collections {s : State} (hs : CollectionsBounded s) (hp : s.phase ≠ .running) :
    CollectionsBounded (endProbe s) := by
  have hsilent := hs.silent (notWorking_of_collections hs hp)
  refine refreshAccess_collections ⟨hs.peers, hs.onePerStation, ?_, hs.heard, hs.onePerSender, hs.panels, hs.ring, ?_, ?_⟩
  · exact hs.yards
  · exact fun h => by simp at h
  · exact fun _ => rfl

/-- R179: a stopped deferral changes the access attempt alone. -/
theorem stopDeferral_only (l : LineChannel) : ∃ a, l.stopDeferral = { l with access := a } := by
  unfold LineChannel.stopDeferral
  split
  · exact ⟨_, rfl⟩
  · exact ⟨l.access, rfl⟩

theorem stopDeferral_collections {s : State} (hs : CollectionsBounded s) {l : LineChannel} (hring : l.ring = s.lc.ring)
    (hworking : l.working = s.lc.working) : CollectionsBounded { s with lc := l.stopDeferral } := by
  obtain ⟨a, ha⟩ := stopDeferral_only l
  rw [ha]
  exact collections_of hs rfl hring hworking rfl rfl

theorem receiving_working {s : State} (h : s.receiving = true) : s.lc.working = true := by
  simp only [State.receiving, Bool.and_eq_true] at h
  exact h.1

theorem startTransmission_line (s : State) :
    (startTransmission s).lc.ring = s.lc.ring ∧ (startTransmission s).lc.working = s.lc.working ∧
    (startTransmission s).pv = s.pv ∧ (startTransmission s).phase = s.phase ∧
    (startTransmission s).settings = s.settings := by
  unfold startTransmission
  split
  · exact ⟨rfl, rfl, rfl, rfl, rfl⟩
  next c _ => cases c <;> exact ⟨rfl, rfl, rfl, rfl, rfl⟩

theorem removePeer_collections {s : State} (hs : CollectionsBounded s) (n : Nat) :
    CollectionsBounded { s with pv := { s.pv with entries := removePeer n s.pv.entries, viewFull := false } } :=
  peerView_collections hs _ ((List.length_filter_le ..).trans hs.peers)
    (hs.onePerStation.sublist ((List.filter_sublist (l := s.pv.entries)).map Peer.station))
    (fun e he => hs.yards e (List.mem_of_mem_filter he)) hs.heard hs.onePerSender hs.panels
    (fun hw => by simp [removePeer, (hs.silent hw).1])

theorem endQuiet_collections {s : State} (hs : CollectionsBounded s) : CollectionsBounded (endQuiet s) :=
  guarded hs fun _ => collections_of hs rfl rfl rfl rfl rfl

theorem runCommand_collections (c : Instr) (s : State) (hs : CollectionsBounded s) :
    CollectionsBounded (runCommand c s) := by
  cases c with
  | powerOn strap =>
    show CollectionsBounded (if s.resetInput then cleared s else beginStart strap s)
    split
    · exact cleared_collections s
    · exact beginStart_collections strap s
  | externalReset => exact cleared_collections _
  | resetRelease strap => exact guarded hs fun _ => beginStart_collections strap _
  | imageCheck image =>
    refine guarded hs fun h => ?_
    split
    · exact unstarted_collections hs (isReading_ne h) rfl rfl rfl
    · exact unstarted_collections hs (isReading_ne h) rfl rfl rfl
  | imageReadTimeout => exact guarded hs fun h => unstarted_collections hs (isReading_ne h) rfl rfl rfl
  | fallbackPulseEnd => exact guarded hs fun _ => collections_of hs rfl rfl rfl rfl rfl
  | presenceProbeEnd =>
    show CollectionsBounded (match s.phase with | .probing _ => endProbe s | _ => s)
    split
    next n h => exact endProbe_collections hs (by simp [h])
    next => exact hs
  | sampleSet words => exact guarded hs fun _ => collections_of hs rfl rfl rfl rfl rfl
  | cycleCompletion words order =>
    exact guarded hs fun _ => ((markedSet_frame words order s).trans (settleDue_frame _).cycle).collections hs
  | markTimeout =>
    refine guarded hs fun _ => ?_
    split
    · exact collections_of hs rfl rfl rfl rfl rfl
    · exact (declareLost_frame _).collections (collections_of hs rfl rfl rfl rfl rfl)
  | contactChange changed =>
    exact guarded hs fun _ => ((contactChange_frame changed s).trans (settleDue_frame _)).collections
      (collections_of hs rfl rfl rfl rfl rfl)
  | pulseEnd k => exact (endPulse_frame k s).collections hs
  | closeWindowExpiry k => exact ((closeWindow_frame k s).trans (settleDue_frame _)).collections hs
  | openWindowExpiry k => exact ((openWindow_frame k s).trans (settleDue_frame _)).collections hs
  | discrepancyExpiry k => exact (expireDiscrepancy_frame k s).collections hs
  | dischargeEnd k => exact ((endDischarge_frame k s).trans (settleDue_frame _)).collections hs
  | minutePruning => exact (foldl_switch _ (fun s k => prune_frame k s) _ s).collections hs
  | listenInExpiry =>
    exact guarded hs fun _ => (removeCause_frame ..).toSwitchFrame.collections (collections_of hs rfl rfl rfl rfl rfl)
  | stationSettleExpiry => exact guarded hs fun _ => endQuiet_collections (collections_of hs rfl rfl rfl rfl rfl)
  | peerSettleExpiry => exact guarded hs fun _ => endQuiet_collections (collections_of hs rfl rfl rfl rfl rfl)
  | frameCompletion =>
    show CollectionsBounded (match s.lc.rx.frame with
      | some a => if s.receiving && !s.lc.rx.character then _ else s | none => s)
    split
    · refine guarded hs fun h => ?_
      simp only [Bool.and_eq_true] at h
      exact completeFrame_collections hs (receiving_working h.1) _ _ _ rfl rfl
    · exact hs
  | bulletinArrival => exact takeYard_collections hs _ (by simp) _ fun _ _ => takeBulletin_collections
  | outcomeArrival => exact takeYard_collections hs _ (by simp) _ fun _ _ => takeOutcome_collections
  | intentArrival => exact takeYard_collections hs _ (by simp) _ fun _ _ => takeIntent_collections
  | detailArrival =>
    exact takeYard_collections hs _ (by simp) _ fun f _ h => modPeer_collections h.c f.sender Peer.fresh fun _ => rfl
  | formatDiscard => exact guarded hs fun _ => freeHead_collections (collections_of hs rfl rfl rfl rfl rfl)
  | peerStale station =>
    refine modPeer_collections hs station.toNat Peer.age fun e => ?_
    unfold Peer.age
    split <;> rfl
  | peerRemoval station =>
    show CollectionsBounded (match findPeer station.toNat s.pv.entries with
      | some e => if removalAge e.period ≤ e.ageMs then _ else s | none => s)
    split
    · exact guarded hs fun _ => removePeer_collections hs _
    · exact hs
  | heardIntentExpiry sender => exact filterHeard_collections hs _
  | numberClashExpiry =>
    refine guarded hs fun _ => (trigger_frame _).toSwitchFrame.collections ?_
    exact peerView_collections hs _ hs.peers hs.onePerStation hs.yards hs.heard hs.onePerSender hs.panels
      fun hw => (hs.silent hw).1
  | holdOffExpiry => exact ((expireHoldOff_frame s).trans (settleDue_frame _)).collections hs
  | queueTimeExpiry =>
    show CollectionsBounded (match s.ix.own with
      | some i => if unsent i then countBusy (withdraw .channelBusy s) else s | none => s)
    split
    · exact guarded hs fun _ =>
        collections_of ((withdraw_frame .channelBusy s).toSwitchFrame.collections hs) rfl rfl rfl rfl rfl
    · exact hs
  | mediumIdle => exact guarded hs fun _ => collections_of hs rfl rfl rfl rfl rfl
  | carrierDetectChange active =>
    show CollectionsBounded (if active then { s with carrier := true, lc := s.lc.stopDeferral } else { s with carrier := false })
    split
    · exact collections_of (stopDeferral_collections hs rfl rfl) rfl rfl rfl rfl rfl
    · exact collections_of hs rfl rfl rfl rfl rfl
  | transmissionStart =>
    refine guarded hs fun _ => ?_
    obtain ⟨hring, hworking, hpv, hphase, hsettings⟩ := startTransmission_line s
    exact collections_of hs hpv hring hworking hphase hsettings
  | transmissionEnd => exact guarded hs fun _ => refreshAccess_collections (collections_of hs rfl rfl rfl rfl rfl)
  | bulletinPeriodExpiry => exact guarded hs fun _ => refreshAccess_collections (collections_of hs rfl rfl rfl rfl rfl)
  | triggerDelayExpiry => exact guarded hs fun _ => refreshAccess_collections (collections_of hs rfl rfl rfl rfl rfl)
  | bulletinSpacingExpiry => exact guarded hs fun _ => refreshAccess_collections (collections_of hs rfl rfl rfl rfl rfl)
  | orderClose => exact takeOrder_collections 1 _ (fun o t h => (serveOrderSwitch_frame _ o t).collections h) hs
  | orderOpen => exact takeOrder_collections 2 _ (fun o t h => (serveOrderSwitch_frame _ o t).collections h) hs
  | orderMode => exact takeOrder_collections 3 _ (fun o _ h => serveMode_collections h o) hs
  | orderBlockSet => exact takeOrder_collections 4 _ (fun o _ h => serveBlock_collections h _ o) hs
  | orderBlockClear => exact takeOrder_collections 5 _ (fun o _ h => serveBlock_collections h _ o) hs
  | orderResetStage =>
    exact (settleDue_frame _).collections (takeOrder_collections 6 _ (fun o t h => (serveReset_frame o t).collections h) hs)
  | orderCaptureNull =>
    exact takeOrder_collections 7 _ (fun o t h => (serveCapture_frame o t).toSwitchFrame.collections h) hs
  | orderSequence =>
    exact (settleDue_frame _).collections
      (takeOrder_collections 8 _ (fun o t h => (serveSequence_frame o t).toSwitchFrame.collections h) hs)
  | orderStopSequence => exact takeOrder_collections 9 _ (fun o t h => (serveStop_frame o t).toSwitchFrame.collections h) hs
  | orderReport => exact takeOrder_collections 10 _ (fun o _ h => serveReport_collections h o) hs
  | chainStep => exact ((chainStep_frame s).trans (settleDue_frame _)).collections hs
  | startEdge =>
    exact guarded hs fun _ => stopDeferral_collections hs rfl rfl
  | characterEnd samples =>
    refine guarded hs fun _ => ?_
    split
    · exact collections_of hs rfl rfl rfl rfl rfl
    · exact hs
  | frameArrival => exact takeHead_collections hs _ _ fun f _ => takeNothing_collections f hs
  | badOrder => exact takeHead_collections hs _ _ fun f _ => takePanel_collections _ (fun _ _ h => h) f hs

end Sys2Proof.Machine
end

/-! ### The bounds of the accumulators -/

section
namespace Sys2Proof.Machine

theorem takeOrder_accKept (code : Nat) {serve : Order → State → State} (h : ∀ o s, AccKept s (serve o s)) (s : State) :
    AccKept s (takeOrder code serve s) :=
  takeHead_accKept s _ _ (takePanel_accKept serve h)

theorem takeNothing_accKept (f : Frame) (s : State) : AccKept s (takeNothing f s) := by
  unfold takeNothing
  split
  · exact judgeYard_accKept f s
  · exact judgePanel_accKept f s

theorem serveBlock_accKept (member : Bool) (o : Order) (s : State) : AccKept s (serveBlock member o s) :=
  AccKept.trans (t := maskBlock s (byteAt o.arg 0) member) (accKept_of rfl rfl rfl rfl rfl)
    (writeOrder_frame ..).toSwitchFrame.accKept

theorem serveReport_accKept (o : Order) (s : State) : AccKept s (serveReport o s) :=
  AccKept.trans (t := { s with lc.detailSlot := some (if o.argLen = 0 then 0 else byteAt o.arg 0, o.panel) })
    (accKept_of rfl rfl rfl rfl rfl)
    ((refreshAccess_accKept _).trans (writeOrder_frame ..).toSwitchFrame.accKept)

theorem endQuiet_accKept (s : State) : AccKept s (endQuiet s) :=
  guarded (P := AccKept s) (.refl s) fun _ => ⟨.inr rfl, .inr rfl, rfl, rfl, rfl⟩

/-- The commands that neither start the part nor take a sample set keep each accumulator or make it 0. -/
def Instr.keepsAccumulators : Instr → Bool
  | .powerOn _ | .externalReset | .resetRelease _ | .imageCheck _ | .imageReadTimeout | .presenceProbeEnd
  | .cycleCompletion _ _ => false
  | _ => true

theorem runCommand_accKept {c : Instr} (hc : Instr.keepsAccumulators c = true) (s : State) :
    AccKept s (runCommand c s) := by
  have hsame {t : State} (hvc : t.vc = s.vc) (hport : t.port.working = s.port.working) (hphase : t.phase = s.phase)
      (hsettings : t.settings = s.settings) : AccKept s t :=
    accKept_of (by rw [hvc]) (by rw [hvc]) hport hphase hsettings
  have hrefl := AccKept.refl s
  cases c with
  | powerOn | externalReset | resetRelease | imageCheck | imageReadTimeout | presenceProbeEnd | cycleCompletion => cases hc
  | fallbackPulseEnd => exact guarded hrefl fun _ => hsame rfl rfl rfl rfl
  | sampleSet words => exact guarded hrefl fun _ => hsame rfl rfl rfl rfl
  | markTimeout =>
    refine guarded hrefl fun _ => ?_
    split
    · exact hsame rfl rfl rfl rfl
    · exact (hsame (t := { s with port.markTimer := none }) rfl rfl rfl rfl).trans (declareLost_accKept _)
  | contactChange changed =>
    exact guarded hrefl fun _ => (hsame (t := takeInputs changed s) rfl rfl rfl rfl).trans
      ((contactChange_frame changed s).trans (settleDue_frame _)).accKept
  | pulseEnd k => exact (endPulse_frame k s).accKept
  | closeWindowExpiry k => exact ((closeWindow_frame k s).trans (settleDue_frame _)).accKept
  | openWindowExpiry k => exact ((openWindow_frame k s).trans (settleDue_frame _)).accKept
  | discrepancyExpiry k => exact (expireDiscrepancy_frame k s).accKept
  | dischargeEnd k => exact ((endDischarge_frame k s).trans (settleDue_frame _)).accKept
  | minutePruning => exact (foldl_switch _ (fun s k => prune_frame k s) _ s).accKept
  | listenInExpiry =>
    exact guarded hrefl fun _ => (accKept_of (s := s) (t := { s with vc.listenIn := none }) rfl rfl rfl rfl rfl).trans
      (removeCause_frame ..).toSwitchFrame.accKept
  | stationSettleExpiry =>
    exact guarded hrefl fun _ => (accKept_of (s := s) (t := { s with vc.stationSettle := none }) rfl rfl rfl rfl rfl).trans
      (endQuiet_accKept _)
  | peerSettleExpiry =>
    exact guarded hrefl fun _ => (accKept_of (s := s) (t := { s with vc.peerSettle := none }) rfl rfl rfl rfl rfl).trans
      (endQuiet_accKept _)
  | frameCompletion =>
    show AccKept s (match s.lc.rx.frame with
      | some a => if s.receiving && !s.lc.rx.character then _ else s | none => s)
    split
    · exact guarded hrefl fun _ => hsame rfl rfl rfl rfl
    · exact hrefl
  | bulletinArrival => exact takeHead_accKept s _ _ fun f t => takeYard_accKept _ takeBulletin_accKept f t
  | outcomeArrival => exact takeHead_accKept s _ _ fun f t => takeYard_accKept _ takeOutcome_accKept f t
  | intentArrival => exact takeHead_accKept s _ _ fun f t => takeYard_accKept _ takeIntent_accKept f t
  | detailArrival =>
    exact takeHead_accKept s _ _ fun f t => takeYard_accKept takeDetail (fun _ _ => accKept_of rfl rfl rfl rfl rfl) f t
  | formatDiscard => exact guarded hrefl fun _ => hsame rfl rfl rfl rfl
  | peerStale station => exact hsame rfl rfl rfl rfl
  | peerRemoval station =>
    show AccKept s (match findPeer station.toNat s.pv.entries with
      | some e => if removalAge e.period ≤ e.ageMs then _ else s | none => s)
    split
    · exact guarded hrefl fun _ => hsame rfl rfl rfl rfl
    · exact hrefl
  | heardIntentExpiry sender => exact hsame rfl rfl rfl rfl
  | numberClashExpiry =>
    exact guarded hrefl fun _ => (hsame (t := { s with pv.clash := none }) rfl rfl rfl rfl).trans
      (trigger_frame _).toSwitchFrame.accKept
  | holdOffExpiry => exact ((expireHoldOff_frame s).trans (settleDue_frame _)).accKept
  | queueTimeExpiry =>
    show AccKept s (match s.ix.own with
      | some i => if unsent i then countBusy (withdraw .channelBusy s) else s | none => s)
    split
    · exact guarded hrefl fun _ => (withdraw_frame .channelBusy s).toSwitchFrame.accKept.trans
        (accKept_of rfl rfl rfl rfl rfl)
    · exact hrefl
  | mediumIdle => exact guarded hrefl fun _ => hsame rfl rfl rfl rfl
  | carrierDetectChange active =>
    show AccKept s (if active then _ else _)
    split <;> exact hsame rfl rfl rfl rfl
  | transmissionStart =>
    refine guarded hrefl fun _ => ?_
    unfold startTransmission
    split <;> exact hsame rfl rfl rfl rfl
  | transmissionEnd =>
    exact guarded hrefl fun _ => (hsame (t := { s with
      lc := { s.lc with access := .noAttempt, rx := .start }, ix.own := startHoldOff s.ix.own }) rfl rfl rfl rfl).trans
      (refreshAccess_accKept _)
  | bulletinPeriodExpiry =>
    exact guarded hrefl fun _ => (hsame (t := { s with lc := { s.lc with periodTimer := none, armed := true } })
      rfl rfl rfl rfl).trans (refreshAccess_accKept _)
  | triggerDelayExpiry =>
    exact guarded hrefl fun _ => (hsame (t := { s with lc := { s.lc with triggerDelay := none, armed := true } })
      rfl rfl rfl rfl).trans (refreshAccess_accKept _)
  | bulletinSpacingExpiry =>
    exact guarded hrefl fun _ => (hsame (t := { s with lc.spacing := none }) rfl rfl rfl rfl).trans (refreshAccess_accKept _)
  | orderClose => exact takeOrder_accKept 1 (fun o t => (serveOrderSwitch_frame _ o t).accKept) s
  | orderOpen => exact takeOrder_accKept 2 (fun o t => (serveOrderSwitch_frame _ o t).accKept) s
  | orderMode =>
    exact takeOrder_accKept 3 (fun o t => ((setMode_frame ..).trans (writeOrder_frame ..)).toSwitchFrame.accKept) s
  | orderBlockSet => exact takeOrder_accKept 4 (serveBlock_accKept true) s
  | orderBlockClear => exact takeOrder_accKept 5 (serveBlock_accKept false) s
  | orderResetStage =>
    exact (takeOrder_accKept 6 (fun o t => (serveReset_frame o t).accKept) s).trans (settleDue_frame _).accKept
  | orderCaptureNull => exact takeOrder_accKept 7 (fun o t => (serveCapture_frame o t).toSwitchFrame.accKept) s
  | orderSequence =>
    exact (takeOrder_accKept 8 (fun o t => (serveSequence_frame o t).toSwitchFrame.accKept) s).trans
      (settleDue_frame _).accKept
  | orderStopSequence => exact takeOrder_accKept 9 (fun o t => (serveStop_frame o t).toSwitchFrame.accKept) s
  | orderReport => exact takeOrder_accKept 10 serveReport_accKept s
  | chainStep => exact ((chainStep_frame s).trans (settleDue_frame _)).accKept
  | startEdge => exact guarded hrefl fun _ => hsame rfl rfl rfl rfl
  | characterEnd samples =>
    refine guarded hrefl fun _ => ?_
    split
    · exact hsame rfl rfl rfl rfl
    · exact hrefl
  | frameArrival => exact takeHead_accKept s _ _ takeNothing_accKept
  | badOrder => exact takeHead_accKept s _ _ (takePanel_accKept _ fun _ t => AccKept.refl t)

theorem runCommand_accumulators (c : Instr) (s : State) (hs : AccumulatorsBounded s) :
    AccumulatorsBounded (runCommand c s) := by
  cases hc : Instr.keepsAccumulators c with
  | true => exact (runCommand_accKept hc s).accumulators hs
  | false =>
    have hbefore (h : s.phase ≠ .running) : s.vc.low = 0 ∧ s.vc.high = 0 := hs.before (notWorking_of_accumulators hs h)
    have hstart (hp : s.phase ≠ .running) {t : State} (hlow : t.vc.low = s.vc.low) (hhigh : t.vc.high = s.vc.high)
        (hw : t.port.working = s.port.working) : AccumulatorsBounded t :=
      zero_accumulators (hlow.trans (hbefore hp).1) (hhigh.trans (hbefore hp).2)
        (fun h => by rw [hw, notWorking_of_accumulators hs hp] at h; cases h)
    cases c with
    | powerOn strap =>
      show AccumulatorsBounded (if s.resetInput then cleared s else beginStart strap s)
      split <;> exact zero_accumulators rfl rfl (fun h => by cases h)
    | externalReset => exact zero_accumulators rfl rfl (fun h => by cases h)
    | resetRelease strap => exact guarded hs fun _ => zero_accumulators rfl rfl (fun h => by cases h)
    | imageCheck image =>
      refine guarded hs fun h => ?_
      split <;> exact hstart (isReading_ne h) rfl rfl rfl
    | imageReadTimeout => exact guarded hs fun h => hstart (isReading_ne h) rfl rfl rfl
    | presenceProbeEnd =>
      show AccumulatorsBounded (match s.phase with | .probing _ => endProbe s | _ => s)
      split
      next n hp =>
        refine (refreshAccess_accKept _).accumulators ?_
        have h0 := hbefore (by simp [hp])
        exact zero_accumulators h0.1 h0.2 fun _ => rfl
      next => exact hs
    | cycleCompletion words order =>
      exact guarded hs fun hw => (settleDue_frame _).accKept.accumulators (markedSet_accumulators words order s hs hw)
    | _ => cases hc

theorem advance_accumulators {s : State} (hs : AccumulatorsBounded s) : AccumulatorsBounded (advance s) :=
  ⟨hs.low, hs.high, hs.one, hs.before, fun hw => by simp [advance, Phase.tick, hs.working hw]⟩

end Sys2Proof.Machine
end

section
namespace Sys2Proof.Proofs
open Machine

/-- Settles O57: what each command leaves of the collections, and of the accumulators. -/
theorem recordsStayBounded : Obligations.RecordsStayBounded :=
  ⟨fun _ _ hs h => step_keeps (fun _ _ hs => collections_of hs rfl rfl rfl rfl rfl) runCommand_collections
      (fun _ => advance_collections) hs h,
    fun _ _ hs h => step_keeps (fun _ _ hs => accumulators_of hs rfl rfl rfl rfl rfl) runCommand_accumulators
      (fun _ => advance_accumulators) hs h⟩

end Sys2Proof.Proofs
end

/-! ### What the acts on control, intents, the line and the orders change -/

section
namespace Sys2Proof.Machine

/-- Of the state only the controller, the intents, the Line Channel and the orders have changed. -/
def ControlOnly (s t : State) : Prop := t = { s with vc := t.vc, ix := t.ix, lc := t.lc, oi := t.oi }

theorem ControlOnly.refl (s : State) : ControlOnly s s := rfl

theorem ControlOnly.trans {s t u : State} (h : ControlOnly s t) (h' : ControlOnly t u) : ControlOnly s u := by
  unfold ControlOnly at *
  rw [h'] at *
  rw [h]

theorem controlOnly_of (s : State) (vc ix lc oi) : ControlOnly s { s with vc := vc, ix := ix, lc := lc, oi := oi } := rfl

section Fields

variable {s t : State} (h : ControlOnly s t)
include h

theorem ControlOnly.stages : t.stages = s.stages := by rw [h]
theorem ControlOnly.ur : t.ur = s.ur := by rw [h]
theorem ControlOnly.hm : t.hm = s.hm := by rw [h]
theorem ControlOnly.alarm : t.alarm = s.alarm := by rw [h]
theorem ControlOnly.healthy : t.healthy = s.healthy := by rw [h]
theorem ControlOnly.store : t.store = s.store := by rw [h]
theorem ControlOnly.ready : t.ready = s.ready := by rw [h]
theorem ControlOnly.inService : t.inService = s.inService := by rw [h]
theorem ControlOnly.pending : t.pending = s.pending := by rw [h]
theorem ControlOnly.port : t.port = s.port := by rw [h]
theorem ControlOnly.phase : t.phase = s.phase := by rw [h]
theorem ControlOnly.settings : t.settings = s.settings := by rw [h]
theorem ControlOnly.alarmDue : t.alarmDue = s.alarmDue := by rw [h]; rfl
theorem ControlOnly.healthyDue : t.healthyDue = s.healthyDue := by rw [h]; rfl

end Fields

theorem refreshAccess_control (s : State) : ControlOnly s (refreshAccess s) := by
  obtain ⟨a, l, h⟩ := refreshAccess_only s
  rw [h]
  rfl

theorem trigger_control (s : State) : ControlOnly s (trigger s) := by
  unfold trigger
  split <;> rfl

theorem placeOutcome_control (x : OutcomeContent) (s : State) : ControlOnly s (placeOutcome x s) :=
  ControlOnly.trans (controlOnly_of s s.vc s.ix { s.lc with outcomeSlot := some x } s.oi) (refreshAccess_control _)

theorem enterSuspended_control (s : State) : ControlOnly s (enterSuspended s) :=
  ControlOnly.trans (controlOnly_of s _ s.ix s.lc s.oi) (trigger_control _)

theorem afterWithdrawal_control (r : Reason) (s : State) : ControlOnly s (afterWithdrawal r s) := by
  unfold afterWithdrawal
  split
  case h_5 | h_6 | h_7 => exact enterSuspended_control s
  all_goals rfl

theorem dropIntent_control (i : Intent) (r : Reason) (s : State) : ControlOnly s (dropIntent i r s) := by
  refine ControlOnly.trans ?_ (placeOutcome_control ..)
  exact ControlOnly.trans (controlOnly_of s s.vc { s.ix with own := none } _ s.oi) (refreshAccess_control _)

theorem withdraw_control (r : Reason) (s : State) : ControlOnly s (withdraw r s) := by
  unfold withdraw
  split
  · rfl
  · split
    · rfl
    · exact (dropIntent_control ..).trans (afterWithdrawal_control ..)

theorem withdrawCommitted_control (r : Reason) (s : State) : ControlOnly s (withdrawCommitted r s) := by
  unfold withdrawCommitted
  split
  · rfl
  · exact (dropIntent_control ..).trans (afterWithdrawal_control ..)

theorem addCause_control (c : Suspension) (s : State) : ControlOnly s (addCause c s) := by
  have hput : ControlOnly s { s with vc.causes := s.vc.causes.put c true } := rfl
  unfold addCause
  dsimp only
  split
  · split
    · exact hput
    · exact hput.trans ((withdraw_control ..).trans (enterSuspended_control _))
    · exact hput.trans (enterSuspended_control _)
  · exact hput

theorem removeCause_control (c : Suspension) (s : State) : ControlOnly s (removeCause c s) := by
  have hput : ControlOnly s { s with vc.causes := s.vc.causes.put c false } := rfl
  unfold removeCause
  dsimp only
  split
  · exact hput.trans (ControlOnly.trans (t := enterQuiet _) rfl (trigger_control _))
  · exact hput

theorem setMode_control (m : Bool) (s : State) : ControlOnly s (setMode m s) := by
  unfold setMode
  split
  · rfl
  · split
    · exact ControlOnly.trans (t := { s with vc.manual := true }) rfl (addCause_control ..)
    · exact ControlOnly.trans (t := { s with vc.manual := false }) rfl (removeCause_control ..)

theorem writeOrder_control (p g : Nat) (o : OrderOutcome) (d : Nat) (m : SettleMark) (s : State) :
    ControlOnly s (writeOrder p g o d m s) :=
  ControlOnly.trans (t := { s with oi.last := ⟨p, g, o, d⟩, oi.mark := m }) rfl (trigger_control _)

theorem endChain_control (c : Chain) (e : ChainEnd) (s : State) : ControlOnly s (endChain c e s) :=
  (ControlOnly.trans (t := { s with oi.chain := none, oi.stepIndex := c.index, oi.stepReason := e.reason }) rfl
    (writeOrder_control ..)).trans (removeCause_control ..)

theorem chainDeadLine_control (s : State) : ControlOnly s (chainDeadLine s) := by
  unfold chainDeadLine
  split
  · exact endChain_control ..
  · rfl

theorem controllerReport_control (r : SwitchReport) (s : State) : ControlOnly s (controllerReport r s) := by
  unfold controllerReport
  split
  · split
    · split
      · dsimp only
        split
        · rfl
        · exact ControlOnly.trans (t := { s with vc.ownOp := none }) rfl (enterSuspended_control _)
      · rfl
    · rfl
  all_goals rfl

theorem settleOrder_control (r : SwitchReport) (s : State) : ControlOnly s (settleOrder r s) := by
  unfold settleOrder
  split
  · split <;> exact writeOrder_control ..
  · rfl

theorem advanceChain_control (c : Chain) (s : State) : ControlOnly s (advanceChain c s) := by
  unfold advanceChain
  dsimp only
  split
  · exact ControlOnly.trans (t := { s with oi.chain := _ }) rfl (writeOrder_control ..)
  · rfl

theorem settleChain_control (r : SwitchReport) (s : State) : ControlOnly s (settleChain r s) := by
  unfold settleChain
  split
  · rfl
  · split
    · rfl
    · split
      · split
        · exact endChain_control ..
        · split
          · exact advanceChain_control ..
          · exact endChain_control ..
      · rfl

/-- R51: what the takers of a report change. -/
theorem report_control (r : SwitchReport) (s : State) : ControlOnly s (report r s) := by
  have hexchange : ControlOnly s (exchangeReport r s) :=
    ControlOnly.trans (controlOnly_of s s.vc { s.ix with own := _ } s.lc s.oi) (placeOutcome_control ..)
  exact ((hexchange.trans (controllerReport_control ..)).trans (settleOrder_control ..)).trans (settleChain_control ..)

theorem refuseOrder_control (o : Order) (r : Reason) (s : State) : ControlOnly s (refuseOrder o r s) :=
  writeOrder_control ..

theorem overvoltageWithdraw_control (s : State) : ControlOnly s (overvoltageWithdraw s) := by
  unfold overvoltageWithdraw
  split
  · exact guarded (P := ControlOnly s) rfl fun _ => withdraw_control ..
  · rfl

theorem captureEnded_control (c : Capture) (o : OrderOutcome) (d : Nat) (s : State) :
    ControlOnly s (captureEnded c o d s) := by
  unfold captureEnded
  exact guarded (P := ControlOnly s) rfl fun _ => writeOrder_control ..

end Sys2Proof.Machine
end

/-! ### What a switching event is made of -/

section
namespace Sys2Proof.Machine

/-- The status outputs have been judged anew, or neither they nor their conditions have changed. -/
def Judges (s t : State) : Prop :=
  (t.alarm = t.alarmDue ∧ t.healthy = t.healthyDue) ∨
  (t.alarm = s.alarm ∧ t.healthy = s.healthy ∧ t.alarmDue = s.alarmDue ∧ t.healthyDue = s.healthyDue)

theorem Judges.refl (s : State) : Judges s s := .inr ⟨rfl, rfl, rfl, rfl⟩

theorem Judges.trans {s t u : State} (h : Judges s t) (h' : Judges t u) : Judges s u := by
  unfold Judges at *
  grind

theorem Judges.follow {s t : State} (h : Judges s t) (hs : s.alarm = s.alarmDue ∧ s.healthy = s.healthyDue) :
    t.alarm = t.alarmDue ∧ t.healthy = t.healthyDue := by
  rcases h with h | ⟨ha, hh, had, hhd⟩
  · exact h
  · exact ⟨by rw [ha, had, hs.1], by rw [hh, hhd, hs.2]⟩

theorem ControlOnly.judges {s t : State} (h : ControlOnly s t) : Judges s t :=
  .inr ⟨h.alarm, h.healthy, h.alarmDue, h.healthyDue⟩

/-- An event after the start judges the status outputs where their conditions change (R201); measurement is recovered
only while the Sampler Port is at work (R10). -/
structure StatusStep (s t : State) : Prop where
  judges : Judges s t
  pending : t.pending = s.pending
  phase : t.phase = s.phase
  working : t.port.working = s.port.working
  lost : s.port.lost = true → t.port.lost = true ∨ s.port.working = true

theorem StatusStep.trans {s t u : State} (h : StatusStep s t) (h' : StatusStep t u) : StatusStep s u where
  judges := h.judges.trans h'.judges
  pending := h'.pending.trans h.pending
  phase := h'.phase.trans h.phase
  working := h'.working.trans h.working
  lost hl := (h.lost hl).elim (fun ht => h.working ▸ h'.lost ht) .inr

/-- Work of blocks other than the Stage Supervisor leaves the stage records. -/
structure Beside (s t : State) : Prop extends StatusStep s t where
  stages : t.stages = s.stages

/-- The acts of which an event is made: a change of one stage record that leaves its state and a set latch; a change of
one stage's state with its notice; and work of other blocks, which leaves the stage records and judges the status outputs
where their conditions change. -/
inductive Acts : State → State → Prop
  | record {s : State} {k : StageId} {f : Stage → Stage} (hstate : (f (s.stage k)).state = (s.stage k).state)
      (hlatch : (s.stage k).tripLatch = true → (f (s.stage k)).tripLatch = true) : Acts s (s.modStage k f)
  | change (k : StageId) (new : StageState) (s : State) : Acts s (changeStage k new s)
  | other {s t : State} (h : Beside s t) : Acts s t
  | trans {s t u : State} (h : Acts s t) (h' : Acts t u) : Acts s u

theorem Beside.refl (s : State) : Beside s s := ⟨⟨.refl s, rfl, rfl, rfl, .inl⟩, rfl⟩

theorem ControlOnly.beside {s t : State} (h : ControlOnly s t) : Beside s t :=
  ⟨⟨h.judges, h.pending, h.phase, by rw [h.port], fun hl => .inl (by rwa [h.port])⟩, h.stages⟩

theorem Acts.refl (s : State) : Acts s s := .other (.refl s)

theorem ControlOnly.acts {s t : State} (h : ControlOnly s t) : Acts s t := .other h.beside

theorem Acts.foldl {α : Type} {f : State → α → State} (hf : ∀ s a, Acts s (f s a)) (l : List α) (s : State) :
    Acts s (l.foldl f s) := by
  induction l generalizing s with
  | nil => exact .refl s
  | cons a l ih => exact (hf s a).trans (ih _)

theorem alarmDue_congr {s t : State} (hhm : t.hm.alarm = s.hm.alarm) (hunb : t.unbAlarm = s.unbAlarm)
    (hstages : ∀ k, (t.stage k).state = (s.stage k).state) (hsettings : t.settings = s.settings)
    (hlost : t.port.lost = s.port.lost) (hphase : t.phase = s.phase) : t.alarmDue = s.alarmDue := by
  simp only [State.alarmDue, State.harmAlarm, State.stageIds, State.fallback, hhm, hunb, hstages, hsettings, hlost, hphase]

theorem modStage_states {s : State} {k : StageId} {f : Stage → Stage}
    (h : (f (s.stage k)).state = (s.stage k).state) (j : StageId) :
    ((s.modStage k f).stage j).state = (s.stage j).state := by
  by_cases hj : j = k
  · subst hj
    simpa using h
  · rw [modStage_stage_ne s f hj]

theorem record_status {s : State} {k : StageId} {f : Stage → Stage} (hstate : (f (s.stage k)).state = (s.stage k).state) :
    StatusStep s (s.modStage k f) :=
  ⟨.inr ⟨rfl, rfl, alarmDue_congr rfl rfl (modStage_states hstate) rfl rfl rfl, rfl⟩, rfl, rfl, rfl, .inl⟩

theorem changeStage_status (k : StageId) (new : StageState) (s : State) : StatusStep s (changeStage k new s) := by
  have hframe := changeStage_frame k new s
  exact ⟨.inl ⟨rfl, rfl⟩, hframe.pending, hframe.phase, by rw [hframe.port], fun hl => .inl (by rwa [hframe.port])⟩

/-- R201: whatever an event does, its status outputs follow their conditions. -/
theorem Acts.status {s t : State} (h : Acts s t) : StatusStep s t := by
  induction h with
  | record hstate _ => exact record_status hstate
  | change k new s => exact changeStage_status k new s
  | other h => exact h.toStatusStep
  | trans _ _ ih ih' => exact ih.trans ih'

/-- R47: no act of an event clears a latch. -/
theorem Acts.latch {s t : State} (h : Acts s t) (k : StageId) (hk : (s.stage k).tripLatch = true) :
    (t.stage k).tripLatch = true := by
  induction h with
  | record hstate hlatch =>
    rename_i s j f
    by_cases hj : k = j
    · subst hj
      simpa using hlatch hk
    · rwa [modStage_stage_ne s f hj]
  | change j new s =>
    have hstage : (changeStage j new s).stage k = (s.moveStage j new).stage k := (stageNotice_frame ..).stage k
    rw [hstage]
    by_cases hj : k = j
    · subst hj
      simpa using hk
    · rwa [moveStage_others s j new k hj]
  | other h => rwa [State.stage, h.stages]
  | trans _ _ ih ih' => exact ih' (ih hk)

/-! ### The acts of each operation of the Stage Supervisor -/

/-- A stage record is written, its state is changed, and the switching is reported. -/
theorem changed_acts {s : State} {k : StageId} {f : Stage → Stage} (new : StageState)
    (hstate : (f (s.stage k)).state = (s.stage k).state)
    (hlatch : (s.stage k).tripLatch = true → (f (s.stage k)).tripLatch = true) :
    Acts s (changeStage k new (s.modStage k f)) :=
  (Acts.record hstate hlatch).trans (.change ..)

theorem report_acts (r : SwitchReport) (s : State) : Acts s (report r s) := (report_control r s).acts

theorem prune_acts (k : StageId) (s : State) : Acts s (s.prune k) := .record rfl id

theorem pruneFor_acts (s : State) (n : Nat) : Acts s (pruneFor s n) := by
  unfold pruneFor
  split
  · exact prune_acts ..
  · exact .refl s

theorem completeOpen_acts (k : StageId) (op : Operation) (timed : Bool) (s : State) :
    Acts s (completeOpen k op timed s) := by
  unfold completeOpen
  dsimp only
  exact (changed_acts _ rfl id).trans (report_acts ..)

theorem issueOpen_acts (k : StageId) (cause : Cause) (n : Nat) (s : State) : Acts s (issueOpen k cause n s) := by
  unfold issueOpen
  dsimp only
  split
  · exact Acts.trans (changed_acts .opening rfl id) (completeOpen_acts ..)
  · exact changed_acts .opening rfl id

theorem cutClose_acts (k : StageId) (op : Operation) (cause : Cause) (n : Nat) (s : State) :
    Acts s (cutClose k op cause n s) := by
  unfold cutClose
  exact .record rfl id

theorem absorbOpen_acts (k : StageId) (op : Operation) (cause : Cause) (n : Nat) (s : State) :
    Acts s (absorbOpen k op cause n s) := by
  unfold absorbOpen
  exact .record rfl id

theorem actOpen_acts (k : StageId) (cause : Cause) (n : Nat) (s : State) : Acts s (actOpen k cause n s) := by
  unfold actOpen
  split
  · exact issueOpen_acts ..
  · split
    · exact cutClose_acts ..
    · exact .refl s
  · split
    · exact absorbOpen_acts ..
    · exact .refl s
  · exact guarded (P := Acts s) (.refl s) fun _ => issueOpen_acts ..
  · exact .refl s

theorem requestOpen_acts (k : StageId) (cause : Cause) (n : Nat) (s : State) : Acts s (requestOpen k cause n s) := by
  unfold requestOpen
  split
  · exact .refl s
  · exact actOpen_acts ..

theorem deadLineNotice_acts (k : StageId) (s : State) : Acts s (deadLineNotice k s) :=
  guarded (P := Acts s) (.refl s) fun _ => requestOpen_acts ..

theorem completeClose_acts (k : StageId) (op : Operation) (timed : Bool) (s : State) :
    Acts s (completeClose k op timed s) := by
  unfold completeClose
  dsimp only
  refine Acts.trans ?_ (deadLineNotice_acts ..)
  split
  · exact ((changed_acts .closed rfl id).trans (report_acts ..)).trans (issueOpen_acts ..)
  · exact (changed_acts .closed rfl id).trans (report_acts ..)

theorem issueClose_acts (k : StageId) (cause : Cause) (n : Nat) (s : State) : Acts s (issueClose k cause n s) := by
  have hduty : Acts s (s.addDuty k) := .record rfl id
  unfold issueClose
  dsimp only
  split
  · exact hduty.trans ((changed_acts .closing rfl id).trans (completeClose_acts ..))
  · exact hduty.trans (changed_acts .closing rfl id)

theorem externalOpen_acts (k : StageId) (s : State) : Acts s (externalOpen k s) := by
  unfold externalOpen
  dsimp only
  exact (changed_acts _ rfl id).trans (report_acts ..)

theorem externalClose_acts (k : StageId) (s : State) : Acts s (externalClose k s) := by
  have hduty : Acts s (s.addExternalDuty k) := .record rfl id
  exact (hduty.trans ((changed_acts .closed rfl id).trans (report_acts ..))).trans (deadLineNotice_acts ..)

theorem takePosition_acts (k : StageId) (s : State) : Acts s (takePosition k s) := by
  unfold takePosition
  dsimp only
  split
  · split
    · split
      · exact Acts.trans (t := s.addExternalDuty k) (.record rfl id) (issueOpen_acts ..)
      · exact externalClose_acts ..
    · exact .record rfl id
    · exact .record rfl id
    · exact .refl s
  · exact .refl s

theorem positionChange_acts (k : StageId) (p : Position) (s : State) : Acts s (positionChange k p s) := by
  unfold positionChange
  dsimp only
  split
  · split
    · exact externalOpen_acts ..
    all_goals exact .record rfl id
  · split
    · exact externalClose_acts ..
    all_goals exact .record rfl id
  · split
    · exact externalClose_acts ..
    all_goals exact .record rfl id
  · split
    · exact Acts.trans (t := s.addExternalDuty k) (.record rfl id) (issueOpen_acts ..)
    all_goals exact .record rfl id
  · split
    · exact guarded (P := Acts s) (.refl s) fun _ => completeClose_acts ..
    · exact .refl s
  · split
    · exact guarded (P := Acts s) (.refl s) fun _ => completeOpen_acts ..
    · exact .refl s
  all_goals exact .refl s

theorem tripRefused_acts (k : StageId) (cause : Cause) (s : State) : Acts s (tripRefused k cause s) := by
  unfold tripRefused
  split
  · exact (changed_acts .lockout rfl id).trans (takePosition_acts ..)
  · exact (changed_acts .lockout rfl id).trans (takePosition_acts ..)
  · exact .record rfl id
  · exact .refl s

theorem requestTrip_acts (k : StageId) (cause : Cause) (s : State) : Acts s (requestTrip k cause s) := by
  have hlatched : Acts s (s.modStage k fun r => { r with tripLatch := true }) := .record rfl fun _ => rfl
  unfold requestTrip
  split
  · exact .refl s
  · dsimp only
    split
    · exact hlatched.trans (tripRefused_acts ..)
    · exact hlatched.trans (actOpen_acts ..)

theorem endPulse_acts (k : StageId) (s : State) : Acts s (endPulse k s) :=
  guarded (P := Acts s) (.refl s) fun _ => .record rfl id

theorem closeWindow_acts (k : StageId) (s : State) : Acts s (closeWindow k s) := by
  unfold closeWindow
  dsimp only
  split
  · split
    · exact (changed_acts _ rfl id).trans (report_acts ..)
    · refine Acts.trans (Acts.trans ?_ (report_acts ..)) (takePosition_acts ..)
      rw [modStage_modStage]
      exact changed_acts .discharging rfl id
  · exact .refl s

theorem openWindow_acts (k : StageId) (s : State) : Acts s (openWindow k s) := by
  unfold openWindow
  dsimp only
  split
  · exact (changed_acts _ rfl id).trans (report_acts ..)
  · exact .refl s

theorem expireDiscrepancy_acts (k : StageId) (s : State) : Acts s (expireDiscrepancy k s) := by
  unfold expireDiscrepancy
  dsimp only
  split
  · exact .refl s
  · exact guarded (P := Acts s) (.refl s) fun _ => .change ..

theorem endDischarge_acts (k : StageId) (s : State) : Acts s (endDischarge k s) := by
  unfold endDischarge
  dsimp only
  split
  · exact (changed_acts .ready rfl id).trans (takePosition_acts ..)
  · exact .record rfl id
  · exact .record rfl id
  · exact .refl s

theorem handPosition_acts (before : Position) (k : StageId) (s : State) : Acts s (handPosition before k s) := by
  unfold handPosition
  split
  · exact .refl s
  · exact positionChange_acts ..

theorem contactChange_acts (changed : BitVec 13) (s : State) : Acts (takeInputs changed s) (contactChange changed s) := by
  have hpositions : Acts (takeInputs changed s) (handPositions s (takeInputs changed s)) :=
    guarded (P := Acts _) (.refl _) fun _ => .foldl (fun _ _ => handPosition_acts ..) _ _
  unfold contactChange
  dsimp only
  split
  · unfold handBlock
    split
    · exact hpositions.trans (addCause_control ..).acts
    · exact hpositions.trans (removeCause_control ..).acts
  · exact hpositions

/-! ### The acts of requests, chains and the own intent -/

theorem pruneRequest_acts (s : State) (dir : Direction) (n : Nat) : Acts s (pruneRequest s dir n) := by
  unfold pruneRequest
  split
  · exact pruneFor_acts ..
  · exact .refl s

theorem actRequest_acts (dir : Direction) (k : StageId) (cause : Cause) (s : State) :
    Acts s (actRequest dir k cause s) := by
  unfold actRequest
  split
  · exact issueClose_acts ..
  · exact actOpen_acts ..

theorem serveSwitch_acts (dir : Direction) (n : Nat) (cause : Cause) {refused : Reason → State → State}
    {accepted : StageId → State → State} (s : State) (hr : ∀ r t, ControlOnly t (refused r t))
    (ha : ∀ k t, ControlOnly t (accepted k t)) : Acts s (serveSwitch dir n cause refused accepted s) := by
  have hprune := pruneRequest_acts s dir n
  unfold serveSwitch
  split
  · exact (hr _ s).acts
  · dsimp only
    split
    · exact hprune.trans (hr ..).acts
    · split
      · exact (hprune.trans (ha ..).acts).trans (actRequest_acts ..)
      · exact hprune

theorem serveOrderSwitch_acts (dir : Direction) (o : Order) (s : State) : Acts s (serveOrderSwitch dir o s) := by
  have hwithdraw : Acts s (if s.vc.state = .proposing then withdraw .order s else s) :=
    guarded (P := Acts s) (.refl s) fun _ => (withdraw_control ..).acts
  unfold serveOrderSwitch
  split
  · exact (refuseOrder_control ..).acts
  · exact hwithdraw.trans (serveSwitch_acts _ _ _ _ (fun _ _ => refuseOrder_control ..) (fun _ _ => writeOrder_control ..))

theorem serveStep_acts (s : State) : Acts s (serveStep s) := by
  unfold serveStep
  split
  · exact .refl s
  · split
    · exact .refl s
    · split
      · exact .refl s
      · exact serveSwitch_acts _ _ _ _ (fun _ _ => endChain_control ..) (fun _ _ => rfl)

theorem serveDue_acts (n : Nat) (s : State) : Acts s (serveDue n s) := by
  induction n generalizing s with
  | zero => exact .refl s
  | succ n ih => exact guarded (P := Acts s) (.refl s) fun _ => (serveStep_acts s).trans (ih _)

theorem settleDue_acts (s : State) : Acts s (settleDue s) := serveDue_acts 6 s

theorem chainStep_acts (s : State) : Acts s (chainStep s) := by
  unfold chainStep
  split
  next c _ =>
    split
    · exact .refl s
    · exact Acts.trans (t := { s with oi.chain := some { c with delay := 0 } }) (ControlOnly.acts rfl) (serveStep_acts _)
  next => exact .refl s

theorem actCommitted_acts (i : Intent) (s : State) : Acts s (actCommitted i s) := by
  have henter : Acts s (enterExecuting i.stage i.dir i.number s) := ControlOnly.acts rfl
  unfold actCommitted
  dsimp only
  split
  · exact henter.trans (issueClose_acts ..)
  · exact henter.trans (actOpen_acts ..)

theorem commit_acts (i : Intent) (s : State) : Acts s (commit i s) := by
  unfold commit
  dsimp only
  refine Acts.trans (t := { s with ix.own := some { i with phase := .committed } }) (ControlOnly.acts rfl) ?_
  refine (pruneRequest_acts _ i.dir i.stage.num).trans ?_
  split
  · exact (withdrawCommitted_control ..).acts
  · exact actCommitted_acts ..

theorem expireHoldOff_acts (s : State) : Acts s (expireHoldOff s) := by
  unfold expireHoldOff
  split
  · exact .refl s
  · split
    · exact guarded (P := Acts s) (.refl s) fun _ => commit_acts ..
    · exact .refl s

/-! ### The acts of a cycle -/

theorem declareDead_acts (live : List StageId) (s : State) : Acts s (declareDead live s) := by
  have hdeclared : ControlOnly s (trigger (addCause .deadLine
      { s with vc := { s.vc with deadLine := true, deadRun := 0, restore := 0 } })) :=
    (ControlOnly.trans (t := { s with vc := { s.vc with deadLine := true, deadRun := 0, restore := 0 } }) rfl
      (addCause_control ..)).trans (trigger_control _)
  exact (hdeclared.acts.trans (.foldl (fun _ _ => requestOpen_acts ..) live _)).trans (chainDeadLine_control _).acts

theorem endDead_control (s : State) : ControlOnly s (endDead s) :=
  (ControlOnly.trans (t := { s with vc := { s.vc with deadLine := false, deadRun := 0, restore := 0 } }) rfl
    (removeCause_control ..)).trans (trigger_control _)

theorem deadLineTest_acts (live : List StageId) (s : State) : Acts s (deadLineTest live s) := by
  unfold deadLineTest
  split
  · extract_lets n
    split
    · exact (endDead_control s).acts
    · exact ControlOnly.acts rfl
  · extract_lets n
    split
    · exact declareDead_acts ..
    · exact ControlOnly.acts rfl

theorem fastOpen_acts (inService : List StageId) (s : State) : Acts s (fastOpen inService s) := by
  unfold fastOpen
  split
  · exact requestOpen_acts ..
  · exact .refl s

theorem fastOvTest_acts (inService : List StageId) (s : State) : Acts s (fastOvTest inService s) := by
  have hopen (vc : Controller) : Acts s (overvoltageWithdraw (fastOpen inService { s with vc := vc })) :=
    (Acts.trans (t := { s with vc := vc }) (ControlOnly.acts rfl) (fastOpen_acts ..)).trans
      (overvoltageWithdraw_control _).acts
  unfold fastOvTest
  split
  · split
    · split
      · exact hopen _
      · exact ControlOnly.acts rfl
    · split
      · exact hopen _
      · exact (ControlOnly.trans (t := { s with vc.fovRep := s.vc.fovRep + 1 }) rfl (overvoltageWithdraw_control _)).acts
  · exact ControlOnly.acts rfl

theorem raiseWalk_acts (l : List StageId) (s : State) : Acts s (raiseWalk l s).1 := by
  induction l generalizing s with
  | nil => exact .refl s
  | cons k rest ih =>
    unfold raiseWalk
    dsimp only
    split
    · exact prune_acts ..
    · exact (prune_acts ..).trans (ih _)

theorem propose_control (dir : Direction) (k : StageId) (s : State) : ControlOnly s (propose dir k s) :=
  ControlOnly.trans (controlOnly_of s _ _ { s.lc with intentSlot := _ } s.oi) (refreshAccess_control _)

theorem demandRaise_acts (s : State) : Acts s (demandRaise s) := by
  have hwalk := raiseWalk_acts (unblocked s s.ready) s
  unfold demandRaise
  split
  next k r heq =>
    rw [heq] at hwalk
    split
    · exact hwalk.trans (Acts.trans (t := enterExecuting k .close 0 _) (ControlOnly.acts rfl) (issueClose_acts ..))
    · exact hwalk.trans (propose_control ..).acts
  next heq =>
    rw [heq] at hwalk
    exact hwalk.trans (ControlOnly.acts rfl)
  next heq =>
    rw [heq] at hwalk
    exact hwalk.trans (ControlOnly.acts rfl)

theorem demandLower_acts (s : State) : Acts s (demandLower s) := by
  unfold demandLower
  split
  next k _ _ =>
    split
    · split
      · exact Acts.trans (t := enterExecuting k .opening 0 s) (ControlOnly.acts rfl) (actOpen_acts ..)
      · exact ControlOnly.acts rfl
    · exact (propose_control ..).acts
  next => exact ControlOnly.acts rfl

theorem demand_acts (s : State) : Acts s (demand s) := by
  unfold demand
  split
  · split
    · exact ControlOnly.acts rfl
    · split
      · exact ControlOnly.acts rfl
      · exact demandRaise_acts s
  · split
    · split
      · exact ControlOnly.acts rfl
      · exact demandLower_acts s
    · exact ControlOnly.acts rfl

theorem accumulate_acts (s : State) : Acts s (accumulate s) := by
  unfold accumulate
  split
  · generalize updateAccumulators s.settings s.store.vctl s.vc.low s.vc.high = p
    obtain ⟨low, high⟩ := p
    exact Acts.trans (t := { s with vc := { s.vc with low := low, high := high } }) (ControlOnly.acts rfl)
      (demand_acts _)
  · exact .refl s

/-- A change of the monitor's counts alone, its alarms as they were. -/
theorem counts_acts (s : State) (hm : Monitor) (hh : hm.alarm = s.hm.alarm) : Acts s { s with hm := hm } :=
  .other ⟨⟨.inr ⟨rfl, rfl, alarmDue_congr hh rfl (fun _ => rfl) rfl rfl rfl, rfl⟩, rfl, rfl, rfl, .inl⟩, rfl⟩

theorem shedTest_acts (inService : List StageId) (s : State) : Acts s (shedTest inService s) := by
  unfold shedTest
  dsimp only
  split
  · split
    · refine Acts.trans (counts_acts s { s.hm with slots := _ } ?_) (requestOpen_acts ..)
      exact alarm_of_slots s.hm _ _ (fun q a => by split <;> rfl) s.hm.thdRun
    · exact .refl s
  · exact .refl s

/-- R103: the notice judges the outputs when the monitor's alarm has changed. -/
theorem harmonicNotice_judges (s : State) (hm : Monitor) :
    Judges s (harmonicNotice s.harmAlarm { s with hm := hm }) := by
  unfold harmonicNotice
  split
  next h => exact .inr ⟨rfl, rfl, alarmDue_congr h rfl (fun _ => rfl) rfl rfl rfl, rfl⟩
  next => exact .inl ⟨rfl, rfl⟩

theorem harmonicNotice_acts (s : State) (hm : Monitor) : Acts s (harmonicNotice s.harmAlarm { s with hm := hm }) := by
  have hjudges := harmonicNotice_judges s hm
  have hcontrol := trigger_control { s with hm := hm }
  unfold harmonicNotice at *
  split at hjudges
  next h => exact if_pos h ▸ .other ⟨⟨hjudges, rfl, rfl, rfl, .inl⟩, rfl⟩
  next h =>
    have hbeside := hcontrol.beside
    exact if_neg h ▸ .other ⟨⟨hjudges, hbeside.pending, hbeside.phase, hbeside.working, hbeside.lost⟩, hbeside.stages⟩

theorem shedStep_alarm (delay : Nat) (permitted : Bool) (slot : Slot) (a : SlotAlarm) :
    (shedStep delay permitted slot a).alarm = a.alarm := by
  unfold shedStep
  split
  · rfl
  · split <;> rfl

/-- R112: the shed counts after step 2 of the monitor's cycle. -/
def shedCounted (s : State) : State :=
  { s with hm.slots := Six.zipWith (shedStep s.settings.shedDelay s.permitted) s.settings.slots s.hm.slots }

theorem shedCounted_acts (s : State) : Acts s (shedCounted s) :=
  counts_acts s _ (alarm_of_slots s.hm _ _ (shedStep_alarm _ _) s.hm.thdRun)

theorem monitorCycle_acts (x : Snapshot) (s : State) : Acts s (monitorCycle x s) := by
  unfold monitorCycle
  split
  · exact .refl s
  · exact ((harmonicNotice_acts s _).trans (shedCounted_acts _)).trans (shedTest_acts ..)

/-- R122: the notice judges the outputs when the station alarm has changed. -/
theorem unbalanceNotice_judges {s t : State} (hhm : t.hm = s.hm) (hstages : t.stages = s.stages)
    (hsettings : t.settings = s.settings) (hlost : t.port.lost = s.port.lost) (hphase : t.phase = s.phase)
    (hout : t.alarm = s.alarm ∧ t.healthy = s.healthy) : Judges s (unbalanceNotice s.unbAlarm t) := by
  unfold unbalanceNotice
  split
  next h =>
    refine .inr ⟨hout.1, hout.2, alarmDue_congr (by rw [hhm]) h (fun k => by rw [State.stage, hstages]; rfl) hsettings
      hlost hphase, ?_⟩
    simp only [State.healthyDue, State.fallback, hlost, hphase]
  next => exact .inl ⟨rfl, rfl⟩

/-- What the settling of a capture and its abandonment change beside the relay. -/
theorem settleCapture_control (s : State) (trips : StageId → Option Cause) :
    ∃ ur, ControlOnly { s with ur := ur } (settleCapture s trips) := by
  unfold settleCapture abandonCapture
  split
  · exact ⟨s.ur, rfl⟩
  next c _ =>
    split
    · split
      · split
        · exact ⟨{ s.ur with capture := none }, captureEnded_control ..⟩
        · exact ⟨s.ur, rfl⟩
      · exact ⟨s.ur, rfl⟩
    · split
      · exact ⟨{ (s.modEntry c.stage (RelayEntry.install c)).ur with capture := none }, captureEnded_control ..⟩
      · exact ⟨s.ur, rfl⟩

theorem unbalanceNotice_control (b : Bool) (s : State) : (unbalanceNotice b s).stages = s.stages := by
  unfold unbalanceNotice
  split
  · rfl
  · exact (trigger_control s).stages

theorem relayJudge_acts (s : State) : Acts s (relayJudge s) := by
  obtain ⟨ur, hur⟩ := settleCapture_control
    { s with ur := ⟨.ofFn fun k => (relayEntry s k).1, captureStep s.store s.ur⟩ } fun k => (relayEntry s k).2
  have hframe := relayJudge_frame s
  refine .other ⟨⟨?_, hframe.pending, hframe.phase, by rw [hframe.port], fun hl => .inl (by rwa [hframe.port])⟩, hframe.stages⟩
  refine unbalanceNotice_judges hur.hm hur.stages ?_ ?_ ?_ ⟨hur.alarm, hur.healthy⟩ <;> rw [hur]

theorem sendTrips_acts (trips : Four (Option Cause)) (s : State) : Acts s (sendTrips trips s) := by
  refine .foldl (fun t k => ?_) _ s
  split
  · exact requestTrip_acts ..
  · exact .refl t

theorem evaluateBlock_acts (x : Snapshot) (s : State) (b : CycleBlock) : Acts s (evaluateBlock x s b) := by
  cases b with
  | voltage => exact ((deadLineTest_acts ..).trans (fastOvTest_acts ..)).trans (accumulate_acts _)
  | harmonic => exact monitorCycle_acts ..
  | unbalance => exact sendTrips_acts ..

theorem evaluate_acts (order : CycleOrder) (s : State) : Acts s (evaluate order s) :=
  (relayJudge_acts s).trans (.foldl (evaluateBlock_acts _) _ _)

/-- A change of the port and the store that leaves the validity mark. -/
theorem port_acts (s : State) (store : Store) (port : Port) (hlost : port.lost = s.port.lost)
    (hworking : port.working = s.port.working) : Acts s { s with store := store, port := port } :=
  .other ⟨⟨.inr ⟨rfl, rfl, alarmDue_congr rfl rfl (fun _ => rfl) rfl hlost rfl, by
    simp only [State.healthyDue, State.fallback, hlost]⟩, rfl, rfl, hworking, fun hl => .inl (hlost.trans hl)⟩, rfl⟩

theorem declareLost_beside (s : State) : Beside s (declareLost s) := by
  have hcause := addCause_control .measLost { s with port.lost := true, port.recovery := 0 }
  have hframe := (declareLost_frame s)
  refine ⟨⟨.inl ⟨rfl, rfl⟩, hframe.pending, hframe.phase, hframe.portWorking, fun _ => .inl ?_⟩, ?_⟩
  · unfold declareLost controllerLost
    dsimp only
    show (relayLost _).port.lost = true
    rw [(relayLost_frame _).port]
    exact congrArg Port.lost hcause.port
  · unfold declareLost controllerLost
    dsimp only
    exact ((relayLost_frame _).stages).trans hcause.stages

theorem declareRecovered_acts {s : State} (hw : s.port.working = true) : Acts s (declareRecovered s) := by
  have hcause := removeCause_control .measLost { s with port.lost := false, port.recovery := 0 }
  exact .other ⟨⟨.inl ⟨rfl, rfl⟩, hcause.pending, hcause.phase, hcause.beside.working, fun _ => .inr hw⟩, hcause.stages⟩

theorem acceptCycle_acts (order : CycleOrder) (r : Run) {s : State} (hw : s.port.working = true) :
    Acts s (acceptCycle order r s) := by
  have hstored : Acts s { s with store := computeStore s.settings r.sets r.clipped, port.discards := 0 } :=
    port_acts s _ _ rfl rfl
  unfold acceptCycle
  dsimp only
  split
  · split
    · exact (hstored.trans (declareRecovered_acts hw)).trans (evaluate_acts ..)
    · exact port_acts s _ _ rfl rfl
  · exact hstored.trans (evaluate_acts ..)

theorem discardCycle_acts (s : State) : Acts s (discardCycle s) := by
  unfold discardCycle
  extract_lets n
  split
  · exact port_acts s s.store _ rfl rfl
  · split
    · exact Acts.trans (port_acts s s.store { s.port with discards := n } rfl rfl) (.other (declareLost_beside _))
    · exact port_acts s s.store _ rfl rfl

theorem markedSet_acts (w : SampleSet) (order : CycleOrder) {s : State} (hw : s.port.working = true) :
    Acts s (markedSet w order s) := by
  have hrun : Acts s { s with
      port.run := some (newRun s.settings w), port.markTimer := some (markTimeout s.strap) } :=
    port_acts s s.store _ rfl rfl
  unfold markedSet
  dsimp only
  split
  · exact hrun
  · split
    · exact hrun.trans (acceptCycle_acts _ _ hw)
    · exact hrun.trans (discardCycle_acts _)

end Sys2Proof.Machine
end

/-! ### What a frame changes -/

section
namespace Sys2Proof.Machine

/-- Of the state only the Peer View, carrier detect and what acts on control, the line and the orders change have
changed. -/
def LineOnly (s t : State) : Prop :=
  t = { s with carrier := t.carrier, vc := t.vc, ix := t.ix, lc := t.lc, oi := t.oi, pv := t.pv }

theorem LineOnly.refl (s : State) : LineOnly s s := rfl

theorem LineOnly.trans {s t u : State} (h : LineOnly s t) (h' : LineOnly t u) : LineOnly s u := by
  unfold LineOnly at *
  rw [h'] at *
  rw [h]

theorem ControlOnly.line {s t : State} (h : ControlOnly s t) : LineOnly s t := by
  unfold LineOnly ControlOnly at *
  rw [h]

theorem LineOnly.acts {s t : State} (h : LineOnly s t) : Acts s t :=
  .other ⟨⟨.inr ⟨by rw [h], by rw [h], by rw [h]; rfl, by rw [h]; rfl⟩, by rw [h], by rw [h], by rw [h],
    fun hl => .inl (by rw [h]; exact hl)⟩, by rw [h]⟩

theorem numberClash_line (s : State) : LineOnly s (numberClash s) := by
  unfold numberClash triggerIf
  split
  · refine LineOnly.trans (t := { s with pv := { s.pv with clash := _ }, lc := { s.lc with stats := _ } }) rfl ?_
    exact (trigger_control _).line
  · rfl

theorem judgeYard_line (f : Frame) (s : State) : LineOnly s (judgeYard f s).1 := by
  unfold judgeYard
  split
  · exact numberClash_line s
  · dsimp only
    split
    · split <;> rfl
    · split
      · split <;> rfl
      · split <;> rfl

theorem judgePanel_line (f : Frame) (s : State) : LineOnly s (judgePanel f s).1 := by
  unfold judgePanel
  dsimp only
  split <;> rfl

theorem enterPeer_line (e : Peer) (s : State) : LineOnly s (enterPeer e s) := by
  unfold enterPeer
  split
  · rfl
  · split <;> rfl

theorem takeBulletin_line (f : Frame) (s : State) : LineOnly s (takeBulletin f s) := by
  unfold takeBulletin
  dsimp only
  split
  · rfl
  · exact enterPeer_line ..

theorem entryOutcome_line (f : Frame) (s : State) : LineOnly s (entryOutcome f s) := by
  unfold entryOutcome
  dsimp only
  split
  · rfl
  · exact enterPeer_line ..

theorem settleHeard_line (sender number : Nat) (s : State) : LineOnly s (settleHeard sender number s) :=
  by unfold settleHeard; split <;> rfl

theorem peerOutcome_line (result : Nat) (dir : Direction) (position : Nat) (s : State) :
    LineOnly s (peerOutcome result dir position s) := by
  have hsettle : ControlOnly s { s with vc.peerSettle := some (ofSeconds s.settings.peerSettle) } := rfl
  unfold peerOutcome
  dsimp only
  split
  · split
    · rfl
    · split
      · split
        · exact (hsettle.trans (withdraw_control ..)).line
        · exact hsettle.line
      · exact hsettle.line
    · exact hsettle.line
  · rfl

theorem takeOutcome_line (f : Frame) (s : State) : LineOnly s (takeOutcome f s) :=
  ((entryOutcome_line f s).trans (settleHeard_line ..)).trans (peerOutcome_line ..)

theorem judgePrecedence_line (h : Heard) (s : State) : LineOnly s (judgePrecedence h s) := by
  unfold judgePrecedence
  split
  · rfl
  · split
    · exact (withdraw_control ..).line
    · rfl

theorem takeIntent_line (f : Frame) (s : State) : LineOnly s (takeIntent f s) := by
  unfold takeIntent
  dsimp only
  split
  · rfl
  · exact LineOnly.trans (t := { s with pv := _ }) rfl (judgePrecedence_line ..)

section Taking

variable {R : State → State → Prop} (hline : ∀ {s t}, LineOnly s t → R s t)
  (htrans : ∀ {s t u}, R s t → R t u → R s u)
include hline htrans

theorem takeHead_rel (w : Taken) {act : Frame → State → State} (hact : ∀ f s, R s (act f s)) (s : State) :
    R s (takeHead w act s) := by
  unfold takeHead
  split
  · exact htrans (hact ..) (hline rfl)
  · exact hline rfl

/-- What an order's effect keeps, its frame keeps. -/
theorem takePanel_rel {serve : Order → State → State} (hserve : ∀ o s, R s (serve o s)) (f : Frame) (s : State) :
    R s (takePanel serve f s) := by
  have hjudged := judgePanel_line f s
  unfold takePanel
  split
  next s1 heq =>
    rw [heq] at hjudged
    refine htrans (hline hjudged) ?_
    unfold judgeOrder
    split
    · split
      · split
        · exact hserve ..
        · exact hline (refuseOrder_control ..).line
      · exact hline (refuseOrder_control ..).line
    · exact hline rfl
  next s1 heq =>
    rw [heq] at hjudged
    exact hline hjudged

theorem takeOrder_rel (code : Nat) {serve : Order → State → State} (hserve : ∀ o s, R s (serve o s)) (s : State) :
    R s (takeOrder code serve s) :=
  takeHead_rel hline htrans _ (takePanel_rel hline htrans hserve) s

end Taking

theorem takeYard_line {take : Frame → State → State} (htake : ∀ f s, LineOnly s (take f s)) (f : Frame) (s : State) :
    LineOnly s (takeYard take f s) := by
  have hjudged := judgeYard_line f s
  unfold takeYard
  split
  next s1 heq =>
    rw [heq] at hjudged
    exact hjudged.trans (htake ..)
  next s1 heq =>
    rw [heq] at hjudged
    exact hjudged

theorem takeNothing_line (f : Frame) (s : State) : LineOnly s (takeNothing f s) := by
  unfold takeNothing
  split
  · exact judgeYard_line f s
  · exact judgePanel_line f s

theorem takeHead_line (w : Taken) {act : Frame → State → State} (hact : ∀ f s, LineOnly s (act f s)) (s : State) :
    LineOnly s (takeHead w act s) :=
  takeHead_rel id LineOnly.trans w hact s

theorem takeOrder_acts (code : Nat) {serve : Order → State → State} (hserve : ∀ o s, Acts s (serve o s)) (s : State) :
    Acts s (takeOrder code serve s) :=
  takeOrder_rel LineOnly.acts Acts.trans code hserve s

theorem takeOrder_line (code : Nat) {serve : Order → State → State} (hserve : ∀ o s, LineOnly s (serve o s)) (s : State) :
    LineOnly s (takeOrder code serve s) :=
  takeOrder_rel id LineOnly.trans code hserve s

/-! ### What each command does to the latches and the status outputs -/

theorem endQuiet_line (s : State) : LineOnly s (endQuiet s) := by
  unfold endQuiet
  split <;> rfl

theorem serveMode_line (o : Order) (s : State) : LineOnly s (serveMode o s) :=
  ((setMode_control ..).trans (writeOrder_control ..)).line

theorem serveBlock_acts (member : Bool) (o : Order) (s : State) : Acts s (serveBlock member o s) :=
  Acts.trans (t := maskBlock s (byteAt o.arg 0) member) (.other ⟨⟨.inr ⟨rfl, rfl, rfl, rfl⟩, rfl, rfl, rfl, .inl⟩, rfl⟩)
    (writeOrder_control ..).acts

theorem openCapture_acts (s : State) (c : Option Capture) : Acts s { s with ur.capture := c } :=
  .other ⟨⟨.inr ⟨rfl, rfl, rfl, rfl⟩, rfl, rfl, rfl, .inl⟩, rfl⟩

theorem serveCapture_acts (o : Order) (s : State) : Acts s (serveCapture o s) := by
  unfold serveCapture
  split
  · exact (refuseOrder_control ..).acts
  · split
    · exact (openCapture_acts s _).trans (writeOrder_control ..).acts
    · exact .refl s

theorem placeDetail_control (page panel : Nat) (s : State) : ControlOnly s (placeDetail page panel s) :=
  (controlOnly_of s s.vc s.ix { s.lc with detailSlot := some (page, panel) } s.oi).trans (refreshAccess_control _)

theorem serveReport_line (o : Order) (s : State) : LineOnly s (serveReport o s) :=
  ((placeDetail_control ..).trans (writeOrder_control ..)).line

theorem serveSequence_line (o : Order) (s : State) : LineOnly s (serveSequence o s) := by
  unfold serveSequence
  split
  · exact (refuseOrder_control ..).line
  · exact (((controlOnly_of s s.vc s.ix s.lc { s.oi with chain := some _ }).trans (addCause_control ..)).trans
      (writeOrder_control ..)).line

theorem serveStop_line (o : Order) (s : State) : LineOnly s (serveStop o s) := by
  unfold serveStop
  split
  · exact (endChain_control ..).line
  · exact (refuseOrder_control ..).line

/-- R70: a reset clears its stage's latch; the status outputs are judged all the same. -/
theorem resetStage_status (k : StageId) (s : State) : StatusStep s (resetStage k s) := by
  unfold resetStage
  exact ((record_status rfl).trans (changeStage_status ..)).trans (takePosition_acts ..).status

theorem serveReset_status (o : Order) (s : State) : StatusStep s (serveReset o s) := by
  unfold serveReset
  split
  · exact (refuseOrder_control ..).acts.status
  · split
    · exact (resetStage_status ..).trans (writeOrder_control ..).acts.status
    · exact (Acts.refl s).status

theorem arm_line (s : State) : LineOnly s (arm s) :=
  (ControlOnly.trans (t := { s with lc.armed := true }) rfl (refreshAccess_control _)).line

theorem countBusy_control (s : State) : ControlOnly s (countBusy s) := rfl

/-- The commands of the controller's timers, of the Peer View and of the line, and the orders that switch nothing. -/
def Instr.lineOnly : Instr → Bool
  | .listenInExpiry | .stationSettleExpiry | .peerSettleExpiry | .frameCompletion | .bulletinArrival | .outcomeArrival
  | .intentArrival | .detailArrival | .formatDiscard | .peerStale _ | .peerRemoval _ | .heardIntentExpiry _
  | .numberClashExpiry | .queueTimeExpiry | .mediumIdle | .carrierDetectChange _ | .transmissionStart
  | .transmissionEnd | .bulletinPeriodExpiry | .triggerDelayExpiry | .bulletinSpacingExpiry | .orderMode
  | .orderStopSequence | .orderReport | .startEdge | .characterEnd _ | .frameArrival | .badOrder => true
  | _ => false

theorem runCommand_line {c : Instr} (hc : Instr.lineOnly c = true) (s : State) : LineOnly s (runCommand c s) := by
  have hrefl := LineOnly.refl s
  cases c with
  | listenInExpiry =>
    exact guarded hrefl fun _ =>
      (ControlOnly.trans (t := { s with vc.listenIn := none }) rfl (removeCause_control ..)).line
  | stationSettleExpiry =>
    exact guarded hrefl fun _ => LineOnly.trans (t := { s with vc.stationSettle := none }) rfl (endQuiet_line _)
  | peerSettleExpiry =>
    exact guarded hrefl fun _ => LineOnly.trans (t := { s with vc.peerSettle := none }) rfl (endQuiet_line _)
  | frameCompletion =>
    show LineOnly s (match s.lc.rx.frame with
      | some a => if s.receiving && !s.lc.rx.character then _ else s | none => s)
    split
    · exact guarded hrefl fun _ => rfl
    · exact hrefl
  | bulletinArrival => exact takeHead_line _ (takeYard_line takeBulletin_line) s
  | outcomeArrival => exact takeHead_line _ (takeYard_line takeOutcome_line) s
  | intentArrival => exact takeHead_line _ (takeYard_line takeIntent_line) s
  | detailArrival => exact takeHead_line _ (takeYard_line (take := takeDetail) fun _ _ => rfl) s
  | formatDiscard => exact guarded hrefl fun _ => rfl
  | peerStale station => rfl
  | peerRemoval station =>
    show LineOnly s (match findPeer station.toNat s.pv.entries with
      | some e => if removalAge e.period ≤ e.ageMs then _ else s | none => s)
    split
    · exact guarded hrefl fun _ => rfl
    · exact hrefl
  | heardIntentExpiry sender => rfl
  | numberClashExpiry =>
    exact guarded hrefl fun _ => LineOnly.trans (t := { s with pv.clash := none }) rfl (trigger_control _).line
  | queueTimeExpiry =>
    show LineOnly s (match s.ix.own with
      | some i => if unsent i then countBusy (withdraw .channelBusy s) else s | none => s)
    split
    · exact guarded hrefl fun _ => ((withdraw_control .channelBusy s).trans (countBusy_control _)).line
    · exact hrefl
  | mediumIdle => exact guarded hrefl fun _ => rfl
  | carrierDetectChange active =>
    show LineOnly s (if active then _ else _)
    split <;> rfl
  | transmissionStart =>
    refine guarded hrefl fun _ => ?_
    unfold startTransmission
    split <;> rfl
  | transmissionEnd =>
    exact guarded hrefl fun _ => (ControlOnly.trans (t := { s with
      lc := { s.lc with access := .noAttempt, rx := .start }, ix.own := startHoldOff s.ix.own }) rfl
      (refreshAccess_control _)).line
  | bulletinPeriodExpiry =>
    exact guarded hrefl fun _ => LineOnly.trans (t := { s with lc.periodTimer := none }) rfl (arm_line _)
  | triggerDelayExpiry =>
    exact guarded hrefl fun _ => LineOnly.trans (t := { s with lc.triggerDelay := none }) rfl (arm_line _)
  | bulletinSpacingExpiry =>
    exact guarded hrefl fun _ => (ControlOnly.trans (t := { s with lc.spacing := none }) rfl (refreshAccess_control _)).line
  | orderMode => exact takeOrder_line 3 serveMode_line s
  | orderStopSequence => exact takeOrder_line 9 serveStop_line s
  | orderReport => exact takeOrder_line 10 serveReport_line s
  | startEdge => exact guarded hrefl fun _ => rfl
  | characterEnd samples =>
    refine guarded hrefl fun _ => ?_
    split <;> rfl
  | frameArrival => exact takeHead_line _ takeNothing_line s
  | badOrder =>
    exact takeHead_line _ (takePanel_rel (R := LineOnly) id LineOnly.trans (serve := fun _ s => s) fun _ _ => rfl) s
  | _ => cases hc

/-- The commands of the start, of FALLBACK and of the probe, which write the stage records as a whole. -/
def Instr.starts : Instr → Bool
  | .powerOn _ | .externalReset | .resetRelease _ | .imageCheck _ | .imageReadTimeout | .fallbackPulseEnd
  | .presenceProbeEnd => true
  | _ => false

theorem runCommand_acts {c : Instr} (hc : Instr.starts c = false) (hr : c ≠ .orderResetStage) (s : State) :
    Acts s (runCommand c s) := by
  have hrefl := Acts.refl s
  cases c with
  | powerOn | externalReset | resetRelease | imageCheck | imageReadTimeout | fallbackPulseEnd | presenceProbeEnd => cases hc
  | orderResetStage => exact absurd rfl hr
  | sampleSet words => exact guarded hrefl fun _ => port_acts s s.store _ rfl rfl
  | cycleCompletion words order =>
    exact guarded hrefl fun hw => (markedSet_acts words order hw).trans (settleDue_acts _)
  | markTimeout =>
    refine guarded hrefl fun _ => ?_
    split
    · exact port_acts s s.store _ rfl rfl
    · exact (port_acts s s.store { s.port with markTimer := none } rfl rfl).trans (.other (declareLost_beside _))
  | contactChange changed =>
    have hinputs : Acts s (takeInputs changed s) := .other ⟨⟨.inr ⟨rfl, rfl, rfl, rfl⟩, rfl, rfl, rfl, .inl⟩, rfl⟩
    exact guarded hrefl fun _ => (hinputs.trans (contactChange_acts changed s)).trans (settleDue_acts _)
  | pulseEnd k => exact endPulse_acts k s
  | closeWindowExpiry k => exact (closeWindow_acts k s).trans (settleDue_acts _)
  | openWindowExpiry k => exact (openWindow_acts k s).trans (settleDue_acts _)
  | discrepancyExpiry k => exact expireDiscrepancy_acts k s
  | dischargeEnd k => exact (endDischarge_acts k s).trans (settleDue_acts _)
  | minutePruning => exact .foldl (fun s k => prune_acts k s) _ s
  | holdOffExpiry => exact (expireHoldOff_acts s).trans (settleDue_acts _)
  | orderClose => exact takeOrder_acts 1 (serveOrderSwitch_acts _) s
  | orderOpen => exact takeOrder_acts 2 (serveOrderSwitch_acts _) s
  | orderBlockSet => exact takeOrder_acts 4 (serveBlock_acts true) s
  | orderBlockClear => exact takeOrder_acts 5 (serveBlock_acts false) s
  | orderCaptureNull => exact takeOrder_acts 7 serveCapture_acts s
  | orderSequence => exact (takeOrder_line 8 serveSequence_line s).acts.trans (settleDue_acts _)
  | chainStep => exact (chainStep_acts s).trans (settleDue_acts _)
  | _ => exact (runCommand_line rfl s).acts

/-- What a command that does not start the part does to the status outputs. -/
theorem runCommand_status {c : Instr} (hc : Instr.starts c = false) (s : State) : StatusStep s (runCommand c s) := by
  by_cases hr : c = .orderResetStage
  · subst hr
    exact (takeOrder_rel (fun h => (LineOnly.acts h).status) StatusStep.trans 6 serveReset_status s).trans
      (settleDue_acts _).status
  · exact (runCommand_acts hc hr s).status

/-! ### The commands of the start -/

theorem arm_stages (s : State) : (arm s).stages = s.stages := by rw [arm_line s]

/-- R196, R199, R200: the end of the start leaves the latches. -/
theorem startCommand_latch {c : Instr} (hc : Instr.starts c = true) {s : State} {k : StageId}
    (hk : (s.stage k).tripLatch = true) :
    ((runCommand c s).stage k).tripLatch = true ∨ c = .externalReset ∨ (∃ x, c = .powerOn x) ∨ ∃ x, c = .resetRelease x := by
  have hmap (f : Stage → Stage) (hf : (f (s.stage k)).tripLatch = (s.stage k).tripLatch) {t : State}
      (ht : t.stages = .ofFn fun k => f (s.stages.get k)) : (t.stage k).tripLatch = true := by
    rw [State.stage, ht, Four.get_ofFn]
    exact hf.trans hk
  have hfallback : ((enterFallback s).stage k).tripLatch = true :=
    hmap (fun r => { r with openOut := true, closeOut := false }) rfl rfl
  cases c with
  | powerOn strap => exact .inr (.inr (.inl ⟨strap, rfl⟩))
  | externalReset => exact .inr (.inl rfl)
  | resetRelease strap => exact .inr (.inr (.inr ⟨strap, rfl⟩))
  | imageCheck image =>
    refine .inl (guarded (P := fun t => (t.stage k).tripLatch = true) hk fun _ => ?_)
    split
    · exact hk
    · exact hfallback
  | imageReadTimeout => exact .inl (guarded (P := fun t => (t.stage k).tripLatch = true) hk fun _ => hfallback)
  | fallbackPulseEnd =>
    exact .inl (guarded (P := fun t => (t.stage k).tripLatch = true) hk fun _ =>
      hmap (fun r => { r with openOut := false }) rfl rfl)
  | presenceProbeEnd =>
    refine .inl ?_
    show ((match s.phase with | .probing _ => endProbe s | _ => s).stage k).tripLatch = true
    split
    · unfold endProbe
      rw [State.stage, arm_stages, Four.get_ofFn]
      split <;> exact hk
    · exact hk
  | _ => cases hc

theorem StatusFollows.step {s t : State} (hs : StatusFollows s) (h : StatusStep s t) (hquiet : s.phase = .held ∨
    (∃ n, s.phase = .reading n) → t.alarm = s.alarm ∧ t.healthy = s.healthy) : StatusFollows t where
  judged hp := h.judges.follow (hs.judged (h.phase ▸ hp))
  off hp := by
    rw [h.phase] at hp
    rw [(hquiet hp).1, (hquiet hp).2]
    exact hs.off hp
  lost hp := by
    rw [h.phase] at hp
    exact (h.lost (hs.lost hp)).elim id fun hw => absurd (hs.working hw) hp
  working hw := h.phase.trans (hs.working (h.working ▸ hw))

end Sys2Proof.Machine
end

/-! ### Before the end of the image check nothing judges the status outputs -/

section
namespace Sys2Proof.Machine

/-- Every stage is at its starting state, as it is before the end of the presence probe (R25). -/
def Dormant (s : State) : Prop := ∀ k, (s.stage k).state = .absent

/-- The status outputs and the stage states are as they were. -/
structure Asleep (s t : State) : Prop where
  outputs : t.alarm = s.alarm ∧ t.healthy = s.healthy
  states : ∀ k, (t.stage k).state = (s.stage k).state

theorem Asleep.refl (s : State) : Asleep s s := ⟨⟨rfl, rfl⟩, fun _ => rfl⟩

theorem Asleep.trans {s t u : State} (h : Asleep s t) (h' : Asleep t u) : Asleep s u :=
  ⟨⟨h'.outputs.1.trans h.outputs.1, h'.outputs.2.trans h.outputs.2⟩, fun k => (h'.states k).trans (h.states k)⟩

theorem Asleep.dormant {s t : State} (h : Asleep s t) (hs : Dormant s) : Dormant t := fun k => (h.states k).trans (hs k)

theorem LineOnly.asleep {s t : State} (h : LineOnly s t) : Asleep s t :=
  ⟨⟨by rw [h], by rw [h]⟩, fun k => by rw [h]; rfl⟩

theorem record_asleep {s : State} {k : StageId} {f : Stage → Stage} (hf : (f (s.stage k)).state = (s.stage k).state) :
    Asleep s (s.modStage k f) :=
  ⟨⟨rfl, rfl⟩, modStage_states hf⟩

theorem foldl_asleep {α : Type} {f : State → α → State} (hf : ∀ s a, Asleep s (f s a)) (l : List α) (s : State) :
    Asleep s (l.foldl f s) := by
  induction l generalizing s with
  | nil => exact .refl s
  | cons a l ih => exact (hf s a).trans (ih _)

/-- R69: no stage that stands ABSENT is reset. -/
theorem resetRefusal_dormant {s : State} (hs : Dormant s) (n : Nat) : resetRefusal s n ≠ none := by
  unfold resetRefusal
  split
  · simp
  · simp [hs _]

theorem closeTest_dormant {s : State} (hs : Dormant s) (n : Nat) (cause : Cause) (intent : Nat) :
    closeTest s n cause intent ≠ none := by
  intro h
  obtain ⟨k, -, hpass⟩ := closeTest_none h
  have := hpass.ready
  rw [hs k] at this
  cases this

theorem openRefusal_dormant {s : State} (hs : Dormant s) (n : Nat) (cause : Cause) : openRefusal s n cause ≠ none := by
  unfold openRefusal
  split
  · simp
  next k _ =>
    dsimp only
    rw [if_pos (hs k)]
    split
    · simp
    · split <;> simp

theorem requestRefusal_dormant {s : State} (hs : Dormant s) (dir : Direction) (n : Nat) (cause : Cause) :
    requestRefusal s dir n cause ≠ none := by
  cases dir with
  | close => exact closeTest_dormant hs n cause 0
  | opening => exact openRefusal_dormant hs n cause

theorem pruneFor_asleep (s : State) (n : Nat) : Asleep s (pruneFor s n) := by
  unfold pruneFor
  split
  · exact record_asleep rfl
  · exact .refl s

theorem pruneRequest_asleep (s : State) (dir : Direction) (n : Nat) : Asleep s (pruneRequest s dir n) := by
  unfold pruneRequest
  split
  · exact pruneFor_asleep ..
  · exact .refl s

theorem serveSwitch_asleep (dir : Direction) (n : Nat) (cause : Cause) {refused : Reason → State → State}
    (accepted : StageId → State → State) {s : State} (hs : Dormant s) (hr : ∀ r t, ControlOnly t (refused r t)) :
    Asleep s (serveSwitch dir n cause refused accepted s) := by
  have hprune := pruneRequest_asleep s dir n
  unfold serveSwitch
  split
  · exact (hr _ s).line.asleep
  · dsimp only
    split
    · exact hprune.trans (hr ..).line.asleep
    next h => exact absurd h (requestRefusal_dormant (hprune.dormant hs) _ _ _)

theorem serveStep_asleep {s : State} (hs : Dormant s) : Asleep s (serveStep s) := by
  unfold serveStep
  split
  · exact .refl s
  · split
    · exact .refl s
    · split
      · exact .refl s
      · exact serveSwitch_asleep _ _ _ _ hs fun _ _ => endChain_control ..

theorem serveDue_asleep (n : Nat) {s : State} (hs : Dormant s) : Asleep s (serveDue n s) := by
  induction n generalizing s with
  | zero => exact .refl s
  | succ n ih =>
    have hstep := serveStep_asleep hs
    exact guarded (P := Asleep s) (.refl s) fun _ => hstep.trans (ih (hstep.dormant hs))

theorem Asleep.settled {s t : State} (h : Asleep s t) (hs : Dormant s) : Asleep s (settleDue t) :=
  h.trans (serveDue_asleep 6 (h.dormant hs))

theorem chainStep_asleep {s : State} (hs : Dormant s) : Asleep s (chainStep s) := by
  unfold chainStep
  split
  next c _ =>
    split
    · exact .refl s
    · have hset : Asleep s { s with oi.chain := some { c with delay := 0 } } := LineOnly.asleep rfl
      exact hset.trans (serveStep_asleep (hset.dormant hs))
  next => exact .refl s

theorem commitRefusal_dormant {s : State} (hs : Dormant s) (i : Intent) : commitRefusal s i ≠ none := by
  unfold commitRefusal
  split
  · exact closeTest_dormant hs _ _ _
  · exact openRefusal_dormant hs _ _

theorem commit_asleep (i : Intent) {s : State} (hs : Dormant s) : Asleep s (commit i s) := by
  have hset : Asleep s { s with ix.own := some { i with phase := .committed } } := LineOnly.asleep rfl
  have hpruned := hset.trans (pruneRequest_asleep _ i.dir i.stage.num)
  unfold commit
  dsimp only
  split
  · exact hpruned.trans (withdrawCommitted_control ..).line.asleep
  next h => exact absurd h (commitRefusal_dormant (hpruned.dormant hs) i)

theorem expireHoldOff_asleep {s : State} (hs : Dormant s) : Asleep s (expireHoldOff s) := by
  unfold expireHoldOff
  split
  · exact .refl s
  · split
    · exact guarded (P := Asleep s) (.refl s) fun _ => commit_asleep _ hs
    · exact .refl s

/-- What an order's effect keeps of a part whose stages are at their starting state, its frame keeps. -/
theorem takeOrder_asleep (code : Nat) {serve : Order → State → State} (hserve : ∀ o t, Dormant t → Asleep t (serve o t))
    {s : State} (hs : Dormant s) : Asleep s (takeOrder code serve s) :=
  takeOrder_rel (R := fun s t => Dormant s → Asleep s t) (fun h _ => h.asleep)
    (fun h h' hd => (h hd).trans (h' ((h hd).dormant hd))) code hserve s hs

theorem serveOrderSwitch_asleep (dir : Direction) (o : Order) {s : State} (hs : Dormant s) :
    Asleep s (serveOrderSwitch dir o s) := by
  have hwithdraw : Asleep s (if s.vc.state = .proposing then withdraw .order s else s) :=
    guarded (P := Asleep s) (.refl s) fun _ => (withdraw_control ..).line.asleep
  unfold serveOrderSwitch
  split
  · exact (refuseOrder_control ..).line.asleep
  · exact hwithdraw.trans (serveSwitch_asleep _ _ _ _ (hwithdraw.dormant hs) fun _ _ => refuseOrder_control ..)

theorem openCapture_asleep (s : State) (c : Option Capture) : Asleep s { s with ur.capture := c } :=
  ⟨⟨rfl, rfl⟩, fun _ => rfl⟩

theorem maskBlock_asleep (s : State) (mask : Nat) (member : Bool) : Asleep s (maskBlock s mask member) :=
  ⟨⟨rfl, rfl⟩, fun _ => rfl⟩

theorem serveBlock_asleep (member : Bool) (o : Order) (s : State) : Asleep s (serveBlock member o s) :=
  (maskBlock_asleep ..).trans (writeOrder_control ..).line.asleep

theorem serveCapture_asleep (o : Order) (s : State) : Asleep s (serveCapture o s) := by
  unfold serveCapture
  split
  · exact (refuseOrder_control ..).line.asleep
  · split
    · exact (openCapture_asleep s _).trans (writeOrder_control ..).line.asleep
    · exact .refl s

theorem serveReset_asleep (o : Order) {s : State} (hs : Dormant s) : Asleep s (serveReset o s) := by
  unfold serveReset
  split
  · exact (refuseOrder_control ..).line.asleep
  next h => exact absurd h (resetRefusal_dormant hs _)

theorem handBlock_asleep (s : State) : Asleep s (handBlock s) := by
  unfold handBlock
  split
  · exact (addCause_control ..).line.asleep
  · exact (removeCause_control ..).line.asleep

/-- R25: until the probe ends no position is handed on. -/
theorem handPositions_of_not_running {s t : State} (h : t.running = false) : handPositions s t = t := by
  simp [handPositions, h]

theorem contactChange_asleep (changed : BitVec 13) {s : State} (hrun : s.running = false) :
    Asleep s (contactChange changed s) := by
  have hinputs : Asleep s (takeInputs changed s) := ⟨⟨rfl, rfl⟩, fun _ => rfl⟩
  have hhand : handPositions s (takeInputs changed s) = takeInputs changed s := handPositions_of_not_running hrun
  unfold contactChange
  dsimp only
  rw [hhand]
  split
  · exact hinputs.trans (handBlock_asleep _)
  · exact hinputs

/-- R195: before the end of the image check no command but those of the start touches the status outputs. -/
theorem runCommand_asleep {c : Instr} (hc : Instr.starts c = false) {s : State} (hs : Dormant s)
    (hrun : s.running = false) (hwork : s.port.working = false) (hlost : s.port.lost = true) :
    Asleep s (runCommand c s) := by
  have hrefl := Asleep.refl s
  cases c with
  | powerOn | externalReset | resetRelease | imageCheck | imageReadTimeout | fallbackPulseEnd | presenceProbeEnd => cases hc
  | sampleSet words => exact guarded hrefl fun _ => ⟨⟨rfl, rfl⟩, fun _ => rfl⟩
  | cycleCompletion words order => exact guarded hrefl fun hw => by simp [hwork] at hw
  | markTimeout =>
    refine guarded hrefl fun _ => ?_
    rw [if_pos hlost]
    exact ⟨⟨rfl, rfl⟩, fun _ => rfl⟩
  | contactChange changed =>
    exact guarded hrefl fun _ => (contactChange_asleep changed hrun).settled hs
  | pulseEnd k => exact guarded hrefl fun _ => record_asleep rfl
  | closeWindowExpiry k =>
    have h : closeWindow k s = s := by simp [closeWindow, hs k]
    exact Asleep.settled (h.symm ▸ hrefl) hs
  | openWindowExpiry k =>
    have h : openWindow k s = s := by simp [openWindow, hs k]
    exact Asleep.settled (h.symm ▸ hrefl) hs
  | discrepancyExpiry k =>
    have h : expireDiscrepancy k s = s := by
      simp only [expireDiscrepancy, hs k]
      split <;> rfl
    show Asleep s (expireDiscrepancy k s)
    rw [h]
    exact hrefl
  | dischargeEnd k =>
    have h : endDischarge k s = s := by simp [endDischarge, hs k]
    exact Asleep.settled (h.symm ▸ hrefl) hs
  | minutePruning => exact foldl_asleep (fun _ _ => record_asleep rfl) _ s
  | holdOffExpiry => exact (expireHoldOff_asleep hs).settled hs
  | orderClose => exact takeOrder_asleep 1 (fun o _ => serveOrderSwitch_asleep _ o) hs
  | orderOpen => exact takeOrder_asleep 2 (fun o _ => serveOrderSwitch_asleep _ o) hs
  | orderBlockSet => exact takeOrder_asleep 4 (fun o t _ => serveBlock_asleep true o t) hs
  | orderBlockClear => exact takeOrder_asleep 5 (fun o t _ => serveBlock_asleep false o t) hs
  | orderResetStage => exact (takeOrder_asleep 6 (fun o _ => serveReset_asleep o) hs).settled hs
  | orderCaptureNull => exact takeOrder_asleep 7 (fun o t _ => serveCapture_asleep o t) hs
  | orderSequence => exact (takeOrder_line 8 serveSequence_line s).asleep.settled hs
  | chainStep => exact (chainStep_asleep hs).settled hs
  | _ => exact (runCommand_line rfl s).asleep

/-! ### The status outputs at every command -/

theorem cleared_follows (s : State) : StatusFollows (cleared s) :=
  ⟨fun h => by simp [cleared, State.reset] at h, fun _ => ⟨rfl, rfl⟩, fun _ => rfl, fun h => by cases h⟩

theorem beginStart_follows (strap : Strap) (s : State) : StatusFollows (beginStart strap s) :=
  ⟨fun h => by simp [beginStart] at h, fun _ => ⟨rfl, rfl⟩, fun _ => rfl, fun h => by cases h⟩

/-- R196, R199: the end of the image check judges the outputs for the first time. -/
theorem rejudge_follows {s : State} (hp : s.phase = .fallback ∨ ∃ n, s.phase = .probing n) (hl : s.port.lost = true)
    (hw : s.port.working = false) : StatusFollows (rejudge s) where
  judged _ := ⟨rfl, rfl⟩
  off h := by
    have h : s.phase = .held ∨ ∃ n, s.phase = .reading n := h
    rcases hp with hp | ⟨n, hp⟩ <;> simp [hp] at h
  lost _ := hl
  working h := by
    have h : s.port.working = true := h
    rw [hw] at h
    cases h

theorem lost_due {s : State} (h : s.port.lost = true) : s.alarmDue = true ∧ s.healthyDue = false := by
  simp [State.alarmDue, State.healthyDue, h]

theorem LineOnly.outputs {s t : State} (h : LineOnly s t) :
    t.alarm = s.alarm ∧ t.healthy = s.healthy ∧ t.phase = s.phase ∧ t.port = s.port := by
  rw [h]
  exact ⟨rfl, rfl, rfl, rfl⟩

/-- R200: at the end of the probe measurement is LOST, which turns ALARM on and HEALTHY off whatever was found. -/
theorem endProbe_follows {s : State} (hs : StatusFollows s) {n : Nat} (hp : s.phase = .probing n) :
    StatusFollows (endProbe s) := by
  have hl : s.port.lost = true := hs.lost (by simp [hp])
  obtain ⟨ha, hh⟩ := hs.judged (.inr (.inr ⟨n, hp⟩))
  obtain ⟨halarm, hhealthy, hphase, hport⟩ : (endProbe s).alarm = s.alarm ∧ (endProbe s).healthy = s.healthy ∧
      (endProbe s).phase = .running ∧ (endProbe s).port.lost = s.port.lost := by
    obtain ⟨ha, hh, hp, hport⟩ := (arm_line _).outputs
    exact ⟨ha, hh, hp, (congrArg Port.lost hport :)⟩
  have hdue := lost_due (hport.trans hl)
  have hdue0 := lost_due hl
  refine ⟨fun _ => ⟨?_, ?_⟩, fun h => by simp [hphase] at h, fun _ => hport.trans hl, fun _ => hphase⟩
  · rw [halarm, ha, hdue.1, hdue0.1]
  · rw [hhealthy, hh, hdue.2, hdue0.2]

theorem startCommand_follows {c : Instr} (hc : Instr.starts c = true) {s : State} (hs : StatusFollows s) :
    StatusFollows (runCommand c s) := by
  have hreading (h : s.isReading = true) : s.port.lost = true ∧ s.port.working = false := by
    have hp := isReading_ne h
    exact ⟨hs.lost hp, Bool.eq_false_iff.mpr fun hw => hp (hs.working hw)⟩
  have hfallback (h : s.isReading = true) : StatusFollows (enterFallback s) :=
    rejudge_follows (.inl rfl) (hreading h).1 (hreading h).2
  cases c with
  | powerOn strap =>
    show StatusFollows (if s.resetInput then cleared s else beginStart strap s)
    split
    · exact cleared_follows s
    · exact beginStart_follows strap s
  | externalReset => exact cleared_follows _
  | resetRelease strap => exact guarded hs fun _ => beginStart_follows strap _
  | imageCheck image =>
    refine guarded hs fun h => ?_
    split
    · exact rejudge_follows (.inr ⟨500, rfl⟩) (hreading h).1 (hreading h).2
    · exact hfallback h
  | imageReadTimeout => exact guarded hs hfallback
  | fallbackPulseEnd =>
    refine guarded hs fun _ => hs.step ⟨.inr ⟨rfl, rfl, alarmDue_congr rfl rfl (fun k => ?_) rfl rfl rfl, rfl⟩, rfl, rfl, rfl,
      .inl⟩ fun _ => ⟨rfl, rfl⟩
    rw [State.stage, Four.get_ofFn]
    rfl
  | presenceProbeEnd =>
    show StatusFollows (match s.phase with | .probing _ => endProbe s | _ => s)
    split
    next n hp => exact endProbe_follows hs hp
    next => exact hs
  | _ => cases hc

theorem runCommand_follows (c : Instr) {s : State} (hsafe : StagesSafe s) (hs : StatusFollows s) :
    StatusFollows (runCommand c s) := by
  cases hc : Instr.starts c with
  | true => exact startCommand_follows hc hs
  | false =>
    refine hs.step (runCommand_status hc s) fun hp => ?_
    have hne : s.phase ≠ .running := by rcases hp with hp | ⟨n, hp⟩ <;> simp [hp]
    have hwork : s.port.working = false := Bool.eq_false_iff.mpr fun hw => hne (hs.working hw)
    exact (runCommand_asleep hc (fun k => (hsafe.each k).start hne) (by simpa [State.running] using hne) hwork
      (hs.lost hne)).outputs

theorem Phase.tick_eq_running {p : Phase} : p.tick = .running ↔ p = .running := by cases p <;> simp [Phase.tick]

/-- A millisecond changes neither the outputs nor their conditions. -/
theorem advance_follows {s : State} (hs : StatusFollows s) : StatusFollows (advance s) := by
  have hstates (k : StageId) : ((advance s).stage k).state = (s.stage k).state := by rw [advance_stage]; rfl
  have hfallback : (advance s).fallback = s.fallback := by
    simp only [State.fallback, advance]
    cases s.phase <;> rfl
  have halarm : (advance s).alarmDue = s.alarmDue := by
    simp only [State.alarmDue, State.harmAlarm, State.unbAlarm, State.stageIds, hstates, hfallback]
    rfl
  have hhealthy : (advance s).healthyDue = s.healthyDue := by
    simp only [State.healthyDue, hfallback]
    rfl
  refine ⟨fun h => ?_, fun h => ?_, fun h => hs.lost fun hp => h (Phase.tick_eq_running.mpr hp),
    fun h => Phase.tick_eq_running.mpr (hs.working h)⟩
  · rw [halarm, hhealthy]
    refine hs.judged ?_
    simp only [advance] at h
    cases hp : s.phase <;> simp [hp, Phase.tick] at h ⊢
  · refine hs.off ?_
    simp only [advance] at h
    cases hp : s.phase <;> simp [hp, Phase.tick] at h ⊢

end Sys2Proof.Machine
end

section
namespace Sys2Proof.Proofs
open Machine

/-- Settles O58: no act of an event clears a latch, and of the start only a new one does. -/
theorem tripLatchHolds : Obligations.TripLatchHolds := by
  intro c s t k h hk
  rw [eq_runCommand h]
  by_cases hr : c = .orderResetStage
  · exact .inr (.inl hr)
  cases hc : Instr.starts c with
  | true => exact (startCommand_latch hc hk).imp_right .inr
  | false => exact .inl ((runCommand_acts hc hr s).latch k hk)

/-- Settles O59: the Stage Supervisor's invariant is needed for the stages being ABSENT before the probe's end. -/
theorem statusOutputsFollow : Obligations.StatusOutputsFollow := fun _ _ hsafe hs h =>
  (step_keeps (P := fun s => StagesSafe s ∧ StatusFollows s)
    (fun _ _ h => ⟨safe_of h.1 rfl rfl rfl rfl rfl, ⟨h.2.judged, h.2.off, h.2.lost, h.2.working⟩⟩)
    (fun c s h => ⟨runCommand_safe c s h.1, runCommand_follows c h.1 h.2⟩)
    (fun _ h => ⟨advance_safe h.1, advance_follows h.2⟩) ⟨hsafe, hs⟩ h).2

end Sys2Proof.Proofs
end

/-! ### The queue, the idle step and the starts -/

section
namespace Sys2Proof.Machine

theorem startCommand_pending {c : Instr} (hc : Instr.starts c = true) (s : State) :
    (runCommand c s).pending = s.pending := by
  cases c with
  | powerOn strap =>
    show (if s.resetInput then cleared s else beginStart strap s).pending = s.pending
    split <;> rfl
  | externalReset => rfl
  | resetRelease strap => exact guarded (P := fun t => t.pending = s.pending) rfl fun _ => rfl
  | imageCheck image =>
    refine guarded (P := fun t => t.pending = s.pending) rfl fun _ => ?_
    split <;> rfl
  | imageReadTimeout => exact guarded (P := fun t => t.pending = s.pending) rfl fun _ => rfl
  | fallbackPulseEnd => exact guarded (P := fun t => t.pending = s.pending) rfl fun _ => rfl
  | presenceProbeEnd =>
    show (match s.phase with | .probing _ => endProbe s | _ => s).pending = s.pending
    split
    · exact (arm_line _).acts.status.pending
    · rfl
  | _ => cases hc

theorem runCommand_pending (c : Instr) (s : State) : (runCommand c s).pending = s.pending := by
  cases hc : Instr.starts c with
  | true => exact startCommand_pending hc s
  | false => exact (runCommand_status hc s).pending

theorem mem_dueIf {b : Bool} {i j : Instr} : j ∈ dueIf b i ↔ b = true ∧ j = i := by
  unfold dueIf
  split
  next h => simp [h]
  next h => simp [h]

theorem mem_stageIds {s : State} {k : StageId} : k ∈ s.stageIds ↔ s.configured k = true := by
  have hall : k ∈ StageId.all := by cases k <;> decide
  simp [State.stageIds, State.configured, hall]

theorem mem_dischargeEnds {s : State} {k : StageId} : Instr.dischargeEnd k ∈ s.dischargeEnds ↔
    s.configured k = true ∧ (s.stage k).state = .discharging ∧ (s.stage k).discharge = 1 := by
  simp only [State.dischargeEnds, List.mem_flatMap, mem_dueIf, mem_stageIds, Instr.dischargeEnd.injEq]
  constructor
  · rintro ⟨j, hj, hd, rfl⟩
    exact ⟨hj, by simpa using hd⟩
  · intro h
    exact ⟨k, h.1, by simpa using h.2, rfl⟩

theorem idle_of_due {s : State} {i : Instr} {rest : List Instr} (hp : s.phase ≠ .held) (h : s.due = i :: rest) :
    idle s = { s with pending := s.pending ++ [i] } := by
  simp [idle, hp, h]

theorem idle_of_none {s : State} (hp : s.phase ≠ .held) (h : s.due = []) : idle s = advance s := by
  simp [idle, hp, h]

/-- R58: a countdown that a millisecond does not bring to its end stands above 0. -/
theorem countdown_pos {n : Nat} (h : 0 < n) : 0 < StageState.countdown .discharging n := by
  simp only [StageState.countdown]
  split <;> omega

end Sys2Proof.Machine
end

section
namespace Sys2Proof.Proofs
open Machine

/-- Settles O1. -/
theorem stepRunsFrontCommand : Obligations.StepRunsFrontCommand := fun _ _ => rfl

/-- Settles O2. -/
theorem everyCommandCompletes : Obligations.EveryCommandCompletes := fun c s =>
  ⟨runCommand c s, exec_eq c s, runCommand_pending c s⟩

/-- Settles O3, by the two branches of the idle step. -/
theorem idleStepQueuesOrCounts : Obligations.IdleStepQueuesOrCounts := by
  intro s hq hp
  refine ⟨idle s, by simp [step, hq], fun i rest h => by rw [idle_of_due hp h, hq]; rfl, fun h => ?_⟩
  rw [idle_of_none hp h]
  refine ⟨rfl, rfl, rfl, rfl, rfl, rfl, rfl, rfl, rfl, rfl, fun k => ?_, fun k => ?_⟩
  · rw [← mem_dischargeEnds]
    simp [advance, hq, mem_dueIf]
  · rw [advance_stage]
    refine ⟨rfl, rfl, rfl, rfl, rfl, rfl, fun hst hd => ?_⟩
    rw [Stage.tick, hst]
    exact countdown_pos hd

/-- Settles O4, by the meaning of each of the three commands. -/
theorem startsAndResets : Obligations.StartsAndResets := by
  refine ⟨fun strap s h => ?_, fun strap s h => ?_, fun s => rfl, fun strap s h => ?_, fun s t h => ?_⟩
  · show Host.Outcome.next (if s.resetInput then cleared s else beginStart strap s) = _
    rw [if_neg (by simp [h]), beginStart, cleared, h]
    rfl
  · show Host.Outcome.next (if s.resetInput then beginStart strap { s with resetInput := false } else s) = _
    rw [if_pos h]
    rfl
  · show Host.Outcome.next (if s.resetInput then cleared s else beginStart strap s) = .next (cleared { s with resetInput := true })
    rw [if_pos h]
    simp [cleared, h]
  · obtain rfl := eq_runCommand h
    exact ⟨rfl, rfl, rfl, rfl, fun k => by cases k <;> exact ⟨rfl, rfl, rfl⟩⟩

/-- Settles O60: every list of the state before the first start is empty, and every stage stands at its starting state. -/
theorem resetHasTheInvariants : Obligations.ResetHasTheInvariants := by
  have hcleared : cleared State.reset = State.reset := rfl
  refine ⟨hcleared ▸ cleared_safe State.reset, ?_, zero_accumulators rfl rfl (fun h => by cases h),
    hcleared ▸ cleared_follows State.reset⟩
  exact ⟨Nat.zero_le _, List.nodup_nil, fun _ h => absurd h List.not_mem_nil, Nat.zero_le _, List.nodup_nil, rfl,
    Nat.zero_le _, fun _ => ⟨rfl, rfl⟩, fun h => by cases h⟩

end Sys2Proof.Proofs
end

/-! ### The image check -/

section
namespace Sys2Proof.Machine

/-- A value stands at most once among the values of a function below `n`. -/
theorem filter_map_range_le_one (f : Nat → Nat) (v n : Nat) :
    (((List.range n).map f).filter (· = v)).length ≤ 1 ↔ ∀ i j, i < j → j < n → f i = v → f j ≠ v := by
  induction n with
  | zero => simp
  | succ n ih =>
    have hzero : (((List.range n).map f).filter (· = v)).length = 0 ↔ ∀ i, i < n → f i ≠ v := by
      simp [List.filter_eq_nil_iff]
    rw [List.range_succ, List.map_append, List.filter_append, List.length_append]
    by_cases hn : f n = v
    · simp only [List.map_cons, List.map_nil, hn, decide_true, List.filter_cons_of_pos, List.filter_nil,
        List.length_singleton]
      constructor
      · intro h i j hij hj hi
        have hzero := hzero.mp (by omega)
        exact absurd hi (hzero i (by omega))
      · intro h
        have := hzero.mpr fun i hi => by
          intro hfi
          exact h i n hi (by omega) hfi hn
        omega
    · simp only [List.map_cons, List.map_nil, hn, decide_false, Bool.false_eq_true, not_false_eq_true,
        List.filter_cons_of_neg, List.filter_nil, List.length_nil, Nat.add_zero]
      rw [ih]
      constructor
      · intro h i j hij hj hi hfj
        rcases Nat.lt_succ_iff_lt_or_eq.mp hj with hj | rfl
        · exact h i j hij hj hi hfj
        · exact hn hfj
      · exact fun h i j hij hj => h i j hij (by omega)

/-- R6, for the functions 0..127 of eight channels. -/
theorem mapOk_iff (count : Nat) (f : Nat → Nat) : mapOk count ((List.range 8).map f) = true ↔
    (∀ i, i < 8 → f i ≤ 7) ∧ (∀ i j, i < j → j < 8 → f i = f j → f i = 0) ∧
    ∀ c, 1 ≤ c → c ≤ 3 + count → ∃ i, i < 8 ∧ f i = c := by
  have hall : ((List.range 8).map f).all (· ≤ 7) = true ↔ ∀ i, i < 8 → f i ≤ 7 := by
    simp [List.all_eq_true]
  have hhas : ((List.range (3 + count)).all fun c => ((List.range 8).map f).contains (c + 1)) = true ↔
      ∀ c, 1 ≤ c → c ≤ 3 + count → ∃ i, i < 8 ∧ f i = c := by
    simp only [List.all_eq_true, List.mem_range, List.contains_iff_mem, List.mem_map]
    refine ⟨fun h c h1 hc => ?_, fun h c hc => h (c + 1) (by omega) (by omega)⟩
    have := h (c - 1) (by omega)
    rwa [Nat.sub_add_cancel h1] at this
  have honce : ((List.range 7).all fun c => (((List.range 8).map f).filter (· = c + 1)).length ≤ 1) = true ↔
      ∀ c, c < 7 → ∀ i j, i < j → j < 8 → f i = c + 1 → f j ≠ c + 1 := by
    simp only [List.all_eq_true, List.mem_range, decide_eq_true_eq, filter_map_range_le_one]
  unfold mapOk
  rw [Bool.and_eq_true, Bool.and_eq_true, hall, honce, hhas, and_assoc]
  refine and_congr_right fun h7 => and_congr_left fun _ => ⟨fun h i j hij hj heq => ?_, fun h c hc i j hij hj hi hj' => ?_⟩
  · by_contra h0
    have hi := h7 i (by omega)
    exact h (f i - 1) (by omega) i j hij hj (by omega) (by omega)
  · have := h i j hij hj (hi.trans hj'.symm)
    omega

theorem isYard_iff (a : Nat) : isYard a = true ↔ 1 ≤ a ∧ a ≤ 62 := by simp [isYard]

end Sys2Proof.Machine
end

section
namespace Sys2Proof.Proofs
open Machine

/-- Settles O5: the check of the channel map is `mapOk_iff`. -/
theorem imageCheckPasses : Obligations.ImageCheckPasses := by
  intro img
  have hcodes : (channelBytes img).map (· % 128) = (List.range 8).map fun i => byteAt img (12 + i) % 128 := by
    simp [channelBytes, List.map_map, Function.comp_def]
  unfold imageOk checksumOk
  simp only [Bool.and_eq_true, decide_eq_true_eq, beq_iff_eq, hcodes, isYard_iff]
  constructor
  · rintro ⟨⟨⟨⟨hlen, hsum⟩, h1, h4⟩, hyard⟩, hmap⟩
    exact ⟨hlen, hsum, h1, h4, hyard.1, hyard.2, (mapOk_iff _ _).mp hmap⟩
  · rintro ⟨hlen, hsum, h1, h4, hy1, hy2, hmap⟩
    exact ⟨⟨⟨⟨hlen, hsum⟩, h1, h4⟩, hy1, hy2⟩, (mapOk_iff _ _).mpr hmap⟩

/-- Settles O6. -/
theorem imageCheckInstalls : Obligations.ImageCheckInstalls := by
  intro img s hr hok
  refine ⟨installSettings (readSettings img) s, ?_, rfl, rfl, rfl, rfl, rfl, fun k => ?_, rfl, rfl, rfl, rfl, rfl, rfl, rfl,
    rfl, rfl, rfl, rfl, rfl, rfl, rfl, rfl, rfl, rfl, rfl, rfl⟩
  · show Host.Outcome.next (if s.isReading then _ else s) = _
    rw [if_pos hr, if_pos hok]
  · exact congrArg RelayEntry.null (Four.get_ofFn _ k)

/-- Settles O8: both commands enter FALLBACK from the image read. -/
theorem fallbackOpensAll : Obligations.FallbackOpensAll := by
  refine ⟨fun c s hr hc => ⟨enterFallback s, ?_, rfl, rfl, ?_, ?_, rfl, fun k => Four.get_ofFn _ k, rfl, rfl, rfl, rfl, rfl,
    rfl, rfl, rfl, rfl, rfl, rfl, rfl, rfl, rfl, rfl, rfl, rfl, rfl, rfl⟩, fun s n h => ?_⟩
  · rcases hc with rfl | ⟨img, himg, rfl⟩
    · show Host.Outcome.next (if s.isReading then _ else s) = _
      rw [if_pos hr]
    · show Host.Outcome.next (if s.isReading then _ else s) = _
      rw [if_pos hr, if_neg (by simp [himg])]
  · simp [enterFallback, rejudge, State.alarmDue, State.fallback]
  · simp [enterFallback, rejudge, State.healthyDue, State.fallback]
  · refine ⟨{ s with fallbackPulse := none, stages := .ofFn fun k => { s.stages.get k with openOut := false } }, ?_,
      fun k => Four.get_ofFn _ k, rfl⟩
    show Host.Outcome.next (if s.fallbackPulse.isSome then _ else s) = _
    rw [if_pos (by simp [h])]

end Sys2Proof.Proofs
end

/-! ### The settings of an image, and the end of the presence probe -/

section
namespace Sys2Proof.Machine

/-- R98: the orders that stand after the equal orders of earlier slots have been left out. -/
theorem dedupOrders_eq_some (l : List (Option Nat)) (seen : List Nat) (i h : Nat) :
    (dedupOrders seen l)[i]? = some (some h) ↔
      l[i]? = some (some h) ∧ h ∉ seen ∧ ∀ j, j < i → l[j]? ≠ some (some h) := by
  induction l generalizing seen i with
  | nil => simp [dedupOrders]
  | cons x l ih =>
    cases i with
    | zero =>
      cases x with
      | none => simp [dedupOrders]
      | some g =>
        by_cases hg : g ∈ seen
        · simp only [dedupOrders, List.contains_iff_mem, hg, if_true, List.getElem?_cons_zero]
          grind
        · simp only [dedupOrders, List.contains_iff_mem, hg, if_false, List.getElem?_cons_zero]
          grind
    | succ i =>
      have hshift : (∀ j, j < i + 1 → (x :: l)[j]? ≠ some (some h)) ↔ x ≠ some h ∧ ∀ j, j < i → l[j]? ≠ some (some h) := by
        refine ⟨fun hall => ⟨fun hx => hall 0 (by omega) (by simp [hx]), fun j hj => ?_⟩, fun hall j hj => ?_⟩
        · simpa using hall (j + 1) (by omega)
        · cases j with
          | zero => simpa using hall.1
          | succ j => simpa using hall.2 j (by omega)
      rw [hshift]
      cases x with
      | none =>
        simp only [dedupOrders, List.getElem?_cons_succ, ih]
        grind
      | some g =>
        by_cases hg : g ∈ seen
        · simp only [dedupOrders, List.contains_iff_mem, hg, if_true, List.getElem?_cons_succ, ih]
          grind
        · simp only [dedupOrders, List.contains_iff_mem, hg, if_false, List.getElem?_cons_succ, ih]
          grind

/-- R98: no order stands in two slots. -/
theorem dedupOrders_nodup (l : List (Option Nat)) (seen : List Nat) :
    ((dedupOrders seen l).filterMap id).Nodup ∧ ∀ h ∈ (dedupOrders seen l).filterMap id, h ∉ seen := by
  induction l generalizing seen with
  | nil => simp [dedupOrders]
  | cons x l ih =>
    cases x with
    | none => simpa [dedupOrders] using ih seen
    | some h =>
      by_cases hs : h ∈ seen
      · simpa [dedupOrders, hs] using ih seen
      · obtain ⟨hnodup, hapart⟩ := ih (h :: seen)
        simp only [dedupOrders, List.contains_iff_mem, hs, if_false, List.filterMap_cons, id_eq, List.nodup_cons]
        refine ⟨⟨fun hm => (hapart h hm) (by simp), hnodup⟩, fun g hg => ?_⟩
        rcases List.mem_cons.mp hg with rfl | hg
        · exact hs
        · exact fun hm => hapart g hg (by simp [hm])

theorem clamp_le {lo hi x : Nat} (h : lo ≤ hi) : clamp lo hi x ≤ hi := by unfold clamp; omega

theorem le_clamp {lo hi x : Nat} : lo ≤ clamp lo hi x := by unfold clamp; omega

theorem clamp_zero (hi x : Nat) : clamp 0 hi x = min hi x := by unfold clamp; omega

theorem clampInt_le {lo hi x : Int} (h : lo ≤ hi) : clampInt lo hi x ≤ hi := by unfold clampInt; omega

theorem le_clampInt {lo hi x : Int} : lo ≤ clampInt lo hi x := by unfold clampInt; omega

theorem field_one (l : List Byte) (i : Nat) : field l i 1 = byteAt l i := by simp [field]

theorem byteAt_lt (l : List Byte) (i : Nat) : byteAt l i < 256 := (l.getD i 0).isLt

theorem testBit_seven {x : Nat} (h : x < 256) : testBit x 7 = decide (128 ≤ x) := by
  unfold testBit
  rw [decide_eq_decide]
  omega

/-- R198: a channel's function in the lower seven bits of its byte, its invert flag in the highest. -/
theorem channels_getElem? (img : List Byte) {i : Nat} (hi : i < 8) : (readSettings img).channels[i]? =
    some ⟨signalOf (byteAt img (12 + i) % 128), testBit (byteAt img (12 + i)) 7⟩ := by
  rw [testBit_seven (byteAt_lt ..)]
  simp [readSettings, channelBytes, hi]

theorem readSettings_stage (img : List Byte) {k : StageId} (hk : k.num ≤ byteAt img 2) :
    (readSettings img).stages.get k = clampStage (rawStage img k) := by
  simp [readSettings, hk]

/-- The orders of an image's six slots, clamped (R98). -/
def imageOrders (img : List Byte) : List (Option Nat) := (List.range 6).map fun i => clampOrder (byteAt img (46 + i))

theorem clampOrder_eq_some {x h : Nat} : clampOrder x = some h ↔ x ≠ 0 ∧ max 2 (min 15 x) = h := by
  unfold clampOrder clamp
  split <;> simp_all

theorem imageOrders_eq_some (img : List Byte) (i h : Nat) : (imageOrders img)[i]? = some (some h) ↔
    i < 6 ∧ byteAt img (46 + i) ≠ 0 ∧ max 2 (min 15 (byteAt img (46 + i))) = h := by
  by_cases hi : i < 6
  · simp [imageOrders, hi, clampOrder_eq_some]
  · simp [imageOrders, hi]

theorem dedupOrders_length (l : List (Option Nat)) (seen : List Nat) : (dedupOrders seen l).length = l.length := by
  induction l generalizing seen with
  | nil => rfl
  | cons x l ih =>
    cases x with
    | none => simp [dedupOrders, ih]
    | some h =>
      unfold dedupOrders
      split <;> simp [ih]

/-- The slot of a place in an image's table of six. -/
def imageSlot (img : List Byte) (i : Nat) : Slot :=
  ⟨(dedupOrders [] (imageOrders img)).getD i none, clamp 5 200 (byteAt img (52 + i)), clamp 2 100 (byteAt img (58 + i))⟩

theorem slotsOf_toList (img : List Byte) : (slotsOf img).toList = (List.range 6).map (imageSlot img) := rfl

theorem slotsOf_getElem? {img : List Byte} {i : Nat} {slot : Slot} (h : (slotsOf img).toList[i]? = some slot) :
    i < 6 ∧ slot = imageSlot img i := by
  rw [slotsOf_toList] at h
  by_cases hi : i < 6
  · simp [hi] at h
    exact ⟨hi, h.symm⟩
  · simp [hi] at h

theorem getD_eq_some (l : List (Option Nat)) (i h : Nat) : l.getD i none = some h ↔ l[i]? = some (some h) := by
  rw [List.getD_eq_getElem?_getD]
  cases l[i]? <;> simp

/-- R98: a slot is unused when its byte is 0, or its order stands in an earlier slot. -/
theorem imageSlot_order (img : List Byte) {i : Nat} (hi : i < 6) : (imageSlot img i).order =
    (if byteAt img (46 + i) = 0 ∨ ∃ j, j < i ∧ byteAt img (46 + j) ≠ 0 ∧
        max 2 (min 15 (byteAt img (46 + j))) = max 2 (min 15 (byteAt img (46 + i)))
      then none else some (max 2 (min 15 (byteAt img (46 + i))))) := by
  refine Option.ext fun h => ?_
  rw [imageSlot, getD_eq_some, dedupOrders_eq_some]
  simp only [ne_eq, imageOrders_eq_some, hi, true_and, List.not_mem_nil, not_false_eq_true]
  split
  next hc =>
    refine ⟨fun ⟨⟨h0, heq⟩, hbefore⟩ => ?_, fun h => by cases h⟩
    obtain hz | ⟨j, hj, hj0, hje⟩ := hc
    · exact absurd hz h0
    · exact absurd ⟨by omega, hj0, hje.trans heq⟩ (hbefore j hj)
  next hc =>
    obtain ⟨h0, hbefore⟩ := not_or.mp hc
    rw [Option.some.injEq]
    exact ⟨fun h => h.1.2, fun h => ⟨⟨h0, h⟩, fun j hj hjs => hbefore ⟨j, hj, hjs.2.1, hjs.2.2.trans h.symm⟩⟩⟩

theorem slots_orders (img : List Byte) : (slotsOf img).toList.map Slot.order = dedupOrders [] (imageOrders img) := by
  rw [slotsOf_toList, List.map_map]
  have hlen : (dedupOrders [] (imageOrders img)).length = 6 := by simp [dedupOrders_length, imageOrders]
  refine List.ext_getElem (by simp [hlen]) fun i h1 h2 => ?_
  simp [imageSlot, h2]

end Sys2Proof.Machine
end

section
namespace Sys2Proof.Proofs
open Machine

/-- Settles O7: each field is read off the working copy, the slots by `imageSlot_order`; the ranges are those of the clamps. -/
theorem settingsInRange : Obligations.SettingsInRange := by
  refine ⟨fun img => ?_, fun img k hk => ?_⟩
  · refine ⟨rfl, rfl, rfl, ?_, ?_, fun k => ?_, rfl, clamp_zero .., clamp_zero .., rfl, rfl, fun i => channels_getElem? img,
      rfl, rfl, rfl, rfl, rfl, rfl, rfl, clamp_zero .., rfl, rfl, rfl, rfl, rfl, clamp_zero .., rfl, fun i slot h => ?_, rfl,
      rfl, rfl, rfl, rfl, rfl, fun k hk => ?_⟩
    · simp [readSettings, groupOf]
    · simp [readSettings]
    · simp [readSettings]
    · obtain ⟨hi, rfl⟩ := slotsOf_getElem? h
      exact ⟨rfl, rfl, imageSlot_order img hi⟩
    · rw [readSettings_stage img hk]
      exact ⟨rfl, rfl, congrArg (clamp 1 16) (field_one ..), rfl, rfl, rfl, rfl, rfl, rfl, rfl,
        congrArg (clamp 10 120) (field_one ..), rfl, rfl⟩
  · have hgroup (g : Nat) (h : (readSettings img).group = some g) : 0xE0 ≤ g ∧ g ≤ 0xE7 := by
      simp [readSettings, groupOf] at h
      omega
    have hslot (sl : Slot) (h : sl ∈ (readSettings img).slots.toList) : (∀ o, sl.order = some o → 2 ≤ o ∧ o ≤ 15) ∧
        5 ≤ sl.limit ∧ sl.limit ≤ 200 ∧ 2 ≤ sl.watch ∧ sl.watch ≤ 100 := by
      obtain ⟨i, hi⟩ := List.getElem?_of_mem h
      obtain ⟨hlt, rfl⟩ := slotsOf_getElem? hi
      refine ⟨fun o ho => ?_, le_clamp, clamp_le (by decide), le_clamp, clamp_le (by decide)⟩
      rw [imageSlot_order img hlt] at ho
      grind
    have honce : ((readSettings img).slots.toList.filterMap Slot.order).Nodup := by
      have h := (dedupOrders_nodup (imageOrders img) []).1
      rw [← slots_orders, List.filterMap_map] at h
      exact h
    intro c r
    have hr : r = clampStage (rawStage img k) := readSettings_stage img hk
    rw [hr]
    refine ⟨hgroup, clamp_le ?_, clamp_le ?_, le_clamp, clamp_le ?_, le_clamp, clamp_le ?_, le_clamp, clamp_le ?_, le_clamp,
      clamp_le ?_, le_clamp, clamp_le ?_, le_clamp, clamp_le ?_, le_clamp, clamp_le ?_, clamp_le ?_, le_clamp, clamp_le ?_,
      le_clamp, clamp_le ?_, le_clamp, clamp_le ?_, le_clamp, clamp_le ?_, le_clamp, clamp_le ?_, clamp_le ?_, le_clamp,
      clamp_le ((clamp_le (hi := 2000) ?_).trans ?_), hslot, honce, le_clamp, clamp_le ?_, le_clamp, clamp_le ?_, le_clamp,
      clamp_le ?_, le_clamp, clamp_le ?_, le_clamp, clamp_le ?_, le_clamp, clamp_le ?_, le_clamp, clamp_le ?_, le_clamp,
      clamp_le ?_, le_clamp, clamp_le ?_, le_clamp, clamp_le ?_, le_clamp, clamp_le ?_, le_clamp, clamp_le ?_, le_clamp,
      clamp_le ?_, le_clamp, clamp_le ?_, le_clamp, clamp_le ?_, le_clamp, clamp_le ?_, le_clamp, clamp_le ?_, le_clampInt,
      clampInt_le ?_, le_clampInt, clampInt_le ?_⟩ <;> decide

end Sys2Proof.Proofs
end

/-! ### Suspension causes coming and going -/

section
namespace Sys2Proof.Machine

/-- The set in which one cause alone stands. -/
def Suspension.only (c : Suspension) : CauseSet :=
  CauseSet.put ⟨false, false, false, false, false, false, false⟩ c true

/-- R76: the set becomes empty when its one cause leaves it. -/
theorem last_cause (v : CauseSet) (c : Suspension) :
    (v.has c && (v.put c false).isEmpty) = true ↔ v = c.only := by
  obtain ⟨a1, a2, a3, a4, a5, a6, a7⟩ := v
  cases c <;> simp [CauseSet.has, CauseSet.put, CauseSet.isEmpty, Suspension.only] <;> tauto

theorem removeCause_last {c : Suspension} {s : State} (hc : s.vc.causes = c.only) (hs : s.vc.state = .suspended) :
    removeCause c s = trigger (enterQuiet { s with vc.causes := s.vc.causes.put c false }) := by
  have := (last_cause s.vc.causes c).mpr hc
  simp only [Bool.and_eq_true] at this
  unfold removeCause
  rw [if_pos (by simp [this.1, this.2, hs])]

/-- R76: a cause that leaves others behind, or a controller that is not SUSPENDED. -/
theorem removeCause_kept {c : Suspension} {s : State} (h : ¬(s.vc.causes = c.only ∧ s.vc.state = .suspended)) :
    removeCause c s = { s with vc.causes := s.vc.causes.put c false } := by
  unfold removeCause
  dsimp only
  rw [if_neg]
  rw [← last_cause] at h
  simpa [and_assoc] using h

/-- R76, R80, R182: the last cause lets a suspended controller into QUIET. -/
theorem removeCause_quiet {c : Suspension} {s : State} (hc : s.vc.causes = c.only) (hs : s.vc.state = .suspended) :
    (removeCause c s).vc.state = .quiet ∧ (removeCause c s).vc.low = 0 ∧ (removeCause c s).vc.high = 0 ∧
    (removeCause c s).vc.stationSettle = some (1000 * s.settings.stationSettle) ∧ Triggered s (removeCause c s) := by
  rw [removeCause_last hc hs]
  refine ⟨?_, ?_, ?_, ?_, trigger_triggered (enterQuiet { s with vc.causes := s.vc.causes.put c false })⟩ <;>
    rw [trigger_vc] <;> rfl

theorem addCause_kept {c : Suspension} {s : State} (h : s.vc.causes.isEmpty = false ∨ s.vc.state = .executing) :
    addCause c s = { s with vc.causes := s.vc.causes.put c true } := by
  unfold addCause
  dsimp only
  split
  next he =>
    rw [he] at h
    simp only [Bool.true_eq_false, false_or] at h
    rw [h]
  next => rfl

/-- R75, R162: the first cause of all withdraws the intent of a controller in PROPOSING, and suspends it. -/
theorem addCause_proposing {c : Suspension} {s : State} (he : s.vc.causes.isEmpty = true) (hs : s.vc.state = .proposing) :
    addCause c s = enterSuspended (withdraw c.reason { s with vc.causes := s.vc.causes.put c true }) := by
  simp [addCause, he, hs]

theorem addCause_first {c : Suspension} {s : State} (he : s.vc.causes.isEmpty = true) (hp : s.vc.state ≠ .proposing)
    (hx : s.vc.state ≠ .executing) : addCause c s = enterSuspended { s with vc.causes := s.vc.causes.put c true } := by
  unfold addCause
  dsimp only
  rw [if_pos he]
  split
  next h => exact absurd h hx
  next h => exact absurd h hp
  next => rfl

theorem enterSuspended_vc (s : State) : (enterSuspended s).vc = { s.vc with
    state := .suspended, low := 0, high := 0, unserved := .none, stationSettle := none } := trigger_vc _

theorem enterSuspended_ix (s : State) : (enterSuspended s).ix = s.ix := trigger_ix _

theorem enterSuspended_triggered (s : State) : Triggered s (enterSuspended s) := trigger_triggered
  { s with vc := { s.vc with state := .suspended, low := 0, high := 0, unserved := .none, stationSettle := none } }

/-- R75, R182: the first cause of all suspends a controller that is not EXECUTING. -/
theorem addCause_suspends (c : Suspension) {s : State} (he : s.vc.causes.isEmpty = true) (hx : s.vc.state ≠ .executing) :
    (addCause c s).vc.state = .suspended ∧ (addCause c s).vc.low = 0 ∧ (addCause c s).vc.high = 0 ∧
    (addCause c s).vc.stationSettle = none ∧ Triggered s (addCause c s) := by
  have hput : DelayKept s { s with vc.causes := s.vc.causes.put c true } := ⟨rfl, rfl, rfl, .inr rfl⟩
  have hentered {t : State} (hk : DelayKept s t) : (enterSuspended t).vc.state = .suspended ∧
      (enterSuspended t).vc.low = 0 ∧ (enterSuspended t).vc.high = 0 ∧ (enterSuspended t).vc.stationSettle = none ∧
      Triggered s (enterSuspended t) := by
    simp only [enterSuspended_vc, true_and]
    exact hk.triggered (enterSuspended_triggered t)
  by_cases hp : s.vc.state = .proposing
  · rw [addCause_proposing he hp]
    exact hentered (hput.trans (withdraw_frame ..).toAnnounces.kept)
  · rw [addCause_first he hp hx]
    exact hentered hput

/-- R162, R165: the intent of a controller in PROPOSING is withdrawn with the cause's reason. -/
theorem addCause_withdraws (c : Suspension) {i : Intent} {s : State} (h : Proposes i s) :
    Withdrawn i c.reason s (addCause c s) := by
  rw [addCause_proposing h.control h.state]
  have hw : Withdrawn i c.reason s (withdraw c.reason { s with vc.causes := s.vc.causes.put c true }) :=
    let hw := withdraw_withdrawn (s := { s with vc.causes := s.vc.causes.put c true }) h.own h.uncommitted c.reason
    ⟨⟨hw.own, hw.slot⟩, hw.outcome⟩
  exact hw.congr (enterSuspended_ix _) (trigger_intentSlot _) (enterSuspended_outcomeSlot _)

theorem addCause_outputs (c : Suspension) (s : State) : (addCause c s).alarm = s.alarm ∧ (addCause c s).healthy = s.healthy :=
  ⟨(addCause_control c s).alarm, (addCause_control c s).healthy⟩

end Sys2Proof.Machine
end

/-! ### The BLOCK input -/

section
namespace Sys2Proof.Machine

theorem block_changes (s : State) (k : StageId) (c : Contact) : s.changes blockContact k c = false := by
  have hbit : blockContact.getLsbD (inputBit k c) = false := by cases k <;> cases c <;> decide
  simp [State.changes, hbit]

theorem blockContact_block : blockContact.getLsbD blockBit = true := by decide

/-- R27: the change set of BLOCK alone leaves every stage's inputs but for what the probe remembers. -/
theorem block_inputs (s : State) (k : StageId) : (takeInputs blockContact s).position k = s.position k := by
  simp [takeInputs, State.position, StageInputs.position, block_changes, StageInputs.change, Debounced.flipIf]

theorem four_ext {α : Type} {f g : Four α} (h : ∀ k, f.get k = g.get k) : f = g := by
  cases f
  cases g
  exact congr (congr (congr (congrArg Four.mk (h .s1)) (h .s2)) (h .s3)) (h .s4)

theorem block_inputs_running {s : State} (h : s.phase = .running) : (takeInputs blockContact s).inputs = s.inputs := by
  have hp : s.probing = false := by simp [State.probing, h]
  exact four_ext fun k => by
    simp [takeInputs, block_changes, StageInputs.change, Debounced.flipIf, hp]

theorem foldl_fixed {α β : Type} {f : α → β → α} (l : List β) (s : α) (h : ∀ b ∈ l, f s b = s) : l.foldl f s = s := by
  induction l with
  | nil => rfl
  | cons b l ih =>
    rw [List.foldl_cons, h b (by simp)]
    exact ih fun b hb => h b (by simp [hb])

/-- R28: BLOCK hands no position. -/
theorem handPositions_block (s : State) : handPositions s (takeInputs blockContact s) = takeInputs blockContact s := by
  unfold handPositions
  split
  · exact foldl_fixed _ _ fun k _ => by rw [handPosition, if_pos (block_inputs s k)]
  · rfl

theorem exec_blockContact {s : State} (hw : s.watchingInputs = true) :
    exec (.contactChange blockContact) s = .next (settleDue (handBlock (takeInputs blockContact s))) := by
  show Host.Outcome.next (if s.watchingInputs then settleDue (contactChange blockContact s) else s) = _
  rw [if_pos hw, contactChange, if_pos blockContact_block, handPositions_block]

theorem block_flips (s : State) : (takeInputs blockContact s).block = ⟨!s.block.active, 0⟩ := by
  simp [takeInputs, blockContact_block, Debounced.flipIf]

end Sys2Proof.Machine
end

section
namespace Sys2Proof.Proofs
open Machine

/-- Settles O10: the causes by `removeCause_quiet` and `removeCause_kept`, the settles by the test of R82. -/
theorem listenInAndSettlesEnd : Obligations.ListenInAndSettlesEnd := by
  refine ⟨fun s n hn hc => ?_, fun s n hn => ?_, fun s n hn => ?_⟩
  · have hkeeps := removeCause_keeps .listenIn { s with vc.listenIn := none }
    have hframe := removeCause_frame .listenIn { s with vc.listenIn := none }
    obtain ⟨hoi, hur, hix, hcauses, -, -, -, halarm, hhealthy⟩ := hkeeps
    refine ⟨removeCause .listenIn { s with vc.listenIn := none }, ?_, hframe.control.listenIn, hcauses, ?_, hframe, hix, hur,
      hoi, halarm, hhealthy⟩
    · show Host.Outcome.next (if s.vc.listenIn.isSome then _ else s) = _
      rw [if_pos (by simp [hn])]
    · split
      next h =>
        have hq := removeCause_quiet (s := { s with vc.listenIn := none }) (c := .listenIn) h.1 h.2
        exact ⟨hq.1, hq.2.1, hq.2.2.1, hq.2.2.2.1, hq.2.2.2.2⟩
      next h => exact removeCause_kept (s := { s with vc.listenIn := none }) (c := .listenIn) h
  · show Host.Outcome.next (if s.vc.stationSettle.isSome then endQuiet { s with vc.stationSettle := none } else s) = _
    rw [if_pos (by simp [hn])]
    simp [endQuiet]
  · show Host.Outcome.next (if s.vc.peerSettle.isSome then endQuiet { s with vc.peerSettle := none } else s) = _
    rw [if_pos (by simp [hn])]
    simp [endQuiet]

/-- Settles O26: the change set of BLOCK hands no position, and its cause comes or goes. -/
theorem blockInputSuspends : Obligations.BlockInputSuspends := by
  refine ⟨fun s hw hd hb => ?_, fun s hw hd hb => ?_⟩
  · have hactive : (takeInputs blockContact s).block = ⟨true, 0⟩ := by simp [block_flips, hb]
    have hframe := addCause_frame .blockInput (takeInputs blockContact s)
    obtain ⟨hoi, -, hcauses, -⟩ := addCause_keeps .blockInput (takeInputs blockContact s)
    refine ⟨addCause .blockInput (takeInputs blockContact s), ?_, hframe.block.trans hactive, hcauses, fun he hx => ?_,
      fun i hi => ?_, fun hk => ?_, hframe, hoi, fun hp => hframe.inputs.trans (block_inputs_running hp)⟩
    · rw [exec_blockContact hw, handBlock, if_pos (by simp [hactive]), settleDue_of_not_due]
      rw [stepDue_congr (t := addCause .blockInput (takeInputs blockContact s)) (s := s) (by rw [hoi]; rfl)]
      exact hd
    · exact addCause_suspends .blockInput (s := takeInputs blockContact s) he hx
    · have hw := addCause_withdraws .blockInput (i := i) (s := takeInputs blockContact s) ⟨hi.control, hi.state, hi.own, hi.uncommitted⟩
      exact ⟨⟨hw.own, hw.slot⟩, hw.outcome⟩
    · rw [addCause_kept (s := takeInputs blockContact s) hk]
      exact ⟨rfl, rfl⟩
  · have hactive : (takeInputs blockContact s).block = ⟨false, 0⟩ := by simp [block_flips, hb]
    have hframe := removeCause_frame .blockInput (takeInputs blockContact s)
    obtain ⟨hoi, -, -, hcauses, -⟩ := removeCause_keeps .blockInput (takeInputs blockContact s)
    refine ⟨removeCause .blockInput (takeInputs blockContact s), ?_, hframe.block.trans hactive, hcauses, fun hc hs => ?_,
      hframe, hoi, fun hp => hframe.inputs.trans (block_inputs_running hp)⟩
    · rw [exec_blockContact hw, handBlock, if_neg (by simp [hactive]), settleDue_of_not_due]
      rw [stepDue_congr (t := removeCause .blockInput (takeInputs blockContact s)) (s := s) (by rw [hoi]; rfl)]
      exact hd
    · have hq := removeCause_quiet (c := .blockInput) (s := takeInputs blockContact s) hc hs
      exact ⟨hq.1, hq.2.2.2.2⟩

end Sys2Proof.Proofs
end

/-! ### Measurement lost -/

section
namespace Sys2Proof.Machine

/-- All that a notice of the station unbalance alarm can touch: the trigger delay and the outputs. -/
theorem unbalanceNotice_only (b : Bool) (s : State) : ∃ d al he,
    unbalanceNotice b s = { s with lc := { s.lc with triggerDelay := d }, alarm := al, healthy := he } := by
  unfold unbalanceNotice trigger
  split
  · exact ⟨s.lc.triggerDelay, s.alarm, s.healthy, rfl⟩
  · split
    · exact ⟨_, _, _, rfl⟩
    · exact ⟨s.lc.triggerDelay, _, _, rfl⟩

/-- The state in which the controller takes a loss (R8, R75). -/
def lossTaken (s : State) : State := addCause .measLost { s with port := { s.port with lost := true, recovery := 0 } }

/-- R8, R77, R104, R127: all that a declared loss touches after the controller has taken it. -/
theorem declareLost_only (s : State) : ∃ d al he, declareLost s = { lossTaken s with
    vc := { (lossTaken s).vc with deadRun := 0, restore := 0, fovRun := 0, fovRep := 0 }
    hm := (lossTaken s).hm.lost
    ur := { entries := .ofFn fun k => ((lossTaken s).ur.entries.get k).lost
            capture := (lossTaken s).ur.capture.map fun c => { c with count := 0, reSum := 0, imSum := 0 } }
    lc := { (lossTaken s).lc with triggerDelay := d }, alarm := al, healthy := he } := by
  unfold declareLost relayLost
  dsimp only
  obtain ⟨d, al, he, h⟩ := unbalanceNotice_only (State.unbAlarm _) _
  rw [h]
  exact ⟨d, _, _, rfl⟩

theorem declareLost_port (s : State) : (declareLost s).port = { s.port with lost := true, recovery := 0 } := by
  obtain ⟨d, al, he, h⟩ := declareLost_only s
  rw [h]
  exact (addCause_control .measLost { s with port := { s.port with lost := true, recovery := 0 } }).port

theorem declareLost_declared (s : State) : LossDeclared s (declareLost s) := by
  have hcontrol : ControlOnly { s with port := { s.port with lost := true, recovery := 0 } } (lossTaken s) :=
    addCause_control ..
  obtain ⟨hoi, hur, hcauses, -⟩ : (lossTaken s).oi = s.oi ∧ (lossTaken s).ur = s.ur ∧
      (lossTaken s).vc.causes = { s.vc.causes with measLost := true } ∧ (lossTaken s).vc.manual = s.vc.manual :=
    addCause_keeps ..
  have hport := declareLost_port s
  obtain ⟨hal, hhe⟩ := lost_due (s := declareLost s) (by rw [hport])
  have houtputs : (declareLost s).alarm = true ∧ (declareLost s).healthy = false := ⟨hal, hhe⟩
  obtain ⟨d, al, he, h⟩ := declareLost_only s
  refine ⟨by rw [hport], by rw [hport], ?_, ?_, ?_, ?_, fun k => ?_, ?_, ?_, ?_, ?_, ?_, ?_, houtputs⟩ <;> rw [h]
  · exact hcauses
  · exact ⟨rfl, rfl, rfl, rfl⟩
  · exact congrArg (fun m => (Monitor.lost m).slots) hcontrol.hm
  · exact ⟨rfl, (congrArg Monitor.thdAlarm hcontrol.hm :)⟩
  · dsimp only
    rw [Four.get_ofFn, hur]
    rfl
  · dsimp only
    rw [hur]
  · exact hcontrol.store
  · exact hcontrol.stages
  · exact hcontrol.ready
  · exact hcontrol.inService
  · exact hoi

/-- R75, R182: a loss that is the first cause of all suspends a controller that is not EXECUTING. -/
theorem declareLost_suspends {s : State} (he : s.vc.causes.isEmpty = true) (hx : s.vc.state ≠ .executing) :
    (declareLost s).vc.state = .suspended ∧ (declareLost s).vc.low = 0 ∧ (declareLost s).vc.high = 0 ∧
    Triggered s (declareLost s) := by
  have htaken := addCause_suspends .measLost (s := { s with port := { s.port with lost := true, recovery := 0 } }) he hx
  have htold : Triggered s (lossTaken s) := htaken.2.2.2.2
  have hkept : DelayKept s (lossTaken s) :=
    ⟨by rw [lossTaken, (addCause_control ..).settings], (addCause_frame ..).line.working, (addCause_frame ..).line.armed,
      .inl htold⟩
  have hrest : CycleFrame (lossTaken s) (declareLost s) := by
    unfold declareLost
    dsimp only
    refine CycleFrame.trans ?_ (rejudge_frame _).cycle
    refine CycleFrame.trans ?_ (relayLost_frame _).cycle
    refine CycleFrame.trans ?_ (monitorFrame_of _ _ (lost_alarm _))
    exact controlCycle_of (lossTaken s) _ rfl rfl rfl
  obtain ⟨d, al, hea, h⟩ := declareLost_only s
  have hvc : (declareLost s).vc = { (lossTaken s).vc with deadRun := 0, restore := 0, fovRun := 0, fovRep := 0 } := by
    rw [h]
  rw [hvc]
  exact ⟨htaken.1, htaken.2.1, htaken.2.2.1, htold.kept hrest.toAnnounces.kept hkept⟩

/-- R162, R165: and withdraws the intent of one in PROPOSING. -/
theorem declareLost_withdraws {i : Intent} {s : State} (h : Proposes i s) : Withdrawn i .measLost s (declareLost s) := by
  have hw := addCause_withdraws .measLost (i := i) (s := { s with port := { s.port with lost := true, recovery := 0 } })
    ⟨h.control, h.state, h.own, h.uncommitted⟩
  have htaken : Withdrawn i .measLost s (lossTaken s) := ⟨⟨hw.own, hw.slot⟩, hw.outcome⟩
  obtain ⟨d, al, he, h⟩ := declareLost_only s
  rw [h]
  exact htaken.congr rfl rfl rfl

end Sys2Proof.Machine
end

/-! ### The arrival of sample sets -/

section
namespace Sys2Proof.Machine

theorem exec_cycleCompletion (w : SampleSet) (o : CycleOrder) {s : State} (hw : s.port.working = true) :
    exec (.cycleCompletion w o) s = .next (settleDue (markedSet w o s)) := by
  show Host.Outcome.next (if s.port.working then settleDue (markedSet w o s) else s) = _
  rw [if_pos hw]

/-- R1, R3: the state after the start of a new run. -/
def runBegun (w : SampleSet) (s : State) : State :=
  { s with port := { s.port with run := some (newRun s.settings w), markTimer := some (markTimeout s.strap) } }

theorem markedSet_first (w : SampleSet) (o : CycleOrder) {s : State} (h : s.port.run = none) :
    markedSet w o s = runBegun w s := by
  simp [markedSet, h, runBegun]

theorem markedSet_discard (w : SampleSet) (o : CycleOrder) {s : State} {r : Run} (h : s.port.run = some r)
    (hr : r.count ≠ 32) : markedSet w o s = discardCycle (runBegun w s) := by
  simp [markedSet, h, hr, runBegun]

theorem markedSet_accept (w : SampleSet) (o : CycleOrder) {s : State} {r : Run} (h : s.port.run = some r)
    (hr : r.count = 32) : markedSet w o s = acceptCycle o r (runBegun w s) := by
  simp [markedSet, h, hr, runBegun]

/-- R8: the third discard in a row with measurement VALID. -/
theorem discardCycle_third {s : State} (hl : s.port.lost = false) (hd : 2 ≤ s.port.discards) :
    discardCycle s = declareLost { s with port := { s.port with discards := 3 } } := by
  have hn : satInc 3 s.port.discards = 3 := by unfold satInc; omega
  simp [discardCycle, hl, hn]

theorem discardCycle_early {s : State} (hl : s.port.lost = false) (hd : s.port.discards < 2) :
    discardCycle s = { s with port := { s.port with discards := s.port.discards + 1 } } := by
  have hn : satInc 3 s.port.discards = s.port.discards + 1 := by unfold satInc; omega
  simp only [discardCycle, hl, hn, Bool.false_eq_true, if_false]
  rw [if_neg (by omega)]

theorem discardCycle_lost {s : State} (hl : s.port.lost = true) :
    discardCycle s = { s with port := { s.port with discards := min 3 (s.port.discards + 1), recovery := 0 } } := by
  simp [discardCycle, hl, satInc]

end Sys2Proof.Machine
end

section
namespace Sys2Proof.Proofs
open Machine

/-- Settles O12: both ways into a loss end in `declareLost`. -/
theorem measurementLost : Obligations.MeasurementLost := by
  refine ⟨fun w o s r hw hr hc hl hd hdue => ?_, fun s n hn hl => ?_, fun s n hn hl => ?_⟩
  · obtain ⟨u, hu⟩ : ∃ u : State, u = { s with port := { s.port with
        run := some (newRun s.settings w), markTimer := some (markTimeout s.strap), discards := 3 } } := ⟨_, rfl⟩
    have hexec : exec (.cycleCompletion w o) s = .next (declareLost u) := by
      rw [exec_cycleCompletion w o hw, markedSet_discard w o hr hc, discardCycle_third (s := runBegun w s) hl hd, hu]
      congr 1
      apply settleDue_of_not_due
      rw [stepDue_congr (s := s) (by rw [(declareLost_declared _).oi]; rfl)]
      exact hdue
    have hframe : CycleFrame s (declareLost u) := by
      refine CycleFrame.trans ?_ (declareLost_frame u)
      rw [hu]
      exact portCycle_of s _ rfl
    have hdeclared := declareLost_declared u
    have hport := declareLost_port u
    refine ⟨declareLost u, hexec, ?_, hframe, ?_, fun he hx => ?_, fun i hi => ?_⟩
    · subst hu
      exact { hdeclared with }
    · rw [hport, hu]
    · subst hu
      exact declareLost_suspends he hx
    · subst hu
      have := declareLost_withdraws (i := i) (s := { s with port := { s.port with
        run := some (newRun s.settings w), markTimer := some (markTimeout s.strap), discards := 3 } })
        ⟨hi.control, hi.state, hi.own, hi.uncommitted⟩
      exact ⟨⟨this.own, this.slot⟩, this.outcome⟩
  · have hexec : exec .markTimeout s = .next (declareLost { s with port := { s.port with markTimer := none } }) := by
      show Host.Outcome.next (if s.port.markTimer.isSome then _ else s) = _
      rw [if_pos (by simp [hn]), if_neg (by simp [hl])]
    have hdeclared := declareLost_declared { s with port := { s.port with markTimer := none } }
    refine ⟨_, hexec, { hdeclared with }, (portCycle_of s { s.port with markTimer := none } rfl).trans (declareLost_frame _), declareLost_port _,
      fun he hx => declareLost_suspends he hx, fun i hi => ?_⟩
    have := declareLost_withdraws (i := i) (s := { s with port := { s.port with markTimer := none } })
      ⟨hi.control, hi.state, hi.own, hi.uncommitted⟩
    exact ⟨⟨this.own, this.slot⟩, this.outcome⟩
  · show Host.Outcome.next (if s.port.markTimer.isSome then _ else s) = _
    rw [if_pos (by simp [hn]), if_pos hl]

end Sys2Proof.Proofs
end

/-! ### Sample sets, the arithmetic, the presence probe -/

section
namespace Sys2Proof.Machine

theorem roundDiv_neg (n : Int) (d : Nat) (h : n < 0) : roundDiv n d = -(((2 * n.natAbs + d) / (2 * d) : Nat) : Int) := by
  simp [roundDiv, h]

theorem roundDiv_nonneg (n : Int) (d : Nat) (h : 0 ≤ n) : roundDiv n d = (((2 * n.natAbs + d) / (2 * d) : Nat) : Int) := by
  simp [roundDiv, not_lt.mpr h]

theorem natAbs_roundDiv (n : Int) (d : Nat) : (roundDiv n d).natAbs = (2 * n.natAbs + d) / (2 * d) := by
  rcases lt_or_ge n 0 with h | h
  · rw [roundDiv_neg n d h, Int.natAbs_neg, Int.natAbs_natCast]
  · rw [roundDiv_nonneg n d h, Int.natAbs_natCast]

/-- R14: the distance to the rounded quotient is that of the absolute value. -/
theorem natAbs_sub_roundDiv (n : Int) (d : Nat) :
    (n - d * roundDiv n d).natAbs = ((n.natAbs : Int) - d * ((2 * n.natAbs + d) / (2 * d) : Nat)).natAbs := by
  generalize hq : (2 * n.natAbs + d) / (2 * d) = q
  rcases lt_or_ge n 0 with h | h
  · rw [roundDiv_neg n d h, hq]
    have : ((n.natAbs : Int)) = -n := by omega
    rw [this, ← Int.natAbs_neg]
    congr 1
    ring
  · rw [roundDiv_nonneg n d h, hq]
    have : ((n.natAbs : Int)) = n := by omega
    rw [this]

/-- R24: a division toward zero: what is left has the sign of the dividend and is less than the divisor. -/
theorem tdiv_sixteen (x : Int) : 16 * (x.tdiv 16).natAbs ≤ x.natAbs ∧ x.natAbs < 16 * (x.tdiv 16).natAbs + 16 ∧
    0 ≤ x.tdiv 16 * x := by
  have hq : (x.tdiv 16).natAbs = x.natAbs / 16 := Int.natAbs_tdiv x 16
  refine ⟨by omega, by omega, ?_⟩
  rcases le_or_gt 0 x with h | h
  · exact mul_nonneg (Int.tdiv_nonneg h (by omega)) h
  · refine mul_nonneg_of_nonpos_of_nonpos ?_ h.le
    rw [← Int.neg_nonneg, ← Int.neg_tdiv]
    exact Int.tdiv_nonneg (by omega) (by omega)

/-- R200: what the end of the probe touches beside the stage records and the relay's entries. -/
theorem endProbe_only (s : State) : ∃ a l st en, endProbe s = { s with
    phase := .running, stages := st
    inService := s.stageIds.filter fun k => probeState (s.inputs.get k) == .closed
    ur := { s.ur with entries := en }
    port := { s.port with working := true, markTimer := some (markTimeout s.strap) }
    lc := { s.lc with
      working := true, periodTimer := some (ofSeconds s.settings.period), armed := true, access := a, lfsr := l }
    vc := { s.vc with listenIn := some (2 * ofSeconds s.settings.period) } } := by
  unfold endProbe arm
  dsimp only
  obtain ⟨a, l, h⟩ := refreshAccess_only _
  rw [h]
  exact ⟨a, l, _, _, rfl⟩

theorem endProbe_stage (s : State) (k : StageId) : (endProbe s).stage k =
    if s.configured k then probeStage (s.cfg k) (s.inputs.get k) (s.stage k) else s.stage k := by
  unfold endProbe
  rw [State.stage, arm_stages, Four.get_ofFn]
  rfl

/-- Table 11-3, the record of a stage by its position at the probe's end. -/
theorem probeStage_position (s : State) (k : StageId) :
    let r := probeStage (s.cfg k) (s.inputs.get k) (s.stage k)
    if (s.inputs.get k).seen = false then r.state = .absent ∧ r.discharge = 0
    else match s.position k with
      | .closed => r.state = .closed ∧ r.discharge = 0 ∧ r.disc = none
      | .opened => r.state = .discharging ∧ r.discharge = s.fullDischarge k ∧ r.disc = none
      | .transit => r.state = .discharging ∧ r.discharge = s.fullDischarge k ∧ r.disc = some ⟨.discharging, 0⟩
      | .bad => r.state = .fault (.discrepancy false) ∧ r.discharge = s.fullDischarge k ∧ r.disc = none := by
  intro r
  split
  next hseen => simp [r, probeStage, probeState, hseen]
  next hseen =>
    have hpos : (s.inputs.get k).position = s.position k := rfl
    cases hp : s.position k <;> simp [r, probeStage, probeState, hseen, hpos, hp, State.fullDischarge]

end Sys2Proof.Machine
end

section
namespace Sys2Proof.Proofs
open Machine

/-- Settles O11, by the branches of a marked set and of an unmarked one. -/
theorem setsAndDiscards : Obligations.SetsAndDiscards := by
  refine ⟨fun w o s hw hr hdue => ?_, fun w s r hw hr => ?_, fun w s hr => ?_, fun w o s r hw hr hc hdue => ⟨fun hl hd => ?_,
    fun hl => ?_⟩, fun w o s r hw hr hc hl hrec hdue => ?_⟩
  · rw [exec_cycleCompletion w o hw, markedSet_first w o hr, settleDue_of_not_due]
    · cases hs : s.strap <;> simp [runBegun, newRun, addSet, markTimeout, hs]
    · exact hdue
  · show Host.Outcome.next (if s.port.working then _ else s) = _
    rw [if_pos hw, hr]
    simp only [Option.map_some, addSet, satInc]
  · show Host.Outcome.next (if s.port.working then _ else s) = _
    rw [hr]
    split
    · rw [Option.map_none, ← hr]
    · rfl
  · rw [exec_cycleCompletion w o hw, markedSet_discard w o hr hc, discardCycle_early (s := runBegun w s) hl hd,
      settleDue_of_not_due]
    · rfl
    · exact hdue
  · rw [exec_cycleCompletion w o hw, markedSet_discard w o hr hc, discardCycle_lost (s := runBegun w s) hl,
      settleDue_of_not_due]
    · rfl
    · exact hdue
  · have haccept : acceptCycle o r (runBegun w s) = { s with
        store := computeStore s.settings r.sets r.clipped
        port := { s.port with
          run := some (newRun s.settings w), markTimer := some (markTimeout s.strap), discards := 0
          recovery := s.port.recovery + 1 } } := by
      have hlate : ¬10 ≤ s.port.recovery + 1 := by omega
      simp [acceptCycle, runBegun, hl, hlate]
    rw [exec_cycleCompletion w o hw, markedSet_accept w o hr hc, haccept, settleDue_of_not_due]
    exact hdue

/-- Settles O14. -/
theorem arithmeticExact : Obligations.ArithmeticExact := by
  refine ⟨fun n hn => ?_, fun n d hd => ?_, fun re im => ?_⟩
  · have : Nat.sqrt n < 2 ^ 20 := Nat.sqrt_lt.mpr (by omega)
    rw [isqrt_eq_min]
    omega
  · rw [natAbs_sub_roundDiv, natAbs_roundDiv]
    have hdiv := Nat.div_add_mod (2 * n.natAbs + d) (2 * d)
    have hmod := Nat.mod_lt (2 * n.natAbs + d) (show 0 < 2 * d by omega)
    generalize (2 * n.natAbs + d) / (2 * d) = q at *
    generalize (2 * n.natAbs + d) % (2 * d) = m at *
    rw [mul_assoc] at hdiv
    rw [← Nat.cast_mul]
    generalize d * q = p at *
    omega
  · obtain ⟨h1, h2, h3⟩ := tdiv_sixteen re
    obtain ⟨h4, h5, h6⟩ := tdiv_sixteen im
    exact ⟨h1, h2, h3, h4, h5, h6⟩

/-- Settles O9: what the probe leaves beside the stages is read off `endProbe_only`. -/
theorem probeTakesPositions : Obligations.ProbeTakesPositions := by
  intro s n hp
  have hexec : exec .presenceProbeEnd s = .next (endProbe s) := by
    show Host.Outcome.next (match s.phase with | .probing _ => endProbe s | _ => s) = _
    rw [hp]
  have hstage := endProbe_stage s
  have hconf (k : StageId) (h : s.configured k = true) := (hstage k).trans (if_pos h)
  obtain ⟨a, l, st, en, honly⟩ := endProbe_only s
  refine ⟨endProbe s, hexec, by rw [honly], fun k hk => ?_, fun k hk => ?_, fun k => ?_, by rw [honly], ?_⟩
  · rw [hstage, if_neg (by simp [hk])]
  · rw [hconf k hk]
    refine ⟨rfl, rfl, rfl, probeStage_position s k⟩
  · have hin : (endProbe s).inService = s.stageIds.filter fun k => probeState (s.inputs.get k) == .closed := by rw [honly]
    rw [hin, List.mem_filter, mem_stageIds]
    refine and_congr_right fun hk => ?_
    rw [hconf k hk]
    exact beq_iff_eq
  · have htime : 2 * ofSeconds s.settings.period = 2000 * s.settings.period := by unfold ofSeconds; omega
    rw [honly]
    refine ⟨?_, by dsimp only; rw [htime], rfl, rfl, rfl, rfl, rfl, rfl, rfl, rfl, rfl, rfl, rfl, rfl, rfl, rfl, rfl, rfl,
      rfl, rfl, rfl⟩
    cases s.strap <;> rfl

end Sys2Proof.Proofs
end

/-! ### Arriving frames -/

section
namespace Sys2Proof.Machine

theorem takeHead_eq {s : State} {want : Taken} {f : Frame} (h : s.head want = some f) (act : Frame → State → State) :
    takeHead want act s = freeHead (act f s) := by
  unfold takeHead
  rw [h]

theorem takeYard_refused {f : Frame} {s t : State} (h : judgeYard f s = (t, false)) (take : Frame → State → State) :
    takeYard take f s = t := by
  unfold takeYard
  rw [h]

theorem takeYard_accepted {f : Frame} {s t : State} (h : judgeYard f s = (t, true)) (take : Frame → State → State) :
    takeYard take f s = take f t := by
  unfold takeYard
  rw [h]

theorem takePanel_refused {f : Frame} {s t : State} (h : judgePanel f s = (t, false)) (serve : Order → State → State) :
    takePanel serve f s = t := by
  unfold takePanel
  rw [h]

theorem takePanel_accepted {f : Frame} {s t : State} (h : judgePanel f s = (t, true)) (serve : Order → State → State) :
    takePanel serve f s = judgeOrder f.order serve t := by
  unfold takePanel
  rw [h]

/-- R175: the record at the head of the ring is of the row asked for. -/
theorem head_eq_some {s : State} {want : Taken} {f : Frame} (h : s.head want = some f) :
    ∃ r rest, s.lc.ring = r :: rest ∧ classify r.bytes = want ∧ decodeFrame r.bytes = some f := by
  unfold State.head at h
  split at h
  · cases h
  next r rest hring =>
    split at h
    next hc => exact ⟨r, rest, hring, hc, h⟩
    next => cases h

/-- R176: the row that takes a yard's frame of a kind. -/
def Kind.row : Kind → Taken
  | .bulletin => .bulletin
  | .outcome => .outcome
  | .intent => .intent
  | .detail => .detail
  | .order => .frame

theorem classify_yard {bytes : List Byte} {f : Frame} (hd : decodeFrame bytes = some f) (hy : isYard f.sender = true) :
    classify bytes = f.kind.row := by
  simp only [classify, hd, hy, if_true]
  cases f.kind <;> rfl

theorem classify_panel {bytes : List Byte} {f : Frame} (hd : decodeFrame bytes = some f) (hy : isYard f.sender = false) :
    classify bytes = .frame ∨ classify bytes = .badOrder ∨ classify bytes = .order f.order.code := by
  simp only [classify, hd, hy, Bool.false_eq_true, if_false]
  split
  · split
    · exact .inr (.inr rfl)
    · exact .inr (.inl rfl)
  · exact .inl rfl

theorem Kind.row_of_yard {kind : Kind} (hk : kind ≠ .order) :
    kind.row ≠ .frame ∧ kind.row ≠ .badOrder ∧ ∀ code, kind.row ≠ .order code := by
  cases kind with
  | order => exact absurd rfl hk
  | _ => simp [Kind.row]

theorem Kind.row_inj {kind kind' : Kind} (h : kind.row = kind'.row) : kind = kind' := by
  cases kind <;> cases kind' <;> simp_all [Kind.row]

/-- R176: a frame in a row of yards is a yard's, of the row's kind. -/
theorem head_of_row {s : State} {kind : Kind} {f : Frame} (h : s.head kind.row = some f) (hk : kind ≠ .order) :
    isYard f.sender = true ∧ f.kind = kind := by
  obtain ⟨r, rest, -, hc, hd⟩ := head_eq_some h
  cases hy : isYard f.sender with
  | true =>
    rw [classify_yard hd hy] at hc
    exact ⟨rfl, Kind.row_inj hc⟩
  | false =>
    obtain ⟨hframe, hbad, horder⟩ := Kind.row_of_yard hk
    rcases classify_panel hd hy with hp | hp | hp <;> rw [hp] at hc
    · exact absurd hc.symm hframe
    · exact absurd hc.symm hbad
    · exact absurd hc.symm (horder _)

/-! ### Frames that are refused, and clashes -/

/-- R136: a duplicate and an out of date frame. -/
theorem judgeYard_stale {s : State} {f : Frame} {e : Peer} (ho : f.sender ≠ s.settings.station)
    (hk : findPeer f.sender s.pv.entries = some e) (hs : f.start = false) (hn : isNew (seqDiff f.seq e.lastSeq) = false) :
    judgeYard f s = (s, false) := by
  simp [judgeYard, ho, hk, hs, hn]

/-- R135. -/
theorem judgeYard_own {s : State} {f : Frame} (ho : f.sender = s.settings.station) :
    judgeYard f s = (numberClash s, false) := by
  simp [judgeYard, ho]

/-- R137: a yard that the Peer View does not hold. -/
theorem judgeYard_newcomer {s : State} {f : Frame} (ho : f.sender ≠ s.settings.station)
    (hk : findPeer f.sender s.pv.entries = none) : judgeYard f s =
    ({ s with pv := { s.pv with heard := if f.kind = .intent then s.pv.heard else heardAfter f s.pv.heard } }, true) := by
  unfold judgeYard heardAfter removeHeard
  rw [if_neg ho, hk]
  by_cases hs : f.start = true <;> by_cases hi : f.kind = .intent <;> simp [hs, hi]

/-- R138: a duplicate and an out of date frame of a panel. -/
theorem judgePanel_stale {s : State} {f : Frame} (hv : (s.pv.panels.getD (f.sender - 0x40) ⟨false, 0⟩).valid = true)
    (hs : f.start = false)
    (hn : isNew (seqDiff f.seq (s.pv.panels.getD (f.sender - 0x40) ⟨false, 0⟩).lastSeq) = false) :
    judgePanel f s = (s, false) := by
  unfold judgePanel
  dsimp only
  rw [hv, hs, hn]
  rfl

theorem judgePanel_new {s : State} {f : Frame} (h : (s.pv.panels.getD (f.sender - 0x40) ⟨false, 0⟩).valid = false ∨
    f.start = true ∨ isNew (seqDiff f.seq (s.pv.panels.getD (f.sender - 0x40) ⟨false, 0⟩).lastSeq) = true) :
    judgePanel f s = ({ s with pv := { s.pv with panels := s.pv.panels.set (f.sender - 0x40) ⟨true, f.seq⟩ } }, true) := by
  unfold judgePanel
  dsimp only
  rw [if_pos]
  rw [Bool.or_eq_true, Bool.or_eq_true, Bool.not_eq_true', or_assoc]
  exact h

theorem numberClash_only (s : State) : ∃ d, numberClash s = { s with
    pv := { s.pv with clash := some ((s.seconds + 60) % 2 ^ 32) }
    lc := { s.lc with triggerDelay := d, stats := { s.lc.stats with clash := satInc 255 s.lc.stats.clash } } } := by
  unfold numberClash triggerIf trigger
  split
  · split <;> exact ⟨_, rfl⟩
  · exact ⟨_, rfl⟩

/-- R135, R182: the setting of the flag is a bulletin trigger. -/
theorem numberClash_first {s : State} (h : s.pv.clash = none) : Triggered s (numberClash s) := by
  unfold numberClash triggerIf
  rw [if_pos (by simp [h])]
  exact trigger_triggered _

/-- R135, R182: a further clash is none. -/
theorem numberClash_further {s : State} (h : s.pv.clash.isSome = true) :
    (numberClash s).lc.triggerDelay = s.lc.triggerDelay := by
  unfold numberClash triggerIf
  rw [if_neg]
  simpa [Option.isSome_iff_ne_none] using h

/-- The rows that take a yard's frame, with their commands. -/
def yardRows : List (Instr × Taken) := [(.bulletinArrival, .bulletin), (.outcomeArrival, .outcome), (.intentArrival, .intent),
  (.detailArrival, .detail), (.frameArrival, .frame)]

/-- R134: a yard's frame that its judgement refuses is freed, whatever its row. -/
theorem exec_yard_refused {c : Instr} {want : Taken} (hc : (c, want) ∈ yardRows) {s t : State} {f : Frame}
    (hh : s.head want = some f) (hy : isYard f.sender = true) (hj : judgeYard f s = (t, false)) :
    exec c s = .next (freeHead t) := by
  have hnothing : takeNothing f s = t := by rw [takeNothing, if_pos hy, hj]
  simp only [yardRows, List.mem_cons, Prod.mk.injEq, List.not_mem_nil, or_false] at hc
  rcases hc with ⟨rfl, rfl⟩ | ⟨rfl, rfl⟩ | ⟨rfl, rfl⟩ | ⟨rfl, rfl⟩ | ⟨rfl, rfl⟩
  · exact congrArg _ ((takeHead_eq hh _).trans (congrArg freeHead (takeYard_refused hj _)))
  · exact congrArg _ ((takeHead_eq hh _).trans (congrArg freeHead (takeYard_refused hj _)))
  · exact congrArg _ ((takeHead_eq hh _).trans (congrArg freeHead (takeYard_refused hj _)))
  · exact congrArg _ ((takeHead_eq hh _).trans (congrArg freeHead (takeYard_refused hj _)))
  · exact congrArg _ ((takeHead_eq hh _).trans (congrArg freeHead hnothing))

/-- One of the ten orders, and whether its event ends with the chain steps that it has made due (log 14). -/
theorem exec_order (code : Nat) (h1 : 1 ≤ code) (h10 : code ≤ 10) : ∃ serve : Order → State → State, ∀ s : State,
    exec (orderCommand code) s = .next (takeOrder code serve s) ∨
    exec (orderCommand code) s = .next (settleDue (takeOrder code serve s)) := by
  interval_cases code
  · exact ⟨_, fun s => .inl rfl⟩
  · exact ⟨_, fun s => .inl rfl⟩
  · exact ⟨_, fun s => .inl rfl⟩
  · exact ⟨_, fun s => .inl rfl⟩
  · exact ⟨_, fun s => .inl rfl⟩
  · exact ⟨_, fun s => .inr rfl⟩
  · exact ⟨_, fun s => .inl rfl⟩
  · exact ⟨_, fun s => .inr rfl⟩
  · exact ⟨_, fun s => .inl rfl⟩
  · exact ⟨_, fun s => .inl rfl⟩

/-- R138: a panel's frame that its judgement refuses is freed, an ORDER among them. -/
theorem exec_panel_refused {c : Instr} {want : Taken} (hc : (c, want) = (.frameArrival, .frame) ∨
      (c, want) = (.badOrder, .badOrder) ∨ ∃ code, 1 ≤ code ∧ code ≤ 10 ∧ (c, want) = (orderCommand code, .order code))
    {s : State} {f : Frame} (hh : s.head want = some f) (hy : isYard f.sender = false) (hdue : s.stepDue = false)
    (hj : judgePanel f s = (s, false)) : exec c s = .next (freeHead s) := by
  have hnothing : takeNothing f s = s := by rw [takeNothing, if_neg (by simp [hy]), hj]
  rcases hc with hc | hc | ⟨code, h1, h10, hc⟩ <;> obtain ⟨rfl, rfl⟩ := Prod.mk.inj hc
  · exact congrArg _ ((takeHead_eq hh _).trans (congrArg freeHead hnothing))
  · exact congrArg _ ((takeHead_eq hh _).trans (congrArg freeHead (takePanel_refused hj _)))
  · obtain ⟨serve, hserve⟩ := exec_order code h1 h10
    have htaken : takeOrder code serve s = freeHead s :=
      (takeHead_eq hh _).trans (congrArg freeHead (takePanel_refused hj _))
    rcases hserve s with h | h
    · rw [h, htaken]
    · rw [h, htaken, settleDue_of_not_due (s := freeHead s) hdue]

/-! ### Sequence numbers -/

theorem isNew_seqDiff {seq last : Nat} (hs : seq < 256) (hl : last < 256) :
    isNew (seqDiff seq last) = true ↔ ∃ d, 1 ≤ d ∧ d ≤ 128 ∧ seq = (last + d) % 256 := by
  unfold isNew seqDiff
  rw [Bool.and_eq_true, decide_eq_true_eq, decide_eq_true_eq]
  constructor
  · rintro ⟨h1, h2⟩
    exact ⟨(seq + 256 - last % 256) % 256, h1, h2, by omega⟩
  · rintro ⟨d, h1, h2, rfl⟩
    omega

theorem seqDiff_eq_zero {seq last : Nat} (hs : seq < 256) (hl : last < 256) : seqDiff seq last = 0 ↔ seq = last := by
  unfold seqDiff
  omega

theorem seqDiff_add {last d : Nat} (hl : last < 256) (hd : d < 256) : seqDiff ((last + d) % 256) last = d := by
  unfold seqDiff
  omega

end Sys2Proof.Machine
end

section
namespace Sys2Proof.Proofs
open Machine

/-- Settles O41: the sequence numbers by their arithmetic, a refused frame by the judgement that refuses it. -/
theorem framesJudged : Obligations.FramesJudged := by
  refine ⟨fun seq last hs hl => ⟨isNew_seqDiff hs hl, seqDiff_eq_zero hs hl⟩, fun e d hl h1 h2 => ?_,
    fun c want s f e hc hh hy ho hk hs hn => ?_, fun c want s f hc hh hy hdue hv hs hn => ?_,
    fun c want s f hc hh hy ho => ?_⟩
  · rw [Peer.track, seqDiff_add hl (by omega)]
  · exact exec_yard_refused hc hh hy (judgeYard_stale ho hk hs hn)
  · exact exec_panel_refused hc hh hy hdue (judgePanel_stale hv hs hn)
  · refine ⟨freeHead (numberClash s), exec_yard_refused hc hh hy (judgeYard_own ho), ?_, fun hn => ?_, fun hn => ?_⟩
    · obtain ⟨d, h⟩ := numberClash_only s
      rw [h]
      rfl
    · exact numberClash_first hn
    · exact numberClash_further hn

end Sys2Proof.Proofs
end

/-! ### The peer entries -/

section
namespace Sys2Proof.Machine

/-- R136, R137: the state after the judgement of an accepted frame of a held yard. -/
def State.tracked (s : State) (f : Frame) : State :=
  { s with pv := { s.pv with
      heard := if f.kind = .intent then s.pv.heard else heardAfter f s.pv.heard
      entries := updatePeer f.sender (Peer.tracked f) s.pv.entries } }

/-- R142 to R144: an entry of the sender is updated on top of its tracking. -/
theorem tracked_modPeer (s : State) (f : Frame) (g : Peer → Peer) : (s.tracked f).modPeer f.sender g =
    { s with pv := { s.pv with
      heard := if f.kind = .intent then s.pv.heard else heardAfter f s.pv.heard
      entries := updatePeer f.sender (g ∘ Peer.tracked f) s.pv.entries } } := by
  unfold State.modPeer State.tracked
  dsimp only
  rw [updatePeer_updatePeer _ _ _ _ (Peer.tracked_station f)]

theorem tracked_known {s : State} {w : Taken} {f : Frame} {e : Peer} (h : YardTaken s w f e) :
    ∃ e', findPeer f.sender (s.tracked f).pv.entries = some e' :=
  findPeer_updatePeer _ _ (Peer.tracked_station f) _ _ h.known

theorem ofTenths_thirty (p : Nat) : ofTenths (30 * p) = 3000 * p := by unfold ofTenths; omega

theorem ofTenths_removal (p : Nat) : ofTenths (120 * p) = 12000 * p := by unfold ofTenths; omega

/-- A place of the view is kept by its own number alone. -/
theorem updatePeer_congr (n : Nat) {f g : Peer → Peer} (h : ∀ e, f e = g e) (l : List Peer) :
    updatePeer n f l = l.map fun e => if e.station = n then g e else e := by
  have : f = g := funext h
  rw [this, updatePeer]

/-- R140: the figure of an arriving frame. -/
theorem takeBulletin_known {s : State} {f : Frame} {e : Peer} (h : findPeer f.sender s.pv.entries = some e) :
    takeBulletin f s = s.modPeer f.sender fun e => { e.fresh with
      position := field f.body 3 2, period := max 4 (min 60 (byteAt f.body 2))
      figure := if field f.body 8 2 ≤ 2000 then some (field f.body 8 2) else none } := by
  unfold takeBulletin
  dsimp only
  rw [h]
  rfl

theorem takeBulletin_newcomer {s : State} {f : Frame} (h : findPeer f.sender s.pv.entries = none) :
    takeBulletin f s = enterPeer ⟨f.sender, field f.body 3 2, max 4 (min 60 (byteAt f.body 2)),
      if field f.body 8 2 ≤ 2000 then some (field f.body 8 2) else none, f.seq, 0, 0, false⟩ s := by
  unfold takeBulletin
  dsimp only
  rw [h]
  rfl

theorem entryOutcome_known {s : State} {f : Frame} {e : Peer} (h : findPeer f.sender s.pv.entries = some e) :
    entryOutcome f s = s.modPeer f.sender fun e => { e.fresh with
      position := field f.body 6 2, figure := if field f.body 4 2 ≤ 2000 then some (field f.body 4 2) else none } := by
  unfold entryOutcome
  dsimp only
  rw [h]
  rfl

theorem entryOutcome_newcomer {s : State} {f : Frame} (h : findPeer f.sender s.pv.entries = none) :
    entryOutcome f s = enterPeer ⟨f.sender, field f.body 6 2, s.settings.period,
      if field f.body 4 2 ≤ 2000 then some (field f.body 4 2) else none, f.seq, 0, 0, false⟩ s := by
  unfold entryOutcome
  dsimp only
  rw [h]
  rfl

theorem settleHeard_eq (sender number : Nat) (s : State) : settleHeard sender number s = { s with pv := { s.pv with
    heard := s.pv.heard.filter fun h => !(number != 0 && h.sender == sender && h.number == number) } } := by
  unfold settleHeard
  split
  next h => simp [h]
  next h =>
    have hn : (number != 0) = true := by simpa using h
    simp [hn]

theorem freeHead_eq (s : State) : freeHead s = { s with lc := { s.lc with ring := s.lc.ring.tail } } := rfl

end Sys2Proof.Machine
end

/-! ### Newcomers and the oldest STALE entry -/

section
namespace Sys2Proof.Machine

/-- R141: an entry gives way to no other when it is the older, or of one age and the lower number. -/
def Peer.yields (x m : Peer) : Prop :=
  x.ageMs / 100 < m.ageMs / 100 ∨ (x.ageMs / 100 = m.ageMs / 100 ∧ m.station ≤ x.station)

theorem Peer.yields_refl (m : Peer) : m.yields m := .inr ⟨rfl, le_refl _⟩

theorem Peer.yields_trans {x y m : Peer} (h : x.yields y) (h' : y.yields m) : x.yields m := by
  unfold Peer.yields at *
  omega

/-- R141: the better of the best so far and an entry. -/
def olderOf (best : Option Peer) (e : Peer) : Option Peer :=
  match best with
  | none => some e
  | some b =>
    if b.ageMs / 100 < e.ageMs / 100 ∨ (b.ageMs / 100 = e.ageMs / 100 ∧ e.station < b.station) then some e else some b

theorem oldestStale_eq (l : List Peer) : oldestStale l = (l.filter Peer.stale).foldl olderOf none := rfl

theorem foldl_olderOf (l : List Peer) (b : Peer) : ∃ m, l.foldl olderOf (some b) = some m ∧ m ∈ b :: l ∧
    ∀ x ∈ b :: l, x.yields m := by
  induction l generalizing b with
  | nil => exact ⟨b, rfl, by simp, by simp [Peer.yields_refl]⟩
  | cons e l ih =>
    rw [List.foldl_cons, olderOf]
    split
    next h =>
      obtain ⟨m, hm, hmem, hall⟩ := ih e
      have hb : b.yields e := by unfold Peer.yields; omega
      refine ⟨m, hm, List.mem_cons_of_mem _ hmem, fun x hx => ?_⟩
      rcases List.mem_cons.mp hx with rfl | hx
      · exact Peer.yields_trans hb (hall e (by simp))
      · exact hall x hx
    next h =>
      obtain ⟨m, hm, hmem, hall⟩ := ih b
      have he : e.yields b := by unfold Peer.yields; omega
      refine ⟨m, hm, ?_, fun x hx => ?_⟩
      · rcases List.mem_cons.mp hmem with rfl | hmem
        · simp
        · simp [hmem]
      · rcases List.mem_cons.mp hx with rfl | hx
        · exact hall x (by simp)
        · rcases List.mem_cons.mp hx with rfl | hx
          · exact Peer.yields_trans he (hall b (by simp))
          · exact hall x (by simp [hx])

/-- R141: with a STALE entry there is an oldest. -/
theorem oldestStale_spec (l : List Peer) : (oldestStale l = none ↔ ∀ x ∈ l, x.stale = false) ∧
    ∀ old, oldestStale l = some old → old ∈ l ∧ old.stale = true ∧ ∀ x ∈ l, x.stale = true → x.yields old := by
  rw [oldestStale_eq]
  have hmem (x : Peer) : x ∈ l.filter Peer.stale ↔ x ∈ l ∧ x.stale = true := List.mem_filter
  generalize l.filter Peer.stale = staleOnes at *
  cases staleOnes with
  | nil =>
    refine ⟨⟨fun _ x hx => ?_, fun _ => rfl⟩, fun old h => (by cases h)⟩
    rw [Bool.eq_false_iff]
    exact fun hs => List.not_mem_nil ((hmem x).mpr ⟨hx, hs⟩)
  | cons b rest =>
    obtain ⟨m, hm, hin, hall⟩ := foldl_olderOf rest b
    rw [List.foldl_cons, olderOf, hm]
    refine ⟨⟨fun h => (by cases h), fun h => ?_⟩, fun old h => ?_⟩
    · have hb := (hmem b).mp (by simp)
      rw [h b hb.1] at hb
      exact absurd hb.2 (by simp)
    · obtain rfl := Option.some.inj h
      have hold := (hmem m).mp hin
      exact ⟨hold.1, hold.2, fun x hx hs => hall x ((hmem x).mpr ⟨hx, hs⟩)⟩

theorem enterPeer_room {e : Peer} {s : State} (h : s.pv.entries.length < 12) :
    enterPeer e s = { s with pv := { s.pv with entries := s.pv.entries ++ [e] } } := by
  rw [enterPeer, if_pos h]

end Sys2Proof.Machine
end

/-! ### An arriving OUTCOME at the controller (R81), an INTENT at the own one (R160) -/

section
namespace Sys2Proof.Machine

theorem withdraw_nothing {s : State} (h : ∀ i, s.ix.own = some i → i.phase = .committed) (r : Reason) : withdraw r s = s := by
  unfold withdraw
  split
  · rfl
  next i hi =>
    split
    · rfl
    next hne => exact absurd (h i hi) hne

/-- R162: what the drop of the own intent leaves. -/
theorem dropIntent_keeps (i : Intent) (r : Reason) (s : State) : (dropIntent i r s).vc = s.vc ∧
    (dropIntent i r s).oi = s.oi ∧ (dropIntent i r s).ur = s.ur ∧ (dropIntent i r s).ix = { s.ix with own := none } ∧
    (dropIntent i r s).lc.outcomeSlot = some (withdrawalContent i r) ∧
    (dropIntent i r s).lc.triggerDelay = s.lc.triggerDelay := by
  simp [dropIntent, placeOutcome]

/-- R90: the withdrawals that leave the controller in QUIET. -/
def Reason.quiets : Reason → Prop
  | .precedence | .peerSwitched | .channelBusy | .overvoltage => True
  | _ => False

theorem afterWithdrawal_quiets {r : Reason} (hr : r.quiets) (s : State) : afterWithdrawal r s = enterQuiet s := by
  cases r with
  | precedence | peerSwitched | channelBusy | overvoltage => rfl
  | _ => exact hr.elim

theorem withdraw_quiets {i : Intent} {s : State} {r : Reason} (hr : r.quiets) (h : s.ix.own = some i)
    (hp : i.phase ≠ .committed) : withdraw r s = enterQuiet (dropIntent i r s) :=
  (withdraw_eq h hp r).trans (afterWithdrawal_quiets hr _)

/-- An arrival at the controller and at the own intent leaves these. -/
structure QuietKept (s t : State) : Prop where
  control : ControlOnly s t
  oi : t.oi = s.oi
  triggerDelay : t.lc.triggerDelay = s.lc.triggerDelay
  ring : t.lc.ring = s.lc.ring
  causes : t.vc.causes = s.vc.causes

theorem QuietKept.refl (s : State) : QuietKept s s := ⟨.refl s, rfl, rfl, rfl, rfl⟩

theorem QuietKept.trans {s t u : State} (h : QuietKept s t) (h' : QuietKept t u) : QuietKept s u :=
  ⟨h.control.trans h'.control, h'.oi.trans h.oi, h'.triggerDelay.trans h.triggerDelay, h'.ring.trans h.ring,
    h'.causes.trans h.causes⟩

theorem QuietKept.enterQuiet (s : State) : QuietKept s (enterQuiet s) := ⟨rfl, rfl, rfl, rfl, rfl⟩

theorem QuietKept.dropIntent (i : Intent) (r : Reason) (s : State) : QuietKept s (dropIntent i r s) := by
  obtain ⟨hvc, hoi, -, -, -, htrigger⟩ := dropIntent_keeps i r s
  exact ⟨dropIntent_control i r s, hoi, htrigger, (dropIntent_frame i r s).line.ring, by rw [hvc]⟩

/-- R162, R90: a withdrawal into QUIET, or of nothing. -/
theorem QuietKept.withdraw {r : Reason} (hr : r.quiets) (s : State) : QuietKept s (withdraw r s) := by
  by_cases h : ∃ i, s.ix.own = some i ∧ i.phase ≠ .committed
  · obtain ⟨i, hi, hp⟩ := h
    rw [withdraw_quiets hr hi hp]
    exact (QuietKept.dropIntent i r s).trans (.enterQuiet _)
  · rw [withdraw_nothing]
    · exact .refl s
    · intro i hi
      by_contra hp
      exact h ⟨i, hi, hp⟩

/-- R134, R175: an arrival that has changed the peer view alone before it reached the controller. -/
theorem QuietKept.arrival {s u t : State} (h : QuietKept u t) (hu : u = { s with pv := u.pv }) : ArrivalKept s (freeHead t) := by
  obtain ⟨hc, ho, ht, hr, hca⟩ := h
  rw [hu] at hc ho ht hr hca
  constructor
  case oi => exact ho
  case triggerDelay => exact ht
  case ring => exact congrArg List.tail hr
  case causes => exact hca
  case outputs => rw [hc]; exact ⟨rfl, rfl⟩
  all_goals rw [hc]; rfl

/-! ### The OUTCOME and the INTENT -/

theorem withinFar_iff (s : State) (p : Nat) : s.withinFar p = true ↔ distance p s.settings.position ≤ s.settings.farReach := by
  unfold State.withinFar
  exact decide_eq_true_iff

/-- R81: the peer settle starts with an EXECUTED switching of a peer within far reach. -/
def State.peerSwitched (s : State) : State :=
  { s with vc := { s.vc with peerSettle := some (ofSeconds s.settings.peerSettle) } }

theorem peerOutcome_ignored {result p : Nat} (d : Direction) {s : State}
    (h : result ≠ 1 ∨ s.settings.farReach < distance p s.settings.position) : peerOutcome result d p s = s := by
  refine if_neg fun hh => ?_
  have hfar := (withinFar_iff s p).mp hh.2
  rcases h with h | h
  · exact h hh.1
  · omega

theorem peerOutcome_taken {result p : Nat} (d : Direction) {s : State} (h1 : result = 1)
    (hf : distance p s.settings.position ≤ s.settings.farReach) :
    (s.vc.state = .watching → peerOutcome result d p s = enterQuiet s.peerSwitched) ∧
    (∀ i, s.vc.state = .proposing → s.ix.own = some i → i.dir = d →
      peerOutcome result d p s = withdraw .peerSwitched s.peerSwitched) ∧
    (s.vc.state = .quiet ∨ s.vc.state = .suspended ∨ s.vc.state = .executing ∨
      (s.vc.state = .proposing ∧ ∀ i, s.ix.own = some i → i.dir ≠ d) → peerOutcome result d p s = s.peerSwitched) := by
  have hcond : result = OutcomeResult.executed.code ∧ s.withinFar p = true := ⟨h1, (withinFar_iff s p).mpr hf⟩
  unfold peerOutcome
  rw [if_pos hcond]
  refine ⟨fun hs => ?_, fun i hs hi hd => ?_, fun hs => ?_⟩
  · rw [hs]; rfl
  · rw [hs, hi]
    exact if_pos hd
  · rcases hs with hs | hs | hs | ⟨hs, hd⟩
    · rw [hs]; rfl
    · rw [hs]; rfl
    · rw [hs]; rfl
    · rw [hs]
      cases hi : s.ix.own with
      | none => rfl
      | some i => exact if_neg (hd i hi)

theorem peerSwitched_kept (s : State) : QuietKept s s.peerSwitched := ⟨rfl, rfl, rfl, rfl, rfl⟩

theorem peerOutcome_kept (result : Nat) (d : Direction) (p : Nat) (s : State) : QuietKept s (peerOutcome result d p s) := by
  by_cases h : result = 1 ∧ distance p s.settings.position ≤ s.settings.farReach
  · obtain ⟨hw, hp, hk⟩ := peerOutcome_taken d h.1 h.2
    cases hs : s.vc.state with
    | watching => rw [hw hs]; exact (peerSwitched_kept s).trans (.enterQuiet _)
    | quiet => rw [hk (.inl hs)]; exact peerSwitched_kept s
    | suspended => rw [hk (.inr (.inl hs))]; exact peerSwitched_kept s
    | executing => rw [hk (.inr (.inr (.inl hs)))]; exact peerSwitched_kept s
    | proposing =>
      by_cases hi : ∃ i, s.ix.own = some i ∧ i.dir = d
      · obtain ⟨i, hi, hd⟩ := hi
        rw [hp i hs hi hd]
        exact (peerSwitched_kept s).trans (.withdraw (r := .peerSwitched) trivial _)
      · rw [hk (.inr (.inr (.inr ⟨hs, fun i h1 h2 => hi ⟨i, h1, h2⟩⟩)))]
        exact peerSwitched_kept s
  · rw [peerOutcome_ignored d]
    · exact .refl s
    · omega

/-- R162, R90: a withdrawal into QUIET. -/
theorem withdraw_quiet {i : Intent} {s : State} {r : Reason} (hr : r.quiets) (h : s.ix.own = some i) (hp : i.phase ≠ .committed) :
    (withdraw r s).vc.state = .quiet ∧ (withdraw r s).vc.low = 0 ∧ (withdraw r s).vc.high = 0 ∧
    (withdraw r s).ix = { s.ix with own := none } ∧ (withdraw r s).lc.outcomeSlot = some (withdrawalContent i r) := by
  obtain ⟨-, -, -, hix, hslot, -⟩ := dropIntent_keeps i r s
  rw [withdraw_quiets hr h hp]
  exact ⟨rfl, rfl, rfl, hix, hslot⟩

/-- R81: whatever the controller does, its peer settle starts. -/
theorem peerOutcome_settle {result p : Nat} (d : Direction) {s : State} (h1 : result = 1)
    (hf : distance p s.settings.position ≤ s.settings.farReach) :
    (peerOutcome result d p s).vc.peerSettle = some (ofSeconds s.settings.peerSettle) := by
  obtain ⟨hw, hp, hk⟩ := peerOutcome_taken d h1 hf
  by_cases hwatch : s.vc.state = .watching
  · rw [hw hwatch]; rfl
  by_cases hprop : ∃ i, s.vc.state = .proposing ∧ s.ix.own = some i ∧ i.dir = d
  · obtain ⟨i, hs, hi, hd⟩ := hprop
    rw [hp i hs hi hd]
    exact (withdraw_frame _ _).control.peerSettle
  · rw [hk]
    · rfl
    · cases hs : s.vc.state with
      | watching => exact absurd hs hwatch
      | proposing => exact .inr (.inr (.inr ⟨rfl, fun i hi hd => hprop ⟨i, hs, hi, hd⟩⟩))
      | quiet | suspended | executing => simp

theorem hasPrecedence_iff (s : State) (sender p : Nat) : s.hasPrecedence sender p = true ↔
    s.settings.position < p ∨ (p = s.settings.position ∧ s.settings.station < sender) := by
  simp [State.hasPrecedence]

/-- R81: an OUTCOME taken with the peer view alone changed before it. -/
theorem peerOutcome_switching (result : Nat) (d : Direction) (p : Nat) {s u : State} (hu : u = { s with pv := u.pv }) :
    PeerSwitchingTaken result d p s (freeHead (peerOutcome result d p u)) := by
  have hvc : u.vc = s.vc := by rw [hu]
  have hix : u.ix = s.ix := by rw [hu]
  have hlc : u.lc = s.lc := by rw [hu]
  have hset : u.settings = s.settings := by rw [hu]
  constructor
  case ignored =>
    intro h
    rw [peerOutcome_ignored d (by rw [hset]; exact h)]
    exact ⟨hvc, hix, by rw [freeHead_eq, hlc]⟩
  case settle =>
    intro h1 hf
    rw [← hset] at hf
    rw [← hset]
    exact peerOutcome_settle d h1 hf
  case watching =>
    intro h1 hf hs
    rw [← hset] at hf
    rw [(peerOutcome_taken d h1 hf).1 (hvc ▸ hs), ← hix, ← hset]
    exact ⟨rfl, rfl, rfl, rfl, rfl⟩
  case withdrawn =>
    intro i h1 hf hs hi hp hd
    rw [← hset] at hf
    rw [(peerOutcome_taken d h1 hf).2.1 i (hvc ▸ hs) (hix ▸ hi) hd]
    have hi' : u.peerSwitched.ix.own = some i := (congrArg Exchange.own hix).trans hi
    have hw := withdraw_quiet (r := .peerSwitched) trivial hi' hp
    rw [← hix]
    exact hw
  case kept =>
    intro h1 hf hs
    rw [← hset] at hf
    rw [(peerOutcome_taken d h1 hf).2.2 (by rw [hvc, hix]; exact hs), ← hix, ← hset, ← hvc, ← hlc]
    exact ⟨rfl, rfl, rfl⟩

/-- R160: the heard intent withdraws the own one. -/
theorem judgePrecedence_withdraws {h : Heard} {s : State} {i : Intent} (hi : s.ix.own = some i) (hd : i.dir = h.dir)
    (hf : distance h.position s.settings.position ≤ s.settings.farReach)
    (hp : s.settings.position < h.position ∨ (h.position = s.settings.position ∧ s.settings.station < h.sender)) :
    judgePrecedence h s = withdraw .precedence s := by
  unfold judgePrecedence
  rw [hi]
  exact if_pos ⟨hd, (withinFar_iff s _).mpr hf, (hasPrecedence_iff s _ _).mpr hp⟩

/-- R160: a heard intent without precedence leaves the own one. -/
theorem judgePrecedence_kept {h : Heard} {s : State} (hk : ∀ i, s.ix.own = some i → i.phase = .committed ∨ i.dir ≠ h.dir ∨
      s.settings.farReach < distance h.position s.settings.position ∨ h.position < s.settings.position ∨
      (h.position = s.settings.position ∧ h.sender ≤ s.settings.station)) : judgePrecedence h s = s := by
  unfold judgePrecedence
  split
  · rfl
  next i hi =>
    split
    next hc =>
      obtain ⟨hd, hf, hp⟩ := hc
      rw [withinFar_iff] at hf
      rw [hasPrecedence_iff] at hp
      refine withdraw_nothing (fun j hj => ?_) _
      rcases hk j hj with hcomm | hdir | hrest
      · exact hcomm
      · obtain rfl := Option.some.inj (hi.symm.trans hj)
        exact absurd hd hdir
      · omega
    next => rfl

theorem judgePrecedence_quiet (h : Heard) (s : State) : QuietKept s (judgePrecedence h s) := by
  unfold judgePrecedence
  split
  · exact .refl s
  · split
    · exact .withdraw (r := .precedence) trivial s
    · exact .refl s

theorem judgePrecedence_judged (h : Heard) {s u : State} (hu : u = { s with pv := u.pv }) :
    PrecedenceJudged h s (freeHead (judgePrecedence h u)) := by
  have hvc : u.vc = s.vc := by rw [hu]
  have hix : u.ix = s.ix := by rw [hu]
  have hlc : u.lc = s.lc := by rw [hu]
  have hset : u.settings = s.settings := by rw [hu]
  constructor
  case withdrawn =>
    intro i hi hp hd hf hprec
    rw [← hset] at hf hprec
    rw [← hix] at hi ⊢
    rw [judgePrecedence_withdraws hi hd hf hprec]
    obtain ⟨hstate, hlow, hhigh, hown, hslot⟩ := withdraw_quiet (r := .precedence) trivial hi hp
    exact ⟨hown, hstate, hlow, hhigh, hslot⟩
  case kept =>
    intro hk
    rw [← hset, ← hix] at hk
    rw [judgePrecedence_kept hk, ← hix, ← hvc, ← hlc]
    exact ⟨rfl, rfl, rfl⟩

/-! ### The heard intents (R146) -/

theorem filter_ne_length {l : List Heard} {n : Nat} :
    (l.filter fun x => x.sender ≠ n).length = l.length ↔ ∀ x ∈ l, x.sender ≠ n := by
  rw [List.length_filter_eq_length_iff]
  simp

theorem recordIntent_replaces {h : Heard} {l : List Heard} (hx : ∃ x ∈ l, x.sender = h.sender) :
    recordIntent h l = l.filter (·.sender ≠ h.sender) ++ [h] := by
  unfold recordIntent
  dsimp only
  rw [if_neg]
  rintro ⟨hlen, -⟩
  obtain ⟨x, hx, hs⟩ := hx
  exact filter_ne_length.mp hlen x hx hs

theorem recordIntent_appends {h : Heard} {l : List Heard} (hx : ∀ x ∈ l, x.sender ≠ h.sender) :
    recordIntent h l = (if 4 ≤ l.length then l.drop 1 else l) ++ [h] := by
  unfold recordIntent
  have hall : (l.filter fun x => x.sender ≠ h.sender) = l := List.filter_eq_self.mpr (by simpa using hx)
  dsimp only
  rw [hall]
  simp

theorem mem_recordIntent (h : Heard) (l : List Heard) : h ∈ recordIntent h l := by
  unfold recordIntent
  exact List.mem_append_right _ (List.mem_singleton_self h)

end Sys2Proof.Machine
end

/-! ### The arrivals by their rows (R134) -/

section
namespace Sys2Proof.Machine

/-- R134: an accepted frame of a held yard is taken on its tracking. -/
theorem takeHead_tracked {s : State} {want : Taken} {f : Frame} {e : Peer} (h : YardTaken s want f e)
    (take : Frame → State → State) : takeHead want (takeYard take) s = freeHead (take f (s.tracked f)) :=
  (takeHead_eq h.head _).trans (congrArg freeHead (takeYard_accepted (judgeYard_taken s want f e h) take))

/-- R137: the state after the judgement of a newcomer's frame. -/
def State.entering (s : State) (f : Frame) : State :=
  { s with pv := { s.pv with heard := if f.kind = .intent then s.pv.heard else heardAfter f s.pv.heard } }

theorem takeHead_entering {s : State} {want : Taken} {f : Frame} (h : s.head want = some f) (ho : f.sender ≠ s.settings.station)
    (hk : findPeer f.sender s.pv.entries = none) (take : Frame → State → State) :
    takeHead want (takeYard take) s = freeHead (take f (s.entering f)) :=
  (takeHead_eq h _).trans (congrArg freeHead (takeYard_accepted (judgeYard_newcomer ho hk) take))

/-- R137: the heard intents after the judgement of a frame that is no INTENT. -/
theorem tracked_eq (s : State) {f : Frame} (hk : f.kind ≠ .intent) : s.tracked f = { s with pv := { s.pv with
    heard := heardAfter f s.pv.heard
    entries := s.pv.entries.map fun e => if e.station = f.sender then e.tracked f else e } } := by
  rw [State.tracked, if_neg hk]
  rfl

theorem tracked_modPeer_eq (s : State) {f : Frame} (hk : f.kind ≠ .intent) (g : Peer → Peer) :
    (s.tracked f).modPeer f.sender g = { s with pv := { s.pv with
      heard := heardAfter f s.pv.heard
      entries := s.pv.entries.map fun e => if e.station = f.sender then g (e.tracked f) else e } } := by
  rw [tracked_modPeer, if_neg hk]
  rfl

theorem tracked_modPeer_intent (s : State) {f : Frame} (hk : f.kind = .intent) (g : Peer → Peer) :
    (s.tracked f).modPeer f.sender g = { s with pv := { s.pv with
      entries := s.pv.entries.map fun e => if e.station = f.sender then g (e.tracked f) else e } } := by
  rw [tracked_modPeer, if_pos hk]
  rfl

theorem entering_eq (s : State) {f : Frame} (hk : f.kind ≠ .intent) :
    s.entering f = { s with pv := { s.pv with heard := heardAfter f s.pv.heard } } := by
  rw [State.entering, if_neg hk]

theorem entering_intent (s : State) {f : Frame} (hk : f.kind = .intent) : s.entering f = s := by
  rw [State.entering, if_pos hk]

theorem entering_unknown {s : State} {f : Frame} {n : Nat} (h : findPeer n s.pv.entries = none) :
    findPeer n (s.entering f).pv.entries = none := h

theorem entering_room {s : State} {f : Frame} (h : s.pv.entries.length < 12) : (s.entering f).pv.entries.length < 12 := h

/-- A station that the view does not hold has no entry to change. -/
theorem modPeer_unknown {s : State} {n : Nat} (h : findPeer n s.pv.entries = none) (g : Peer → Peer) : s.modPeer n g = s := by
  have hne : ∀ e ∈ s.pv.entries, e.station ≠ n := by
    intro e he
    simpa using List.find?_eq_none.mp h e he
  have hmap : updatePeer n g s.pv.entries = s.pv.entries :=
    (List.map_congr_left fun e he => if_neg (hne e he)).trans (List.map_id _)
  rw [State.modPeer, hmap]

/-- R140, R141: a newcomer's entry changes the peer view alone. -/
theorem enterPeer_only (e : Peer) (s : State) : enterPeer e s = { s with pv := (enterPeer e s).pv } := by
  unfold enterPeer
  split
  · rfl
  · split <;> rfl

theorem recordHeard_head {s : State} {r : Record} {rest : List Record} (hr : s.lc.ring = r :: rest)
    (hd : decodeFrame r.bytes = none) : s.headFormat = true := by
  rw [State.headFormat, hr]
  simp [classify, hd]

theorem takePanel_nothing {s : State} {f : Frame} (hy : isYard f.sender = false) {t : State}
    (hj : judgePanel f s = (t, true)) : takeNothing f s = t := by
  rw [takeNothing, if_neg (by simp [hy]), hj]

theorem takeYard_nothing {s : State} {want : Taken} {f : Frame} {e : Peer} (h : YardTaken s want f e)
    (hy : isYard f.sender = true) : takeNothing f s = s.tracked f := by
  rw [takeNothing, if_pos hy, judgeYard_taken s want f e h]
  rfl

/-- R142 to R144: an entry that a frame has refreshed is younger than any limit. -/
theorem fresh_age {e : Peer} (h : 1 ≤ e.period) : e.fresh.age = e.fresh ∧ e.fresh.ageMs < removalAge e.period := by
  have hage : e.fresh.ageMs = 0 := rfl
  have hperiod : e.fresh.period = e.period := rfl
  constructor
  · rw [Peer.age, if_neg]
    rw [hperiod, hage, staleAge, ofTenths_thirty]
    omega
  · rw [hage, removalAge, ofTenths_removal]
    omega

/-- R145: what the ageing of a station's entry leaves. -/
theorem age_entries (s : State) (n : Nat) : s.modPeer n Peer.age = { s with pv := { s.pv with
    entries := s.pv.entries.map fun e => if e.station = n ∧ 3000 * e.period ≤ e.ageMs then { e with stale := true } else e } } := by
  have hmap : updatePeer n Peer.age s.pv.entries =
      s.pv.entries.map fun e => if e.station = n ∧ 3000 * e.period ≤ e.ageMs then { e with stale := true } else e := by
    refine List.map_congr_left fun e _ => ?_
    rw [Peer.age, staleAge, ofTenths_thirty]
    by_cases h : e.station = n <;> simp [h]
  rw [State.modPeer, hmap]

/-- R182: a trigger starts the trigger delay at most. -/
theorem trigger_delay (s : State) : ∃ d, trigger s = { s with lc := { s.lc with triggerDelay := d } } := by
  unfold trigger
  split <;> exact ⟨_, rfl⟩

theorem lifetime_pos (h : Nat) : lifetime h ≠ 0 := by
  unfold lifetime ofTenths
  omega

end Sys2Proof.Machine
end

section
namespace Sys2Proof.Proofs
open Machine

/-- Settles O42: the judged frame's entry, or the newcomer's place. -/
theorem bulletinTaken : Obligations.BulletinTaken := by
  refine ⟨fun s f e h => ?_, fun s f hh ho hk hroom => ?_⟩
  · obtain ⟨e', he'⟩ := tracked_known h
    have hkind : f.kind ≠ .intent := by rw [(head_of_row (kind := .bulletin) h.head (by decide)).2]; decide
    refine congrArg _ ((takeHead_tracked h takeBulletin).trans ?_)
    rw [takeBulletin_known he', tracked_modPeer_eq s hkind]
    rfl
  · have hkind : f.kind ≠ .intent := by rw [(head_of_row (kind := .bulletin) hh (by decide)).2]; decide
    refine congrArg _ ((takeHead_entering hh ho hk takeBulletin).trans ?_)
    rw [takeBulletin_newcomer (entering_unknown hk), enterPeer_room (entering_room hroom), entering_eq s hkind]
    rfl

/-- Settles O44: the entry and the heard intents first, then the controller, which no peer view reaches. -/
theorem outcomeTaken : Obligations.OutcomeTaken := by
  intro s f e h
  obtain ⟨e', he'⟩ := tracked_known h
  have hkind : f.kind ≠ .intent := by rw [(head_of_row (kind := .outcome) h.head (by decide)).2]; decide
  refine ⟨_, congrArg Host.Outcome.next (takeHead_tracked h takeOutcome), ?_⟩
  rw [takeOutcome, entryOutcome_known he', tracked_modPeer_eq s hkind, settleHeard_eq]
  refine ⟨?_, peerOutcome_switching _ _ _ rfl, (peerOutcome_kept _ _ _ _).arrival rfl⟩
  exact (congrArg State.pv (peerOutcome_kept _ _ _ _).control).trans rfl

/-- Settles O46: the judgement alone, by the kind of the frame. -/
theorem otherFramesTaken : Obligations.OtherFramesTaken := by
  refine ⟨fun s f e h => ?_, fun s f e h hy hkind => ?_, fun s f hh hy hn => ?_, fun s r rest hr hd => ?_⟩
  · have hkind : f.kind ≠ .intent := by rw [(head_of_row (kind := .detail) h.head (by decide)).2]; decide
    refine congrArg _ ((takeHead_tracked h takeDetail).trans ?_)
    rw [takeDetail, tracked_modPeer_eq s hkind]
    rfl
  · refine congrArg _ ((takeHead_eq h.head takeNothing).trans ?_)
    rw [takeYard_nothing h hy, tracked_eq s hkind]
    rfl
  · exact congrArg _ ((takeHead_eq hh takeNothing).trans (congrArg freeHead (takePanel_nothing hy (judgePanel_new hn))))
  · refine congrArg _ ((if_pos (recordHeard_head hr hd)).trans ?_)
    rw [freeHead_eq, hr]
    rfl

/-- Settles O45: the record of the sender first, then its judgement against the own intent. -/
theorem intentTaken : Obligations.IntentTaken := by
  refine ⟨fun h l => ⟨fun hx => recordIntent_replaces hx, fun hx hlen => ?_, fun oldest rest hx hl hlen => ?_⟩,
    fun s f e h h0 => ?_, fun s f e h h0 => ?_⟩
  · rw [recordIntent_appends hx, if_neg (by omega)]
  · rw [recordIntent_appends hx, if_pos (by omega), hl]
    rfl
  all_goals have hkind : f.kind = .intent := (head_of_row (kind := .intent) h.head (by decide)).2
  · refine congrArg _ ((takeHead_tracked h takeIntent).trans ?_)
    rw [takeIntent, tracked_modPeer_intent s hkind]
    exact congrArg freeHead (if_pos h0)
  · refine ⟨_, congrArg Host.Outcome.next (takeHead_tracked h takeIntent), ?_⟩
    rw [takeIntent, tracked_modPeer_intent s hkind]
    dsimp only
    rw [if_neg (show ¬(heardOf f (s.tracked f).tenths).number = 0 from h0)]
    refine ⟨?_, judgePrecedence_judged _ rfl, (judgePrecedence_quiet _ _).arrival rfl⟩
    exact (congrArg State.pv (judgePrecedence_quiet _ _).control).trans rfl

/-- Settles O43: the place of a newcomer; then each kind of frame of a yard that is not held. -/
theorem newcomersEntered : Obligations.NewcomersEntered := by
  refine ⟨fun e s => ⟨fun h => enterPeer_room h, fun old h hold => ?_, fun h hold => ?_⟩,
    fun l => oldestStale_spec l, fun s f hh ho hk => ?_, fun s f hh ho hk => ?_, fun s f ho hk => ⟨fun hh h0 => ?_, fun hh h0 => ?_, fun hh => ?_⟩⟩
  · rw [enterPeer, if_neg (by omega), hold]
    rfl
  · rw [enterPeer, if_neg (by omega), hold]
  · have hkind : f.kind ≠ .intent := by rw [(head_of_row (kind := .bulletin) hh (by decide)).2]; decide
    refine congrArg _ ((takeHead_entering hh ho hk takeBulletin).trans ?_)
    rw [takeBulletin_newcomer (entering_unknown hk), entering_eq s hkind]
  · have hkind : f.kind ≠ .intent := by rw [(head_of_row (kind := .outcome) hh (by decide)).2]; decide
    refine ⟨_, congrArg Host.Outcome.next (takeHead_entering hh ho hk takeOutcome), ?_⟩
    rw [takeOutcome, entryOutcome_newcomer (entering_unknown hk), entering_eq s hkind, enterPeer_only, settleHeard_eq]
    refine ⟨?_, peerOutcome_switching _ _ _ rfl, (peerOutcome_kept _ _ _ _).arrival rfl⟩
    exact (congrArg State.pv (peerOutcome_kept _ _ _ _).control).trans rfl
  · have hkind : f.kind = .intent := (head_of_row (kind := .intent) hh (by decide)).2
    refine ⟨_, congrArg Host.Outcome.next (takeHead_entering hh ho hk takeIntent), ?_⟩
    rw [entering_intent s hkind, takeIntent, modPeer_unknown hk]
    dsimp only
    rw [if_neg (show ¬(heardOf f s.tenths).number = 0 from h0)]
    refine ⟨?_, judgePrecedence_judged _ rfl, (judgePrecedence_quiet _ _).arrival rfl⟩
    exact (congrArg State.pv (judgePrecedence_quiet _ _).control).trans rfl
  · have hkind : f.kind = .intent := (head_of_row (kind := .intent) hh (by decide)).2
    refine congrArg _ ((takeHead_entering hh ho hk takeIntent).trans ?_)
    rw [entering_intent s hkind, takeIntent, modPeer_unknown hk]
    exact congrArg freeHead (if_pos h0)
  · have hkind : f.kind ≠ .intent := by rw [(head_of_row (kind := .detail) hh (by decide)).2]; decide
    refine congrArg _ ((takeHead_entering hh ho hk takeDetail).trans ?_)
    rw [takeDetail, modPeer_unknown (entering_unknown hk), entering_eq s hkind]
    rfl

/-- Settles O47: each expiry by its own limit. -/
theorem peerAgesEnd : Obligations.PeerAgesEnd := by
  refine ⟨fun s n => ?_, fun s n e he => ?_, fun e h => fresh_age h, fun s n => rfl, fun l f now => ?_, fun s at' h => ?_⟩
  · exact congrArg _ (age_entries s n.toNat)
  · show execPeerRemoval n s = _
    unfold execPeerRemoval removalAge
    rw [he]
    dsimp only
    rw [ofTenths_removal]
    rfl
  · refine List.mem_filter.mpr ⟨mem_recordIntent _ _, ?_⟩
    have hleft : (heardOf f now).left ≠ 0 := lifetime_pos _
    simp [hleft]
  · obtain ⟨d, hd⟩ := trigger_delay { s with pv := { s.pv with clash := none } }
    have hexec : exec .numberClashExpiry s = .next (trigger { s with pv := { s.pv with clash := none } }) := by
      show execNumberClashExpiry s = _
      rw [execNumberClashExpiry, if_pos (by rw [h]; rfl)]
    refine ⟨_, hexec, trigger_triggered { s with pv := { s.pv with clash := none } }, ?_⟩
    rw [hd]

end Sys2Proof.Proofs
end

/-! ### Start edge, medium idle, carrier detect; the LFSR -/

section
namespace Sys2Proof.Machine

/-- R179: a deferral that is stopped waits again. -/
def Access.stopped : Access → Access
  | .deferring _ _ => .waiting
  | a => a

theorem stopDeferral_eq (l : LineChannel) : l.stopDeferral = { l with access := l.access.stopped } := by
  unfold LineChannel.stopDeferral
  split
  next h => rw [h]; rfl
  next h =>
    have hs : l.access.stopped = l.access := by
      cases ha : l.access with
      | deferring r n => exact absurd ha (h r n)
      | _ => rfl
    rw [hs]

theorem deferralTime_eq (r : Nat) : deferralTime r = 60 * r := by
  unfold deferralTime
  omega

/-- R179: a draw by its numbers. -/
theorem draw_eq (l : LineChannel) : l.draw = { l with
    lfsr := lfsrDraw l.lfsr
    access := .deferring ((lfsrDraw l.lfsr).toNat % 16) (60 * ((lfsrDraw l.lfsr).toNat % 16)) } := by
  rw [LineChannel.draw, deferralTime_eq]
  rfl

/-- R179: a step of a nonzero LFSR that shifts a 1 out sets its top bit; one that shifts a 0 out keeps the others. -/
theorem lfsrStep_ne_zero {r : BitVec 16} (h : r ≠ 0) : lfsrStep r ≠ 0 := by
  unfold lfsrStep
  intro hz
  split at hz
  next hb =>
    have htop := congrArg (fun x : BitVec 16 => x.getLsbD 15) hz
    simp at htop
  next hb =>
    have hlow : r.toNat % 2 = 0 := by
      rw [BitVec.getLsbD, Nat.testBit_zero, decide_eq_true_iff] at hb
      omega
    have hshift : r.toNat / 2 = 0 := by
      have hn := congrArg BitVec.toNat hz
      rw [BitVec.toNat_ushiftRight, Nat.shiftRight_one] at hn
      exact hn
    refine h (BitVec.eq_of_toNat_eq ?_)
    show r.toNat = 0
    omega

theorem lfsrDraw_ne_zero {r : BitVec 16} (h : r ≠ 0) : lfsrDraw r ≠ 0 :=
  lfsrStep_ne_zero (lfsrStep_ne_zero (lfsrStep_ne_zero (lfsrStep_ne_zero h)))

end Sys2Proof.Machine
end

section
namespace Sys2Proof.Proofs
open Machine

/-- Settles O35: what stops a deferral, what draws one, and that a draw keeps the LFSR off 0. -/
theorem lineEventsTaken : Obligations.LineEventsTaken := by
  refine ⟨fun s hr hc => ?_, fun s h => ?_, fun s => ?_, fun s => rfl, fun r h => lfsrDraw_ne_zero h⟩
  · show execStartEdge s = _
    rw [execStartEdge, if_pos (by rw [hr, hc]; rfl), stopDeferral_eq]
    cases s.lc.access <;> rfl
  · show execMediumIdle s = _
    rw [execMediumIdle, if_pos h, draw_eq]
    rfl
  · show execCarrierDetectChange true s = _
    rw [execCarrierDetectChange, if_pos rfl, stopDeferral_eq]
    cases s.lc.access <;> rfl

end Sys2Proof.Proofs
end

/-! ### The characters (R172) -/

section
namespace Sys2Proof.Machine

/-- R172: from the end of a bit, sixteen sub-samples of one level are the next bit. -/
theorem runChar_bit {i : Nat} (hi : i < 8) (l b noisy : Bool) (bits : List Bool) (rest : List Bool) :
    runChar ⟨i, 15, l, bits, noisy⟩ (List.replicate 16 b ++ rest) =
      runChar ⟨i + 1, 15, b, bits ++ [b], noisy⟩ rest := by
  have hbit : i + 1 ≤ 8 := hi
  by_cases hb : b = l <;> simp [List.replicate, runChar, charStep, placeSample, nextPlace, hb, hbit]

theorem runChar_bits (bs : List Bool) {i : Nat} (hi : i + bs.length ≤ 8) (l noisy : Bool) (bits : List Bool)
    (rest : List Bool) : ∃ l', runChar ⟨i, 15, l, bits, noisy⟩ (bs.flatMap (List.replicate 16) ++ rest) =
      runChar ⟨i + bs.length, 15, l', bits ++ bs, noisy⟩ rest := by
  induction bs generalizing i l bits with
  | nil => exact ⟨l, by simp⟩
  | cons b bs ih =>
    rw [List.length_cons] at hi
    obtain ⟨l', h⟩ := ih (i := i + 1) (by omega) b (bits ++ [b])
    refine ⟨l', ?_⟩
    rw [List.flatMap_cons, List.append_assoc, runChar_bit (by omega), h, List.length_cons, List.append_assoc]
    rw [show i + 1 + bs.length = i + (bs.length + 1) by omega]
    rfl

theorem runChar_start (rest : List Bool) :
    runChar .atEdge (List.replicate 15 false ++ rest) = runChar ⟨0, 15, false, [], false⟩ rest := by
  simp [List.replicate, runChar, charStep, placeSample, nextPlace, CharState.atEdge]

/-- R172: the stop bit, read at mark, ends the character. -/
theorem runChar_stop (l noisy : Bool) (bits : List Bool) : runChar ⟨8, 15, l, bits, noisy⟩ (List.replicate 9 true) =
    some (.ended (bitsValue bits) noisy false, true, 0) := by
  cases l <;> simp [List.replicate, runChar, charStep, placeSample, nextPlace]

theorem bitsValue_testBit (n x : Nat) : bitsValue ((List.range n).map x.testBit) = x % 2 ^ n := by
  induction n generalizing x with
  | zero => simp [bitsValue, Nat.mod_one]
  | succ n ih =>
    have htail : (List.range n).map (x.testBit ∘ Nat.succ) = (List.range n).map (x / 2).testBit :=
      List.map_congr_left fun i _ => Nat.testBit_succ x i
    rw [List.range_succ_eq_map, List.map_cons, List.map_map, htail, bitsValue, ih, pow_succ', Nat.mod_mul, Nat.testBit_zero]
    rcases Nat.mod_two_eq_zero_or_one x with h | h <;> simp [h]

/-- R172: a clean character is received as its byte. -/
theorem runChar_clean (b : Byte) : runChar .atEdge (cleanSamples b) = some (.ended b.toNat false false, true, 0) := by
  have hvalue : bitsValue ((List.range 8).map b.toNat.testBit) = b.toNat :=
    (bitsValue_testBit 8 _).trans (Nat.mod_eq_of_lt b.isLt)
  have hbits : ((List.range 8).flatMap fun i => List.replicate 16 (b.getLsbD i)) =
      ((List.range 8).map b.toNat.testBit).flatMap (List.replicate 16) := (List.flatMap_map ..).symm
  obtain ⟨l, h⟩ := runChar_bits ((List.range 8).map b.toNat.testBit) (i := 0) (by simp) false false []
    (List.replicate 9 true)
  rw [cleanSamples, List.append_assoc, runChar_start, hbits, h]
  exact (runChar_stop l false _).trans (by rw [List.nil_append, hvalue])

end Sys2Proof.Machine
end

/-! ### The frames received (R173 to R175) -/

section
namespace Sys2Proof.Machine

/-- Table 9-2, check by check. -/
theorem checkFrame_iff (a : Assembly) :
    let clean := a.noisy = false ∧ a.framing = false
    let fits := clean ∧ 7 ≤ a.count ∧ a.count ≤ 103 ∧ byteAt a.bytes 4 = a.count - 7
    let crc := crc16 (a.bytes.take (a.count - 2)) = field a.bytes (a.count - 2) 2
    (checkFrame a = .noise ↔ a.noisy = true) ∧
    (checkFrame a = .framing ↔ a.noisy = false ∧ a.framing = true) ∧
    (checkFrame a = .long ↔ clean ∧ 103 < a.count) ∧
    (checkFrame a = .format ↔ clean ∧ a.count ≤ 103 ∧ (a.count < 7 ∨ byteAt a.bytes 4 ≠ a.count - 7)) ∧
    (checkFrame a = .crc ↔ fits ∧ ¬crc) ∧ (checkFrame a = .good ↔ fits ∧ crc) := by
  intro clean fits crc
  by_cases hn : a.noisy = true
  · simp [checkFrame, clean, fits, hn]
  by_cases hf : a.framing = true
  · simp [checkFrame, clean, fits, hn, hf]
  by_cases hlong : 103 < a.count
  · have : ¬a.count ≤ 103 := by omega
    simp [checkFrame, clean, fits, hn, hf, hlong, this]
  have hle : a.count ≤ 103 := by omega
  by_cases hshort : a.count < 7
  · have : ¬7 ≤ a.count := by omega
    simp [checkFrame, clean, fits, hn, hf, hlong, hle, hshort, this]
  have hge : 7 ≤ a.count := by omega
  by_cases hlen : byteAt a.bytes 4 = a.count - 7
  · by_cases hc : crc <;> simp [checkFrame, clean, fits, crc, hn, hf, hlong, hle, hshort, hge, hlen] at hc ⊢ <;> simp [hc]
  · simp [checkFrame, clean, fits, hn, hf, hlong, hle, hshort, hge, hlen]

/-- R172: where the end of a character finds the receiver, the frame takes it. -/
theorem exec_characterEnd {xs : List Bool} {s : State} {e : CharEnd} {l : Bool} {n : Nat} (hr : s.receiving = true)
    (hc : s.lc.rx.character = true) (he : runChar .atEdge xs = some (e, l, n)) :
    exec (.characterEnd xs) s = .next { s with lc := { s.lc with rx := {
      frame := frameAfter e s.lc.rx.frame, character := false, idle := 0, mark := xs.getLastD true } } } := by
  show execCharacterEnd xs s = _
  rw [execCharacterEnd, if_pos (by rw [hr, hc]; rfl), he]

/-- R173: a millisecond of the idle count. -/
theorem advance_rx (s : State) : (advance s).lc.rx = { s.lc.rx with
    idle := if s.receiving = true ∧ s.lc.rx.character = false ∧ s.lc.rx.mark = true
      then min 75 (s.lc.rx.idle + 3 * 2 ^ s.settings.bitRateCode) else s.lc.rx.idle } := by
  show s.tickLine.rx = _
  unfold State.tickLine
  dsimp only
  by_cases h : s.receiving = true ∧ s.lc.rx.character = false ∧ s.lc.rx.mark = true
  · rw [if_pos h, if_pos (by simp [h])]
    rfl
  · rw [if_neg h, if_neg (by simpa [and_assoc] using h)]

theorem completeFrame_eq (now : Nat) (a : Assembly) (l : LineChannel) : completeFrame now a l = { l with
    rx := { l.rx with frame := none }
    stats := if checkFrame a = .good ∧ 4 ≤ l.ring.length
      then { l.stats.countCheck (checkFrame a) with overrun := satInc 255 (l.stats.countCheck (checkFrame a)).overrun }
      else l.stats.countCheck (checkFrame a)
    ring := if checkFrame a = .good ∧ l.ring.length < 4 then l.ring ++ [⟨now, a.count, a.bytes⟩] else l.ring } := by
  unfold completeFrame
  by_cases hg : checkFrame a = .good
  · by_cases hroom : l.ring.length < 4
    · simp [hg, hroom]
    · simp [hg, hroom, not_lt.mp hroom]
  · simp [hg]

end Sys2Proof.Machine
end

section
namespace Sys2Proof.Proofs
open Machine

/-- Settles O36: the character by its sub-samples, the frame by Table 9-2. -/
theorem framesReceived : Obligations.FramesReceived := by
  refine ⟨runChar_clean, fun xs s v n noisy framing l hr hc he => exec_characterEnd hr hc he,
    fun xs s n l hr hc he => exec_characterEnd hr hc he, fun s hp hph hd => ?_, fun s a hr hc ha => ?_,
    checkFrame_iff, fun st => ⟨rfl, rfl, rfl, rfl, rfl, rfl⟩⟩
  · refine ⟨advance s, ?_, advance_rx s⟩
    rw [step, hp]
    exact congrArg Host.Outcome.next (idle_of_none hph hd)
  · show execFrameCompletion s = _
    unfold execFrameCompletion
    rw [ha]
    dsimp only
    rw [if_pos (by rw [hr, hc]; rfl), completeFrame_eq, hc]
    rfl

end Sys2Proof.Proofs
end

/-! ### A transmission start (R178) -/

section
namespace Sys2Proof.Machine

/-- R177: the slot chosen, with those before it empty. -/
theorem chooseSlot_some {l : LineChannel} {c : Chosen} (h : chooseSlot l = some c) :
    (∃ x, l.intentSlot = some x ∧ c = .intent x) ∨
    (∃ x, l.intentSlot = none ∧ l.outcomeSlot = some x ∧ c = .outcome x) ∨
    (∃ page panel, l.intentSlot = none ∧ l.outcomeSlot = none ∧ l.detailSlot = some (page, panel) ∧ c = .detail page panel) ∨
    (l.intentSlot = none ∧ l.outcomeSlot = none ∧ l.detailSlot = none ∧ c = .bulletin) := by
  unfold chooseSlot at h
  cases hi : l.intentSlot with
  | some x =>
    rw [hi] at h
    exact .inl ⟨x, rfl, (Option.some.inj h).symm⟩
  | none =>
    rw [hi] at h
    cases ho : l.outcomeSlot with
    | some x =>
      rw [ho] at h
      exact .inr (.inl ⟨x, rfl, rfl, (Option.some.inj h).symm⟩)
    | none =>
      rw [ho] at h
      cases hd : l.detailSlot with
      | some slot =>
        rw [hd] at h
        exact .inr (.inr (.inl ⟨slot.1, slot.2, rfl, rfl, rfl, (Option.some.inj h).symm⟩))
      | none =>
        rw [hd] at h
        refine .inr (.inr (.inr ⟨rfl, rfl, rfl, ?_⟩))
        dsimp only at h
        split at h
        · exact (Option.some.inj h).symm
        · cases h

/-- R178: the Line Channel after the start of a chosen slot's frame. -/
def State.started (s : State) (c : Chosen) : LineChannel :=
  { emptySlot c s with
    access := .transmitting (composeFrame s c) (frameTime s.settings (composeFrame s c).length)
    rx := .start, seq := (s.lc.seq + 1) % 256, framesSent := satInc 8 s.lc.framesSent }

theorem exec_transmissionStart {s : State} (hd : s.deferring = true) :
    exec .transmissionStart s = .next (startTransmission s) := by
  show execTransmissionStart s = _
  rw [execTransmissionStart, if_pos hd]

theorem startTransmission_some {s : State} {c : Chosen} (h : chooseSlot s.lc = some c) : startTransmission s = { s with
    lc := s.started c, ix := { s.ix with own := markSent c s.ix.own, busyCount := 0, isolated := false } } := by
  unfold startTransmission
  rw [h]
  rfl

theorem startTransmission_none {s : State} (h : chooseSlot s.lc = none) :
    startTransmission s = { s with lc := { s.lc with access := .noAttempt } } := by
  unfold startTransmission
  rw [h]

end Sys2Proof.Machine
end

section
namespace Sys2Proof.Proofs
open Machine

/-- Settles O37: the start by the slot chosen, slots of higher priority being empty. -/
theorem transmissionStarts : Obligations.TransmissionStarts := by
  refine ⟨fun s c hd hc => ⟨_, exec_transmissionStart hd, ?_⟩, fun s hd hc => ?_⟩
  · rw [startTransmission_some hc]
    refine ⟨rfl, rfl, rfl, rfl, rfl, ?_⟩
    rcases chooseSlot_some hc with ⟨x, hi, rfl⟩ | ⟨x, hi, ho, rfl⟩ | ⟨page, panel, hi, ho, hdet, rfl⟩ | ⟨hi, ho, hdet, rfl⟩
    · simp [State.started, emptySlot, hi]
    · simp [State.started, emptySlot, hi, ho]
    · by_cases hp : page = 2 <;> simp [State.started, emptySlot, hi, ho, hp, Stats.zero]
    · simp [State.started, emptySlot, hi, ho, hdet, ofSeconds]
  · rw [exec_transmissionStart hd, startTransmission_none hc]

end Sys2Proof.Proofs
end

/-! ### Access attempts and the bulletin schedule (R179 to R182) -/

section
namespace Sys2Proof.Machine

theorem refreshAccess_idle {s : State} (h : s.lc.access = .noAttempt) (he : s.lc.eligible = false) : refreshAccess s = s := by
  unfold refreshAccess
  rw [h]
  simp [he]

/-- R179: with a slot eligible an attempt begins, or goes on. -/
theorem refreshAccess_begins {s : State} (he : s.lc.eligible = true) : AttemptBegins s (refreshAccess s) := by
  unfold AttemptBegins refreshAccess
  cases ha : s.lc.access with
  | noAttempt =>
    dsimp only
    rw [if_pos rfl, if_pos he]
    by_cases hm : s.carrier = false ∧ s.lc.rx.character = false ∧ s.lc.rx.idle = 75
    · rw [if_pos hm, if_pos (by simp [State.mediumIdle, idleFull, hm]), draw_eq]
      exact ⟨rfl, rfl⟩
    · rw [if_neg hm, if_neg (by simpa [State.mediumIdle, idleFull, and_assoc] using hm)]
      exact ⟨rfl, rfl⟩
  | waiting => simp [he, ha]
  | transmitting f n => simp [ha]
  | deferring r n => cases n <;> simp [he, ha]

/-- R180: the medium is not idle at a transmission's end, so an attempt waits. -/
theorem endTransmission_eq (s : State) : endTransmission s = { s with
    lc := { s.lc with rx := .start, access := if s.lc.eligible then .waiting else .noAttempt }
    ix := { s.ix with own := startHoldOff s.ix.own } } := by
  unfold endTransmission refreshAccess
  dsimp only
  have helig : LineChannel.eligible { s.lc with access := .noAttempt, rx := .start } = s.lc.eligible := rfl
  rw [helig]
  by_cases he : s.lc.eligible = true
  · rw [if_pos he, if_pos he, if_neg]
    simp [State.mediumIdle, Receiver.start, idleFull]
  · rw [if_neg he, if_neg he]

theorem trigger_taken {s : State} (hw : s.lc.working = true) (ht : s.lc.triggerDelay = none) (ha : s.lc.armed = false) :
    trigger s = { s with lc := { s.lc with triggerDelay := some (triggerTime s.settings.station) } } := by
  simp [trigger, hw, ht, ha]

theorem trigger_nothing {s : State} (h : s.lc.working = false ∨ s.lc.triggerDelay ≠ none ∨ s.lc.armed = true) :
    trigger s = s := by
  unfold trigger
  rw [if_neg]
  rcases h with h | h | h <;> simp [h]

theorem writeOrder_triggered (p g : Nat) (o : OrderOutcome) (d : Nat) (m : SettleMark) (s : State) :
    Triggered s (writeOrder p g o d m s) :=
  trigger_triggered { s with oi := { s.oi with last := ⟨p, g, o, d⟩, mark := m } }

/-- R181, R182: the armed bulletin becomes eligible, unless the spacing holds it. -/
theorem arm_access (s : State) : (s.lc.spacing = none → AttemptBegins s (arm s)) ∧
    (∀ n, s.lc.spacing = some n → s.lc.access = .noAttempt → s.lc.intentSlot = none → s.lc.outcomeSlot = none →
      s.lc.detailSlot = none → arm s = { s with lc := { s.lc with armed := true } }) := by
  refine ⟨fun hs => ?_, fun n hs ha hi ho hd => refreshAccess_idle ha ?_⟩
  · refine refreshAccess_begins (s := { s with lc := { s.lc with armed := true } }) ?_
    simp [LineChannel.eligible, LineChannel.bulletinEligible, hs]
  · simp [LineChannel.eligible, LineChannel.bulletinEligible, hs, hi, ho, hd]

theorem refreshAccess_line_eq (s : State) :
    refreshAccess s = { s with lc := { s.lc with access := (refreshAccess s).lc.access, lfsr := (refreshAccess s).lc.lfsr } } := by
  obtain ⟨a, l, h⟩ := refreshAccess_only s
  rw [h]

/-- R156, R157: the end of its INTENT starts the hold-off of an intent. -/
def Intent.heldOff (i : Intent) : Intent :=
  match i.phase with
  | .queued true _ => { i with phase := .holding (ofTenths i.holdOff) }
  | _ => i

theorem startHoldOff_eq (own : Option Intent) : startHoldOff own = own.map Intent.heldOff := by
  cases own with
  | none => rfl
  | some i =>
    obtain ⟨number, dir, stage, size, holdOff, phase⟩ := i
    cases phase with
    | queued sent n => cases sent <;> rfl
    | _ => rfl

end Sys2Proof.Machine
end

section
namespace Sys2Proof.Proofs
open Machine

/-- Settles O38: the schedule by its expiries, the attempt by what is eligible. -/
theorem transmissionEndsAndArming : Obligations.TransmissionEndsAndArming := by
  refine ⟨fun s frame n ha => ?_, fun s => ⟨trigger_taken, trigger_nothing⟩,
    fun s => ⟨fun k new => changeStage_triggered k new s, fun p g o d m => writeOrder_triggered p g o d m s,
      fun c => ⟨fun he hx => ?_, fun hc he hs => ?_⟩⟩, fun c s u h => ?_, fun s n hs => ?_⟩
  · show execTransmissionEnd s = _
    rw [execTransmissionEnd, if_pos (by simp [State.transmitting, ha]), endTransmission_eq, startHoldOff_eq]
    rfl
  · obtain ⟨hstate, -, -, -, ht⟩ := addCause_suspends c he hx
    exact ⟨hstate, ht⟩
  · have hlast : s.vc.causes = c.only := (last_cause _ _).mp (by rw [hc, he]; rfl)
    obtain ⟨hstate, -, -, -, ht⟩ := removeCause_quiet hlast hs
    exact ⟨hstate, ht⟩
  · rcases h with ⟨rfl, hp, rfl⟩ | ⟨rfl, hp, rfl⟩
    · obtain ⟨hnone, hsome⟩ := arm_access { s with lc := { s.lc with periodTimer := none } }
      have hexec : exec .bulletinPeriodExpiry s = .next (arm { s with lc := { s.lc with periodTimer := none } }) := by
        show execBulletinPeriodExpiry s = _
        rw [execBulletinPeriodExpiry, if_pos hp]
      exact ⟨_, hexec, refreshAccess_line_eq _, hnone, hsome⟩
    · obtain ⟨hnone, hsome⟩ := arm_access { s with lc := { s.lc with triggerDelay := none } }
      have hexec : exec .triggerDelayExpiry s = .next (arm { s with lc := { s.lc with triggerDelay := none } }) := by
        show execTriggerDelayExpiry s = _
        rw [execTriggerDelayExpiry, if_pos hp]
      exact ⟨_, hexec, refreshAccess_line_eq _, hnone, hsome⟩
  · have hexec : exec .bulletinSpacingExpiry s = .next (refreshAccess { s with lc := { s.lc with spacing := none } }) := by
      show execBulletinSpacingExpiry s = _
      rw [execBulletinSpacingExpiry, if_pos (by rw [hs]; rfl)]
    refine ⟨_, hexec, refreshAccess_line_eq _, fun ha => ?_⟩
    refine refreshAccess_begins (s := { s with lc := { s.lc with spacing := none } }) ?_
    simp [LineChannel.eligible, LineChannel.bulletinEligible, ha]

end Sys2Proof.Proofs
end

/-! ### Numbers in bytes (R184) -/

section
namespace Sys2Proof.Machine

@[simp] theorem length_toBytes (x n : Nat) : (toBytes x n).length = n := by
  induction n with
  | zero => rfl
  | succ n ih => rw [toBytes, List.length_cons, ih]

theorem byteAt_append_left {l : List Byte} {i : Nat} (h : i < l.length) (r : List Byte) : byteAt (l ++ r) i = byteAt l i := by
  rw [byteAt, List.getD_append _ _ _ _ h, byteAt]

theorem byteAt_append_right {l : List Byte} {i : Nat} (h : l.length ≤ i) (r : List Byte) :
    byteAt (l ++ r) i = byteAt r (i - l.length) := by
  rw [byteAt, List.getD_append_right _ _ _ _ h, byteAt]

theorem field_append_left {l : List Byte} {i n : Nat} (h : i + n ≤ l.length) (r : List Byte) :
    field (l ++ r) i n = field l i n := by
  induction n generalizing i with
  | zero => rfl
  | succ n ih => rw [field, field, byteAt_append_left (by omega), ih (by omega)]

theorem field_append_right {l : List Byte} {i : Nat} (h : l.length ≤ i) (r : List Byte) (n : Nat) :
    field (l ++ r) i n = field r (i - l.length) n := by
  induction n generalizing i with
  | zero => rfl
  | succ n ih => rw [field, field, byteAt_append_right h, ih (by omega), Nat.sub_add_comm h]

/-- The bytes of a number before an offset are passed over. -/
theorem field_skip {x w i : Nat} (h : w ≤ i) (r : List Byte) (n : Nat) : field (toBytes x w ++ r) i n = field r (i - w) n := by
  rw [field_append_right (by simpa using h), length_toBytes]

theorem byteAt_skip {x w i : Nat} (h : w ≤ i) (r : List Byte) : byteAt (toBytes x w ++ r) i = byteAt r (i - w) := by
  rw [byteAt_append_right (by simpa using h), length_toBytes]

@[simp] theorem field_toBytes (x w : Nat) : field (toBytes x w) 0 w = x % 256 ^ w := by
  induction w generalizing x with
  | zero => simp [field, Nat.mod_one]
  | succ w ih =>
    have hhead : byteAt (toBytes x (w + 1)) 0 = x / 256 ^ w % 256 := BitVec.toNat_ofNat ..
    have htail : field (toBytes x (w + 1)) 1 w = field (toBytes x w) 0 w :=
      field_append_right (l := [BitVec.ofNat 8 (x / 256 ^ w)]) (le_refl 1) (toBytes x w) w
    rw [field, hhead, htail, ih, pow_succ, Nat.mod_mul, mul_comm, add_comm]

/-- A number is read where its bytes stand. -/
@[simp] theorem field_here (x w : Nat) (r : List Byte) : field (toBytes x w ++ r) 0 w = x % 256 ^ w := by
  rw [field_append_left (by simp), field_toBytes]

@[simp] theorem byteAt_here (x : Nat) (r : List Byte) : byteAt (toBytes x 1 ++ r) 0 = x % 256 := by
  rw [← field_one, field_here, pow_one]

@[simp] theorem byteAt_toBytes (x : Nat) : byteAt (toBytes x 1) 0 = x % 256 := by
  rw [← field_one, field_toBytes, pow_one]

/-- Parts of one length, one after the other: each is read at its place. -/
theorem field_flatMap {α : Type} {g : α → List Byte} {w : Nat} (hw : ∀ a, (g a).length = w) {l : List α} {m : Nat} {a : α}
    (h : l[m]? = some a) {j n : Nat} (hj : j + n ≤ w) : field (l.flatMap g) (w * m + j) n = field (g a) j n := by
  induction l generalizing m with
  | nil => simp at h
  | cons b l ih =>
    rw [List.flatMap_cons]
    cases m with
    | zero =>
      obtain rfl : b = a := by simpa using h
      rw [mul_zero, zero_add, field_append_left (by rw [hw]; exact hj)]
    | succ m =>
      rw [mul_add, mul_one, field_append_right (by rw [hw]; omega), hw, ← ih (by simpa using h)]
      congr 1
      omega

theorem length_flatMap_const {α : Type} {g : α → List Byte} {w : Nat} (hw : ∀ a, (g a).length = w) (l : List α) :
    (l.flatMap g).length = w * l.length := by
  induction l with
  | nil => rfl
  | cons a l ih => rw [List.flatMap_cons, List.length_append, hw, ih, List.length_cons, mul_add, mul_one, add_comm]

/-- R25: the configured stages stand in order from stage 1 on. -/
theorem stageIds_num {s : State} {k : StageId} (h : s.configured k = true) : s.stageIds[k.num - 1]? = some k := by
  have hk : k.num ≤ s.settings.stageCount := by simpa [State.configured] using h
  unfold State.stageIds StageId.all
  cases k <;> simp only [StageId.num] at hk ⊢
  · simp [hk]
  · have : 1 ≤ s.settings.stageCount := by omega
    simp [this, hk]
  · have : 1 ≤ s.settings.stageCount ∧ 2 ≤ s.settings.stageCount := by omega
    simp [this, hk]
  · have : 1 ≤ s.settings.stageCount ∧ 2 ≤ s.settings.stageCount ∧ 3 ≤ s.settings.stageCount := by omega
    simp [this, hk]

theorem stageIds_length (s : State) : s.stageIds.length = min 4 s.settings.stageCount := by
  unfold State.stageIds StageId.all
  rcases (by omega : s.settings.stageCount = 0 ∨ s.settings.stageCount = 1 ∨ s.settings.stageCount = 2 ∨
    s.settings.stageCount = 3 ∨ 4 ≤ s.settings.stageCount) with h | h | h | h | h
  · rw [h]; rfl
  · rw [h]; rfl
  · rw [h]; rfl
  · rw [h]; rfl
  · have : 1 ≤ s.settings.stageCount ∧ 2 ≤ s.settings.stageCount ∧ 3 ≤ s.settings.stageCount := by omega
    simp [StageId.num, h, this]

/-! ### Flags -/

/-- The bits of a number are read back one by one. -/
theorem testBit_bitsValue (l : List Bool) : BitsAre (bitsValue l) l := by
  intro i
  induction l generalizing i with
  | nil => simp [bitsValue, testBit]
  | cons b l ih =>
    cases i with
    | zero => cases b <;> simp [bitsValue, testBit, Nat.add_mod]
    | succ i =>
      have hhalf : ((if b then 1 else 0) + 2 * bitsValue l) / 2 = bitsValue l := by
        cases b with
        | false => simp
        | true => simp; omega
      rw [List.getD_cons_succ, ← ih i, bitsValue, testBit, pow_succ', ← Nat.div_div_eq_div_mul, hhalf, testBit]

theorem bitsValue_lt (l : List Bool) : bitsValue l < 2 ^ l.length := by
  induction l with
  | nil => simp [bitsValue]
  | cons b l ih =>
    rw [bitsValue, List.length_cons, pow_succ]
    cases b <;> (simp; omega)

/-- A sum of flags is the number of its list of bits. -/
theorem bit_eq (n : Nat) (b : Bool) : bit n b = 2 ^ n * bit 0 b := by
  cases b <;> simp [bit]

theorem bitsValue_nil : bitsValue [] = 0 := rfl

theorem bitsValue_cons (b : Bool) (l : List Bool) : bitsValue (b :: l) = bit 0 b + 2 * bitsValue l := by
  cases b <;> simp [bitsValue, bit]

end Sys2Proof.Machine
end

/-! ### The frame of a transmission (R174, R184) -/

section
namespace Sys2Proof.Machine

theorem length_bulletinStage (r : Stage) : (bulletinStage r).length = 4 := by simp [bulletinStage]

theorem length_page0Stage (s : State) (k : StageId) : (page0Stage s k).length = 16 := by simp [page0Stage]

theorem length_page2Stage (s : State) (k : StageId) : (page2Stage s k).length = 16 := by simp [page2Stage]

theorem length_sixFields (x : Six Nat) : (x.toList.flatMap fun h => toBytes h 2).length = 12 := by simp [Six.toList]

theorem length_page1Phase (slots : Six Slot) (f : PhaseFigures) : (page1Phase slots f).length = 16 := by
  rw [page1Phase, List.length_append, length_sixFields]
  simp

theorem length_bulletinBody (s : State) : (bulletinBody s).length = 20 + 4 * s.stageIds.length := by
  rw [bulletinBody, List.length_append, length_flatMap_const fun k => length_bulletinStage (s.stage k)]
  simp

theorem length_page0Station (s : State) : (page0Station s).length = 20 := by simp [page0Station, pageByte, stageList]

theorem length_page1Station (s : State) : (page1Station s).length = 20 := by
  rw [page1Station, List.length_append, length_sixFields]
  simp [pageByte]

theorem length_page2Station (s : State) : (page2Station s).length = 20 := by simp [page2Station, pageByte]

theorem length_intentBody (m : Bool) (x : IntentContent) : (intentBody m x).length = 8 := by simp [intentBody]

theorem length_outcomeBody (m : Bool) (figure position : Nat) (x : OutcomeContent) :
    (outcomeBody m figure position x).length = 8 := by simp [outcomeBody]

/-- R187: the length of each page. -/
theorem length_detailBody (s : State) (page : Nat) :
    (detailBody s page).length = 20 + 16 * if page = 1 then 3 else s.stageIds.length := by
  unfold detailBody
  split
  · rw [List.length_append, length_page0Station, length_flatMap_const (length_page0Stage s)]
    rfl
  · rw [List.length_append, length_page1Station, length_flatMap_const (length_page1Phase s.settings.slots)]
    rfl
  next h =>
    rw [List.length_append, length_page2Station, length_flatMap_const (length_page2Stage s), if_neg h]

/-- R176: the length of a composed body fits its kind. -/
theorem chosenBody_fits {s : State} (c : Chosen) (h1 : 1 ≤ s.settings.stageCount) (h4 : s.settings.stageCount ≤ 4) :
    lengthFits c.kind (chosenBody s c).length = true ∧ (chosenBody s c).length ≤ 84 := by
  have hids : s.stageIds.length = s.settings.stageCount := by rw [stageIds_length]; omega
  cases c with
  | intent x => simp [chosenBody, length_intentBody, Chosen.kind, lengthFits]
  | outcome x => simp [chosenBody, length_outcomeBody, Chosen.kind, lengthFits]
  | detail page panel =>
    have hlen := length_detailBody s page
    have hle : 20 ≤ (detailBody s page).length ∧ (detailBody s page).length ≤ 84 := by
      rw [hlen, hids]
      split <;> omega
    simp [chosenBody, Chosen.kind, lengthFits, hle]
  | bulletin =>
    have hcount : s.settings.stageCount = 1 ∨ s.settings.stageCount = 2 ∨ s.settings.stageCount = 3 ∨
      s.settings.stageCount = 4 := by omega
    simp only [chosenBody, length_bulletinBody, hids, Chosen.kind, lengthFits]
    rcases hcount with h | h | h | h <;> simp [h]

/-- R184: the header and the body, before the CRC. -/
def frontOf (s : State) (c : Chosen) : List Byte :=
  toBytes c.kind.code 1 ++ toBytes s.settings.station 1 ++ toBytes c.dest 1 ++ toBytes s.lc.seq 1 ++
    toBytes (chosenBody s c).length 1 ++ chosenBody s c

theorem composeFrame_eq (s : State) (c : Chosen) : composeFrame s c = frontOf s c ++ toBytes (crc16 (frontOf s c)) 2 := rfl

theorem length_frontOf (s : State) (c : Chosen) : (frontOf s c).length = 5 + (chosenBody s c).length := by
  simp [frontOf]
  omega

theorem length_composeFrame (s : State) (c : Chosen) : (composeFrame s c).length = 7 + (chosenBody s c).length := by
  rw [composeFrame_eq, List.length_append, length_frontOf, length_toBytes]
  omega

theorem crc16_lt (l : List Byte) : crc16 l < 65536 := BitVec.isLt _

/-- R184: the header's bytes. -/
theorem header_composeFrame (s : State) (c : Chosen) : byteAt (composeFrame s c) 0 = c.kind.code % 256 ∧
    byteAt (composeFrame s c) 1 = s.settings.station % 256 ∧ byteAt (composeFrame s c) 2 = c.dest % 256 ∧
    byteAt (composeFrame s c) 3 = s.lc.seq % 256 ∧ byteAt (composeFrame s c) 4 = (chosenBody s c).length % 256 := by
  simp [composeFrame_eq, frontOf, List.append_assoc, byteAt_skip]

/-- R174: the frame passes Table 9-2. -/
theorem checkFrame_composeFrame {s : State} {c : Chosen} (hlen : (chosenBody s c).length ≤ 84) :
    checkFrame ⟨composeFrame s c, (composeFrame s c).length, false, false⟩ = .good := by
  obtain ⟨-, -, -, -, -, hgood⟩ := checkFrame_iff ⟨composeFrame s c, (composeFrame s c).length, false, false⟩
  obtain ⟨-, -, -, -, hbody⟩ := header_composeFrame s c
  refine hgood.mpr ⟨⟨⟨rfl, rfl⟩, ?_, ?_, ?_⟩, ?_⟩
  · show 7 ≤ (composeFrame s c).length
    rw [length_composeFrame]; omega
  · show (composeFrame s c).length ≤ 103
    rw [length_composeFrame]; omega
  · show byteAt (composeFrame s c) 4 = (composeFrame s c).length - 7
    rw [hbody, length_composeFrame]; omega
  · have hfront : (composeFrame s c).length - 2 = (frontOf s c).length := by
      rw [length_composeFrame, length_frontOf]; omega
    dsimp only
    rw [hfront, composeFrame_eq, List.take_left, field_append_right (le_refl _), Nat.sub_self, field_toBytes]
    exact (Nat.mod_eq_of_lt (crc16_lt _)).symm

theorem kindOf_code (k : Kind) : kindOf (k.code % 256) = some k := by cases k <;> rfl

theorem body_composeFrame (s : State) (c : Chosen) :
    ((composeFrame s c).drop 5).take (chosenBody s c).length = chosenBody s c := by
  have hdrop : (composeFrame s c).drop 5 = chosenBody s c ++ toBytes (crc16 (frontOf s c)) 2 := by
    rw [composeFrame_eq]
    generalize toBytes (crc16 (frontOf s c)) 2 = crc
    simp [frontOf, toBytes]
  rw [hdrop, List.take_left]

/-- R186: the destination of a slot fits its byte. -/
theorem Chosen.dest_lt {c : Chosen} (h : c.fits) : c.dest < 256 := by
  cases c with
  | detail page panel => exact h.2
  | _ => exact (by decide : 0xFF < 256)

/-- R186: the fields of the second byte of an INTENT. -/
theorem intentByte_read (m : Bool) (d : Direction) (k : StageId) :
    let x := (bit 7 m + dirBit d + k.num) % 256
    x % 8 = k.num ∧ directionOf x = d ∧ testBit x 7 = m := by
  cases m <;> cases d <;> cases k <;> decide

/-- R186: the fields of the second byte of an OUTCOME. -/
theorem outcomeByte_read (m : Bool) (r : OutcomeResult) (d : Direction) (k : StageId) :
    let x := (bit 7 m + 16 * r.code + dirBit d + k.num) % 256
    resultOf x = r.code ∧ directionOf x = d ∧ x % 8 = k.num ∧ testBit x 7 = m := by
  cases m <;> cases r <;> cases d <;> cases k <;> decide

/-- R187: the fields of the first byte of a page. -/
theorem pageByte_read (m : Bool) (p : Nat) :
    let x := (bit 7 m + p % 4) % 256
    x % 4 = p % 4 ∧ testBit x 7 = m ∧ x / 4 % 32 = 0 := by
  have hp : p % 4 < 4 := Nat.mod_lt _ (by decide)
  generalize p % 4 = q at *
  cases m <;> interval_cases q <;> decide

theorem byteAt_intentBody (m : Bool) (x : IntentContent) :
    byteAt (intentBody m x) 1 = (bit 7 m + dirBit x.dir + x.stage.num) % 256 := by
  simp [intentBody, List.append_assoc, byteAt_skip]

theorem byteAt_outcomeBody (m : Bool) (figure position : Nat) (x : OutcomeContent) :
    byteAt (outcomeBody m figure position x) 1 = (bit 7 m + 16 * x.result.code + dirBit x.dir + x.stage.num) % 256 := by
  simp [outcomeBody, List.append_assoc, byteAt_skip]

/-- R187: the first byte of each of the three pages. -/
theorem byteAt_detailBody (s : State) {page : Nat} (h : page ≤ 2) :
    byteAt (detailBody s page) 0 = (bit 7 s.startMarker + page % 4) % 256 := by
  interval_cases page
  · simp [detailBody, page0Station, pageByte, List.append_assoc]
  · simp [detailBody, page1Station, pageByte, List.append_assoc]
  · simp [detailBody, page2Station, pageByte, List.append_assoc]

/-- Table 9-7: the flags of a BULLETIN, from bit 0 up. -/
def State.flagList (s : State) : List Bool := [s.startMarker, false, s.vc.manual, s.vc.state == .suspended, s.pv.viewFull,
  s.harmAlarm, s.unbAlarm, s.port.lost, s.ix.isolated, s.pv.clash.isSome, s.block.active, s.oi.chain.isSome, s.vc.deadLine]

theorem bulletinFlags_eq (s : State) : s.bulletinFlags = bitsValue s.flagList := by
  simp only [State.bulletinFlags, State.flagList, bitsValue_cons, bit_eq 1, bit_eq 2, bit_eq 3, bit_eq 4, bit_eq 5, bit_eq 6,
    bit_eq 7, bit_eq 8, bit_eq 9, bit_eq 10, bit_eq 11, bit_eq 12, bitsValue_nil]
  ring

theorem flags_bulletinBody (s : State) : BitsAre (field (bulletinBody s) 0 2) s.flagList := by
  have hread : field (bulletinBody s) 0 2 = s.bulletinFlags % 256 ^ 2 := by simp [bulletinBody, List.append_assoc]
  have hlt : bitsValue s.flagList < 2 ^ 13 := bitsValue_lt s.flagList
  rw [hread, bulletinFlags_eq, Nat.mod_eq_of_lt (by omega)]
  exact testBit_bitsValue _

/-- R184: the START marker of a composed body. -/
theorem start_chosenBody (s : State) {c : Chosen} (hc : c.fits) (sender dest seq : Nat) :
    Frame.start ⟨c.kind, sender, dest, seq, chosenBody s c⟩ = s.startMarker := by
  cases c with
  | intent x =>
    show testBit (byteAt (intentBody s.startMarker x) 1) 7 = s.startMarker
    rw [byteAt_intentBody]
    exact (intentByte_read _ _ _).2.2
  | outcome x =>
    show testBit (byteAt (outcomeBody s.startMarker s.figure s.settings.position x) 1) 7 = s.startMarker
    rw [byteAt_outcomeBody]
    exact (outcomeByte_read _ _ _ _).2.2.2
  | detail page panel =>
    show testBit (byteAt (detailBody s page) 0) 7 = s.startMarker
    rw [byteAt_detailBody s hc.1]
    exact (pageByte_read _ _).2.1
  | bulletin => exact flags_bulletinBody s 0

end Sys2Proof.Machine
end

section
namespace Sys2Proof.Proofs
open Machine

/-- Settles O39: the header by its bytes, the CRC by the front it is taken of. -/
theorem composedFramesAreRead : Obligations.ComposedFramesAreRead := by
  intro s c h1 h62 hs1 hs4 hseq hc
  obtain ⟨hfits, hlen⟩ := chosenBody_fits c hs1 hs4
  refine ⟨checkFrame_composeFrame hlen, _, ?_, rfl, start_chosenBody s hc _ _ _⟩
  obtain ⟨h0, hsender, hdest, hnum, hbody⟩ := header_composeFrame s c
  have hyard : isYard (s.settings.station % 256) = true := by rw [isYard_iff]; omega
  unfold decodeFrame
  rw [h0, kindOf_code, hsender, hdest, hnum, hbody, Nat.mod_eq_of_lt (show (chosenBody s c).length < 256 by omega)]
  dsimp only
  rw [if_pos (by rw [hyard, hfits]; rfl), body_composeFrame, Nat.mod_eq_of_lt hseq, Nat.mod_eq_of_lt (Chosen.dest_lt hc),
    Nat.mod_eq_of_lt (show s.settings.station < 256 by omega)]

end Sys2Proof.Proofs
end

/-! ### The bodies of an INTENT, an OUTCOME and a BULLETIN (Tables 9-6, 9-8) -/

section
namespace Sys2Proof.Machine

theorem intentBody_read (m : Bool) (x : IntentContent) : IntentRead x m (intentBody m x) := by
  obtain ⟨hstage, hdir, hstart⟩ := intentByte_read m x.dir x.stage
  constructor
  case length => exact length_intentBody m x
  case stage => rw [byteAt_intentBody]; exact hstage
  case dir => rw [byteAt_intentBody]; exact hdir
  case start => rw [byteAt_intentBody]; exact hstart
  all_goals simp [intentBody, List.append_assoc, field_skip]

/-- R146: the record of an INTENT is made of its fields. -/
theorem heardOf_intentBody {x : IntentContent} (m : Bool) (sender seq now : Nat) (hn : x.number < 256)
    (hp : x.position < 65536) (h10 : 10 ≤ x.holdOff) (h100 : x.holdOff ≤ 100) :
    heardOf ⟨.intent, sender, 0xFF, seq, intentBody m x⟩ now =
      ⟨sender, x.position, x.dir, x.number, x.holdOff, now, 100 * (2 * x.holdOff + 50)⟩ := by
  have r := intentBody_read m x
  have hhold : clamp 10 100 (x.holdOff % 65536) = x.holdOff := by
    unfold clamp
    omega
  unfold heardOf
  dsimp only
  rw [r.position, r.dir, r.number, r.holdOff, hhold, Nat.mod_eq_of_lt hn, Nat.mod_eq_of_lt hp]
  rfl

theorem outcomeBody_fields (m : Bool) (figure position : Nat) (x : OutcomeContent) :
    let b := outcomeBody m figure position x
    byteAt b 0 = x.number % 256 ∧ byteAt b 2 = x.cause.code % 256 ∧ byteAt b 3 = x.reason.code % 256 ∧
    field b 4 2 = figure % 65536 ∧ field b 6 2 = position % 65536 := by
  simp [outcomeBody, List.append_assoc, byteAt_skip, field_skip]

theorem Cause.code_lt (c : Cause) : c.code < 256 := by cases c <;> decide

/-- R58: a countdown as it is sent, in whole seconds. -/
theorem secondsUp_tenthsLeft (x : Nat) : secondsUp (tenthsLeft x) = (x + 999) / 1000 := by
  unfold secondsUp tenthsLeft
  omega

/-- The part of a configured stage, after a station part of a length. -/
theorem field_stagePart {s : State} {k : StageId} (hk : s.configured k = true) {front : List Byte} {g : StageId → List Byte} {w : Nat}
    (hw : ∀ j, (g j).length = w) {j n : Nat} (hj : j + n ≤ w) :
    field (front ++ s.stageIds.flatMap g) (front.length + w * (k.num - 1) + j) n = field (g k) j n := by
  rw [field_append_right (by omega), ← field_flatMap hw (stageIds_num hk) hj]
  congr 1
  omega

theorem byteAt_stagePart {s : State} {k : StageId} (hk : s.configured k = true) {front : List Byte} {g : StageId → List Byte} {w : Nat}
    (hw : ∀ j, (g j).length = w) {j : Nat} (hj : j + 1 ≤ w) :
    byteAt (front ++ s.stageIds.flatMap g) (front.length + w * (k.num - 1) + j) = byteAt (g k) j := by
  rw [← field_one, field_stagePart hk hw hj, field_one]

/-- Table 9-6, before the stages. -/
def bulletinStation (s : State) : List Byte :=
  toBytes s.bulletinFlags 2 ++ toBytes s.settings.period 1 ++ toBytes s.settings.position 2 ++
  toBytes s.vc.state.code 1 ++ toBytes s.store.vctl 2 ++ toBytes s.figure 2 ++ toBytes s.presentIndex 1 ++
  toBytes s.store.thd 2 ++ toBytes s.vc.unserved.code 1 ++ toBytes s.intentNumber 1 ++
  toBytes s.oi.last.panel 1 ++ toBytes s.oi.last.tag 1 ++ toBytes s.oi.last.outcome.code 1 ++
  toBytes s.oi.last.detail 1 ++ toBytes s.settings.stageCount 1

theorem bulletinBody_eq (s : State) :
    bulletinBody s = bulletinStation s ++ s.stageIds.flatMap fun k => bulletinStage (s.stage k) := rfl

theorem length_bulletinStation (s : State) : (bulletinStation s).length = 20 := by simp [bulletinStation]

theorem byteAt_bulletinStation (s : State) {i : Nat} (h : i < 20) : byteAt (bulletinBody s) i = byteAt (bulletinStation s) i := by
  rw [bulletinBody_eq, byteAt_append_left (by rw [length_bulletinStation]; exact h)]

theorem field_bulletinStation (s : State) {i n : Nat} (h : i + n ≤ 20) :
    field (bulletinBody s) i n = field (bulletinStation s) i n := by
  rw [bulletinBody_eq, field_append_left (by rw [length_bulletinStation]; exact h)]

theorem bulletinStage_fields (r : Stage) : byteAt (bulletinStage r) 0 = r.state.code % 256 ∧
    byteAt (bulletinStage r) 1 = r.lastCause.code % 256 ∧ field (bulletinStage r) 2 2 = (r.discharge + 999) / 1000 % 65536 := by
  simp [bulletinStage, List.append_assoc, byteAt_skip, field_skip, secondsUp_tenthsLeft, field_toBytes]

theorem StageState.code_lt (st : StageState) : st.code < 8 := by
  cases st with
  | fault kind => exact (by decide : 7 < 8)
  | _ => decide

theorem bulletinBody_read (s : State) : BulletinRead s (bulletinBody s) := by
  constructor
  case length => exact length_bulletinBody s
  case flags => exact flags_bulletinBody s
  case state =>
    have hlt : s.vc.state.code < 256 := by cases s.vc.state <;> decide
    rw [byteAt_bulletinStation s (by decide)]
    simp [bulletinStation, List.append_assoc, byteAt_skip, Nat.mod_eq_of_lt hlt]
  case index =>
    have hlt : s.presentIndex % 256 = s.presentIndex := Nat.mod_eq_of_lt (Nat.lt_succ_of_le (resonanceIndex_le _ _))
    rw [byteAt_bulletinStation s (by decide)]
    simp [bulletinStation, List.append_assoc, byteAt_skip, hlt]
  case unserved =>
    rw [byteAt_bulletinStation s (by decide)]
    simp [bulletinStation, List.append_assoc, byteAt_skip, Nat.mod_eq_of_lt (Reason.code_lt _)]
  case intent =>
    have hread : byteAt (bulletinBody s) 14 = s.intentNumber % 256 := by
      rw [byteAt_bulletinStation s (by decide)]
      simp [bulletinStation, List.append_assoc, byteAt_skip]
    rw [hread]
    constructor
    · intro h
      simp [State.intentNumber, h]
    · intro i h
      simp [State.intentNumber, h]
  case order =>
    have hlt : s.oi.last.outcome.code < 256 := by cases s.oi.last.outcome <;> decide
    rw [byteAt_bulletinStation s (by decide), byteAt_bulletinStation s (by decide), byteAt_bulletinStation s (by decide),
      byteAt_bulletinStation s (by decide)]
    simp [bulletinStation, List.append_assoc, byteAt_skip, Nat.mod_eq_of_lt hlt]
  case stage =>
    intro k hk
    obtain ⟨h0, h1, h2⟩ := bulletinStage_fields (s.stage k)
    have hstate : (s.stage k).state.code % 256 = (s.stage k).state.code :=
      Nat.mod_eq_of_lt (lt_trans (StageState.code_lt _) (by decide))
    rw [Nat.mod_eq_of_lt (Cause.code_lt _)] at h1
    have hlen := length_bulletinStation s
    have hw := fun j => length_bulletinStage (s.stage j)
    have hb0 := byteAt_stagePart hk (front := bulletinStation s) hw (j := 0) (by decide)
    have hb1 := byteAt_stagePart hk (front := bulletinStation s) hw (j := 1) (by decide)
    have hf2 := field_stagePart hk (front := bulletinStation s) hw (j := 2) (n := 2) (by decide)
    rw [hlen] at hb0 hb1 hf2
    exact ⟨hb0.trans (h0.trans hstate), hb1.trans h1, hf2.trans h2⟩
  case period | stageCount =>
    rw [byteAt_bulletinStation s (by decide)]
    simp [bulletinStation, List.append_assoc, byteAt_skip]
  all_goals
    rw [field_bulletinStation s (by decide)]
    simp [bulletinStation, List.append_assoc, field_skip]

end Sys2Proof.Machine
end

/-! ### DETAIL page 0 (Table 9-10) -/

section
namespace Sys2Proof.Machine

theorem pageRead {s : State} {page parts : Nat} {d : List Byte} (hp : page ≤ 2) (hlen : d.length = 20 + 16 * parts)
    (h : byteAt d 0 = (bit 7 s.startMarker + page % 4) % 256) : PageRead s page parts d := by
  obtain ⟨hpage, hstart, hothers⟩ := pageByte_read s.startMarker page
  constructor
  case length => exact hlen
  case page => rw [h, hpage]; omega
  case start => rw [h, hstart]
  case others => rw [h, hothers]

theorem recordedCode_lt (s : State) : s.recordedCode < 256 := by
  have r := recordedCode_recorded s
  by_cases hr : s.oi.stepReason = .none
  · by_cases h0 : s.recordedCode = 0
    · omega
    · rcases r.reported hr h0 with h | ⟨x, -, h⟩ | ⟨-, h⟩
      · rw [h]; exact Reason.code_lt _
      · rw [h]; exact Reason.code_lt _
      · rw [h]; omega
  · rw [r.refusedStep hr]
    exact Reason.code_lt _

theorem stageNum_le (k : StageId) : k.num ≤ 4 := by cases k <;> decide

/-- R48: the four numbers of a list field. -/
theorem stageList_read (l : List StageId) {i : Nat} (hi : i < 4) :
    field (stageList l) 0 2 / 16 ^ (3 - i) % 16 = (l.map StageId.num).getD i 0 := by
  have hlt : ∀ j, (l.map StageId.num).getD j 0 ≤ 4 := by
    intro j
    rw [List.getD_eq_getElem?_getD, List.getElem?_map]
    cases l[j]? with
    | none => exact Nat.zero_le 4
    | some k => exact stageNum_le k
  have h0 := hlt 0
  have h1 := hlt 1
  have h2 := hlt 2
  have h3 := hlt 3
  unfold stageList
  rw [field_toBytes]
  generalize l.map StageId.num = nums at *
  interval_cases i <;> dsimp only <;> omega

theorem stageMask_eq (f : Four Bool) : stageMask f = bitsValue f.toList := by
  simp only [stageMask, Four.toList, bitsValue_cons, bit_eq 1, bit_eq 2, bit_eq 3, bitsValue_nil]
  ring

theorem slotBits_eq (f : Six Bool) : slotBits f = bitsValue f.toList := by
  simp only [slotBits, Six.toList, bitsValue_cons, bit_eq 1, bit_eq 2, bit_eq 3, bit_eq 4, bit_eq 5, bitsValue_nil]
  ring

/-- Table 4-4: the causes in the order of their bits. -/
def CauseSet.flagList (c : CauseSet) : List Bool :=
  [c.manual, c.blockInput, c.chainActive, c.measLost, c.deadLine, c.listenIn]

theorem causeBits_eq (c : CauseSet) : causeBits c = bitsValue c.flagList := by
  simp only [causeBits, CauseSet.flagList, bitsValue_cons, bit_eq 1, bit_eq 2, bit_eq 3, bit_eq 4, bit_eq 5, bitsValue_nil]
  ring

/-- Eight flags or fewer are read back from their byte. -/
theorem bitsAre_byte {l : List Bool} (h : l.length ≤ 8) : BitsAre (bitsValue l % 256) l := by
  have hlt := bitsValue_lt l
  have hpow : 2 ^ l.length ≤ 2 ^ 8 := Nat.pow_le_pow_right (by decide) h
  rw [Nat.mod_eq_of_lt (by omega)]
  exact testBit_bitsValue l

/-- Table 9-10, byte 8. -/
theorem intentBits_read (p : IntentPhase) (d : Direction) (k : StageId) :
    let x := (64 * p.code + dirBit d + k.num) % 256
    x / 64 = p.code ∧ directionOf x = d ∧ x % 8 = k.num := by
  cases p <;> cases d <;> cases k <;> simp [IntentPhase.code, dirBit, Direction.code, StageId.num, directionOf, testBit]

/-- The bytes of the station part of page 0. -/
theorem page0Station_fields (s : State) :
    let d := page0Station s
    byteAt d 0 = (bit 7 s.startMarker + 0 % 4) % 256 ∧ byteAt d 1 = causeBits s.vc.causes % 256 ∧
    field d 2 2 = field (stageList s.ready) 0 2 ∧ field d 4 2 = field (stageList s.inService) 0 2 ∧
    byteAt d 6 = stageMask s.blockSet % 256 ∧ byteAt d 7 = s.intentNumber % 256 ∧ byteAt d 8 = intentBits s.ix.own % 256 ∧
    byteAt d 9 = (bit 7 s.ix.isolated + s.ix.busyCount) % 256 ∧ byteAt d 10 = s.stepIndex % 256 ∧
    field d 11 2 = s.chainDelay % 65536 ∧ field d 13 3 = accumulatorBits s.vc % 2 ^ 24 ∧
    field d 16 2 = settleTenths s.vc.stationSettle % 65536 ∧ field d 18 2 = settleTenths s.vc.peerSettle % 65536 := by
  simp [page0Station, pageByte, stageList, List.append_assoc, byteAt_skip, field_skip]

theorem busyByte_read (b : Bool) {n : Nat} (h : n ≤ 3) :
    (bit 7 b + n) % 256 % 4 = n ∧ testBit ((bit 7 b + n) % 256) 7 = b := by
  cases b <;> interval_cases n <;> decide

/-- Table 9-10, bytes 13 to 15. -/
theorem accumulatorBits_read {v : Controller} (hl : v.low ≤ 500000) (hh : v.high ≤ 500000) :
    let x := accumulatorBits v % 2 ^ 24
    x % 2 ^ 19 = (if v.high = 0 then v.low else v.high) ∧ (testBit x 23 = true ↔ v.high ≠ 0) := by
  unfold accumulatorBits testBit
  by_cases h : v.high = 0
  · rw [if_pos h, if_pos h]
    simp [h]
    omega
  · rw [if_neg h, if_neg h]
    simp [h]
    omega

theorem settleTenths_read (t : Option Nat) : (t = none → settleTenths t % 65536 = 0) ∧
    ∀ n, t = some n → settleTenths t % 65536 = (n + 99) / 100 % 65536 := by
  refine ⟨?_, ?_⟩
  · rintro rfl; rfl
  · rintro n rfl; rfl

/-- A station part before the parts of its stages. -/
structure StationPart (front d : List Byte) : Prop where
  byte : ∀ i, i < 20 → byteAt d i = byteAt front i
  field : ∀ i n, i + n ≤ 20 → field d i n = field front i n

theorem stationPart {front : List Byte} (h : front.length = 20) (r : List Byte) : StationPart front (front ++ r) :=
  ⟨fun _ hi => byteAt_append_left (by omega) r, fun _ _ hi => field_append_left (by omega) r⟩

theorem supervisionStation_read {s : State} {d : List Byte} (h : StationPart (page0Station s) d) : SupervisionStation s d := by
  obtain ⟨-, h1, h2, h4, h6, h7, h8, h9, h10, h11, h13, h16, h18⟩ := page0Station_fields s
  have hcode := recordedCode_lt s
  constructor
  case causes =>
    rw [h.byte 1 (by decide), h1, causeBits_eq]
    exact bitsAre_byte (l := s.vc.causes.flagList) (by simp [CauseSet.flagList])
  case ready =>
    intro i hi
    rw [h.field 2 2 (by decide), h2]
    exact stageList_read s.ready hi
  case inService =>
    intro i hi
    rw [h.field 4 2 (by decide), h4]
    exact stageList_read s.inService hi
  case blockSet =>
    rw [h.byte 6 (by decide), h6, stageMask_eq]
    exact bitsAre_byte (l := s.blockSet.toList) (by simp [Four.toList])
  case noIntent =>
    intro hn
    rw [h.byte 7 (by decide), h.byte 8 (by decide), h7, h8]
    simp [State.intentNumber, intentBits, hn]
  case intent =>
    intro i hi
    obtain ⟨hphase, hdir, hstage⟩ := intentBits_read i.phase i.dir i.stage
    rw [h.byte 7 (by decide), h.byte 8 (by decide), h7, h8]
    simp only [State.intentNumber, intentBits, hi]
    exact ⟨trivial, hphase, hdir, hstage⟩
  case busyCount =>
    intro hb
    rw [h.byte 9 (by decide), h9]
    exact busyByte_read s.ix.isolated hb
  case noChain =>
    intro hn
    have hdelay : s.chainDelay = s.recordedCode := by simp [State.chainDelay, hn]
    have hfield : field d 11 2 = s.recordedCode % 65536 := by rw [h.field 11 2 (by decide), h11, hdelay]
    have hsplit : field d 11 2 = byteAt d 11 * 256 + byteAt d 12 := by simp [field]
    have hlow := byteAt_lt d 12
    have h11' : byteAt d 11 = 0 := by omega
    have h12' : byteAt d 12 = s.recordedCode := by omega
    rw [h.byte 10 (by decide), h10, h12']
    exact ⟨by simp [State.stepIndex, hn], h11', recordedCode_recorded s⟩
  case chain =>
    intro c hc
    rw [h.byte 10 (by decide), h.field 11 2 (by decide), h10, h11]
    simp [State.stepIndex, State.chainDelay, hc]
  case accumulator =>
    intro hl hh
    rw [h.field 13 3 (by decide), h13]
    exact accumulatorBits_read hl hh
  case settles =>
    obtain ⟨hs0, hs⟩ := settleTenths_read s.vc.stationSettle
    obtain ⟨hp0, hp⟩ := settleTenths_read s.vc.peerSettle
    rw [h.field 16 2 (by decide), h.field 18 2 (by decide), h16, h18]
    exact ⟨hs0, hp0, hs, hp⟩

/-- Table 9-10: the flags of a stage. -/
theorem stageByte_read (st : StageState) (latch connected attention : Bool) :
    let x := (st.code + 8 * st.faultCode + bit 5 latch + bit 6 connected + bit 7 attention) % 256
    x % 8 = st.code ∧ x / 8 % 4 = st.faultCode ∧ testBit x 5 = latch ∧ testBit x 6 = connected ∧ testBit x 7 = attention := by
  have hcode := StageState.code_lt st
  have hfault : st.faultCode < 4 := by
    cases st with
    | fault kind => cases kind <;> simp [StageState.faultCode, FaultKind.code]
    | _ => exact (by decide : 0 < 4)
  unfold bit testBit
  cases latch <;> cases connected <;> cases attention <;> simp <;> omega

theorem positionByte_read (p : Position) (c o : Bool) :
    let x := (p.code + bit 2 c + bit 3 o) % 256
    x % 4 = p.code ∧ testBit x 2 = c ∧ testBit x 3 = o := by
  cases p <;> cases c <;> cases o <;> decide

/-- The bytes of a stage part of page 0. -/
theorem page0Stage_fields (s : State) (k : StageId) :
    let d := page0Stage s k
    let r := s.stage k
    byteAt d 0 = (r.state.code + 8 * r.state.faultCode + bit 5 r.tripLatch + bit 6 r.connected +
      bit 7 (s.inputs.get k).attention.active) % 256 ∧
    byteAt d 1 = ((s.position k).code + bit 2 r.closeOut + bit 3 r.openOut) % 256 ∧
    byteAt d 2 = r.duty.length % 256 ∧ byteAt d 3 = r.lastCause.code % 256 ∧ field d 4 2 = (r.discharge + 999) / 1000 % 65536 ∧
    field d 6 2 = r.lastClose % 65536 ∧ field d 8 2 = r.lastOpen % 65536 ∧ field d 10 4 = r.duty.headD 0 % 4294967296 ∧
    field d 14 2 = discrepancyElapsed r.disc % 65536 := by
  simp [page0Stage, List.append_assoc, byteAt_skip, field_skip, secondsUp_tenthsLeft]

/-- A stage part at its place. -/
structure PartAt (part d : List Byte) (o : Nat) : Prop where
  byte : ∀ j, j < 16 → byteAt d (o + j) = byteAt part j
  field : ∀ j n, j + n ≤ 16 → field d (o + j) n = field part j n

theorem stagePartAt {s : State} {k : StageId} (hk : s.configured k = true) {front : List Byte} (hf : front.length = 20)
    {g : StageId → List Byte} (hw : ∀ j, (g j).length = 16) :
    PartAt (g k) (front ++ s.stageIds.flatMap g) (20 + 16 * (k.num - 1)) :=
  ⟨fun _ hj => hf ▸ byteAt_stagePart hk hw hj, fun _ _ hj => hf ▸ field_stagePart hk hw hj⟩

theorem supervisionStage_read {s : State} {k : StageId} {d : List Byte} {o : Nat} (h : PartAt (page0Stage s k) d o) :
    SupervisionStage s d k o := by
  obtain ⟨h0, h1, h2, h3, h4, h6, h8, h10, h14⟩ := page0Stage_fields s k
  obtain ⟨hstate, hfault, hlatch, hconnected, hattention⟩ := stageByte_read (s.stage k).state (s.stage k).tripLatch
    (s.stage k).connected (s.inputs.get k).attention.active
  obtain ⟨hposition, hclose, hopen⟩ := positionByte_read (s.position k) (s.stage k).closeOut (s.stage k).openOut
  have hb0 : byteAt d o = _ := (h.byte 0 (by decide)).trans h0
  have hb1 := (h.byte 1 (by decide)).trans h1
  constructor
  case state => rw [hb0]; exact hstate
  case fault =>
    rw [hb0, hfault]
    cases (s.stage k).state with
    | fault kind => cases kind <;> rfl
    | _ => rfl
  case latch => rw [hb0]; exact hlatch
  case connected => rw [hb0]; exact hconnected
  case attention => rw [hb0]; exact hattention
  case position => rw [hb1]; exact hposition
  case outputs => rw [hb1]; exact ⟨hclose, hopen⟩
  case duty => exact (h.byte 2 (by decide)).trans h2
  case lastCause => exact (h.byte 3 (by decide)).trans (h3.trans (Nat.mod_eq_of_lt (Cause.code_lt _)))
  case discharge => exact (h.field 4 2 (by decide)).trans h4
  case times => exact ⟨(h.field 6 2 (by decide)).trans h6, (h.field 8 2 (by decide)).trans h8⟩
  case oldestDuty => exact (h.field 10 4 (by decide)).trans h10
  case discrepancy =>
    rw [h.field 14 2 (by decide), h14]
    constructor
    · intro hn
      simp [discrepancyElapsed, hn]
    · intro x hx
      simp [discrepancyElapsed, hx]

end Sys2Proof.Machine
end

/-! ### DETAIL pages 1 and 2 (Tables 9-11, 9-12) -/

section
namespace Sys2Proof.Machine

/-- R187: six figures by slot, 0 for an unused one. -/
def usedFigures (slots : Six Slot) (x : Six Nat) : Six Nat := Six.zipWith (fun sl h => if sl.order.isSome then h else 0) slots x

theorem sixFields_read (c : Settings) (x : Six Nat) {i : Nat} (hi : i < 6) :
    field ((usedFigures c.slots x).toList.flatMap fun h => toBytes h 2) (2 * i) 2 = slotFigure c x i % 65536 := by
  have hat : (usedFigures c.slots x).toList[i]? = some (slotFigure c x i) := by interval_cases i <;> rfl
  exact (field_flatMap (fun h => length_toBytes h 2) hat (j := 0) (by decide)).trans (field_toBytes _ 2)

theorem page1Station_fields (s : State) :
    let d := page1Station s
    byteAt d 0 = (bit 7 s.startMarker + 1 % 4) % 256 ∧
    byteAt d 1 = bitsValue [s.port.lost, s.store.weak, s.store.clipped.va, s.store.clipped.vb, s.store.clipped.vc] % 256 ∧
    field d 2 2 = s.store.vctl % 65536 ∧ field d 4 2 = s.store.vhi % 65536 ∧ field d 6 2 = s.store.thd % 65536 ∧
    ∀ i, i < 6 → field d (8 + 2 * i) 2 = slotFigure s.settings s.store.h i % 65536 := by
  have hflags : bit 0 s.port.lost + bit 1 s.store.weak + bit 2 s.store.clipped.va + bit 3 s.store.clipped.vb +
      bit 4 s.store.clipped.vc =
      bitsValue [s.port.lost, s.store.weak, s.store.clipped.va, s.store.clipped.vb, s.store.clipped.vc] := by
    simp only [bitsValue_cons, bit_eq 1, bit_eq 2, bit_eq 3, bit_eq 4, bitsValue_nil]
    ring
  have hslots (i : Nat) (hi : i < 6) : field (page1Station s) (8 + 2 * i) 2 = slotFigure s.settings s.store.h i % 65536 := by
    rw [← sixFields_read s.settings s.store.h hi, page1Station, field_append_right (by simp [pageByte])]
    simp [pageByte, usedFigures]
  simp only [page1Station, hflags] at hslots ⊢
  refine ⟨?_, ?_, ?_, ?_, ?_, hslots⟩ <;> simp [pageByte, List.append_assoc, byteAt_skip, field_skip]

theorem page1Phase_fields (c : Settings) (p : PhaseFigures) :
    field (page1Phase c.slots p) 0 2 = p.v % 65536 ∧ field (page1Phase c.slots p) 2 2 = p.thd % 65536 ∧
    ∀ i, i < 6 → field (page1Phase c.slots p) (4 + 2 * i) 2 = slotFigure c (p.slots.map SlotFigures.h) i % 65536 := by
  refine ⟨?_, ?_, fun i hi => ?_⟩
  · simp [page1Phase, List.append_assoc]
  · simp [page1Phase, List.append_assoc, field_skip]
  · rw [← sixFields_read c (p.slots.map SlotFigures.h) hi, page1Phase, field_append_right (by simp)]
    simp [usedFigures, Six.zipWith, Six.map]

theorem measurement_read (s : State) : MeasurementRead s (detailBody s 1) := by
  obtain ⟨-, h1, h2, h4, h6, hslots⟩ := page1Station_fields s
  have h : StationPart (page1Station s) (detailBody s 1) := stationPart (length_page1Station s) _
  constructor
  case marks =>
    rw [h.byte 1 (by decide), h1]
    exact bitsAre_byte (by simp)
  case voltage => exact ⟨(h.field 2 2 (by decide)).trans h2, (h.field 4 2 (by decide)).trans h4⟩
  case thd => exact (h.field 6 2 (by decide)).trans h6
  case slots => exact fun i hi => (h.field _ 2 (by omega)).trans (hslots i hi)
  case phase =>
    intro j p hp
    obtain ⟨hv, hthd, hfigures⟩ := page1Phase_fields s.settings p
    have hpart (i n : Nat) (hi : i + n ≤ 16) :
        field (detailBody s 1) (20 + 16 * j + i) n = field (page1Phase s.settings.slots p) i n := by
      rw [← field_flatMap (length_page1Phase s.settings.slots) hp hi]
      refine (field_append_right ?_ _ n).trans ?_
      · rw [length_page1Station]; omega
      · rw [length_page1Station, add_assoc, Nat.add_sub_cancel_left]
    refine ⟨(hpart 0 2 (by decide)).trans hv, (hpart 2 2 (by decide)).trans hthd, fun i hi => ?_⟩
    rw [add_assoc]
    exact (hpart (4 + 2 * i) 2 (by omega)).trans (hfigures i hi)

theorem greatestMissed_le {l : List Peer} {m : Nat} (h : ∀ x ∈ l, x.missed ≤ m) : greatestMissed l ≤ m := by
  have hfold (a : Nat) (ha : a ≤ m) : l.foldl (fun m e => max m e.missed) a ≤ m := by
    induction l generalizing a with
    | nil => exact ha
    | cons e l ih =>
      exact ih (fun x hx => h x (List.mem_cons_of_mem _ hx)) _ (max_le ha (h e (by simp)))
  exact hfold 0 (Nat.zero_le m)

theorem le_greatestMissed {l : List Peer} {e : Peer} (h : e ∈ l) : e.missed ≤ greatestMissed l := by
  have hbase (l : List Peer) (a : Nat) : a ≤ l.foldl (fun m e => max m e.missed) a := by
    induction l generalizing a with
    | nil => exact le_refl a
    | cons x l ih => exact (le_max_left a x.missed).trans (ih _)
  have hfold (a : Nat) : e.missed ≤ l.foldl (fun m e => max m e.missed) a := by
    induction l generalizing a with
    | nil => cases h
    | cons x l ih =>
      rcases List.mem_cons.mp h with rfl | h
      · exact (le_max_right a e.missed).trans (hbase l _)
      · exact ih h _
  exact hfold 0

/-- Table 9-12: the alarms by slot, and that of the THD. -/
def State.alarmList (s : State) : List Bool :=
  (Six.zipWith (fun sl a => sl.order.isSome && a.alarm) s.settings.slots s.hm.slots).toList ++ [s.hm.thdAlarm]

/-- The bytes of the station part of page 2. -/
theorem page2Station_fields (s : State) :
    let d := page2Station s
    let st := s.lc.stats
    byteAt d 0 = (bit 7 s.startMarker + 2 % 4) % 256 ∧ byteAt d 1 = bitsValue s.alarmList % 256 ∧
    byteAt d 2 = bitsValue s.watch.toList % 256 ∧ field d 3 2 = s.qEff % 65536 ∧ byteAt d 5 = s.presentIndex % 256 ∧
    byteAt d 6 = s.pv.entries.length % 256 ∧ byteAt d 7 = (s.pv.entries.filter fun e => !e.stale).length % 256 ∧
    byteAt d 8 = greatestMissed s.pv.entries % 256 ∧ byteAt d 9 = s.pv.heard.length % 256 ∧
    byteAt d 10 = captureBits s.ur.capture % 256 ∧ field d 11 2 = st.good % 65536 ∧ field d 13 2 = st.crc % 65536 ∧
    byteAt d 15 = st.format % 256 ∧ byteAt d 16 = st.noise % 256 ∧ byteAt d 17 = st.framing % 256 ∧
    byteAt d 18 = st.long % 256 ∧ byteAt d 19 = (16 * min 15 st.overrun + min 15 st.clash) % 256 := by
  have halarms : slotBits (Six.zipWith (fun sl a => sl.order.isSome && a.alarm) s.settings.slots s.hm.slots) +
      bit 6 s.hm.thdAlarm = bitsValue s.alarmList := by
    simp only [slotBits, State.alarmList, Six.toList, List.cons_append, List.nil_append, bitsValue_cons, bit_eq 1, bit_eq 2,
      bit_eq 3, bit_eq 4, bit_eq 5, bit_eq 6, bitsValue_nil]
    ring
  rw [page2Station, halarms, slotBits_eq]
  refine ⟨?_, ?_, ?_, ?_, ?_, ?_, ?_, ?_, ?_, ?_, ?_, ?_, ?_, ?_, ?_, ?_, ?_⟩ <;>
    simp [pageByte, List.append_assoc, byteAt_skip, field_skip]

theorem captureBits_read {c : Capture} (h : c.count ≤ 16) :
    captureBits (some c) % 256 % 8 = c.stage.num ∧ captureBits (some c) % 256 / 8 = c.count := by
  have hnum := stageNum_le c.stage
  unfold captureBits
  dsimp only
  omega

theorem linePageStation_read {s : State} {d : List Byte} (h : StationPart (page2Station s) d) : LinePageStation s d := by
  obtain ⟨-, h1, h2, h3, h5, h6, h7, h8, h9, h10, h11, h13, h15, h16, h17, h18, h19⟩ := page2Station_fields s
  constructor
  case alarms =>
    rw [h.byte 1 (by decide), h1]
    exact bitsAre_byte (l := s.alarmList) (by simp [State.alarmList, Six.toList])
  case watch =>
    rw [h.byte 2 (by decide), h2]
    exact bitsAre_byte (by simp [Six.toList])
  case qEff => exact (h.field 3 2 (by decide)).trans h3
  case index =>
    rw [h.byte 5 (by decide), h5]
    exact Nat.mod_eq_of_lt (Nat.lt_succ_of_le (resonanceIndex_le _ _))
  case peers => exact (h.byte 6 (by decide)).trans h6
  case fresh => exact (h.byte 7 (by decide)).trans h7
  case missed =>
    rw [h.byte 8 (by decide), h8]
    refine ⟨fun hn => by rw [hn]; rfl, fun e he h255 hmax => ?_⟩
    rw [le_antisymm (greatestMissed_le hmax) (le_greatestMissed he)]
    exact Nat.mod_eq_of_lt (by omega)
  case heard => exact (h.byte 9 (by decide)).trans h9
  case noCapture =>
    intro hn
    rw [h.byte 10 (by decide), h10, hn]
    rfl
  case capture =>
    intro c hc hcount
    rw [h.byte 10 (by decide), h10, hc]
    exact captureBits_read hcount
  case counts =>
    rw [h.field 11 2 (by decide), h.field 13 2 (by decide), h.byte 15 (by decide), h.byte 16 (by decide),
      h.byte 17 (by decide), h.byte 18 (by decide), h.byte 19 (by decide), h19]
    exact ⟨h11, h13, h15, h16, h17, h18, by omega, by omega⟩

/-- R187: a phasor part is read back in two's complement. -/
theorem signed24_unsigned24 {x : Int} (h : x.natAbs < 2 ^ 23) : signed24 (unsigned24 x % 256 ^ 3) = x := by
  unfold signed24 unsigned24
  split <;> omega

theorem page2Stage_fields (s : State) (k : StageId) :
    let d := page2Stage s k
    let e := s.ur.entries.get k
    let p := s.store.neutral.get k
    field d 0 3 = unsigned24 p.re % 256 ^ 3 ∧ field d 3 3 = unsigned24 p.im % 256 ^ 3 ∧
    field d 6 3 = unsigned24 e.null.re % 256 ^ 3 ∧ field d 9 3 = unsigned24 e.null.im % 256 ^ 3 ∧
    field d 12 2 = e.latestU % 65536 ∧ byteAt d 14 = e.blanking % 256 ∧
    byteAt d 15 = bitsValue [e.alarm, s.store.clipped.n.get k, e.inService, e.tripSent] % 256 := by
  have hflags (a b c d : Bool) : bit 0 a + bit 1 b + bit 2 c + bit 3 d = bitsValue [a, b, c, d] := by
    simp only [bitsValue_cons, bit_eq 1, bit_eq 2, bit_eq 3, bitsValue_nil]
    ring
  rw [page2Stage, hflags]
  refine ⟨?_, ?_, ?_, ?_, ?_, ?_, ?_⟩ <;> simp [List.append_assoc, byteAt_skip, field_skip]

theorem linePageStage_read {s : State} {k : StageId} {d : List Byte} {o : Nat} (h : PartAt (page2Stage s k) d o) :
    LinePageStage s d k o := by
  obtain ⟨h0, h3, h6, h9, h12, h14, h15⟩ := page2Stage_fields s k
  constructor
  case phasors =>
    intro i x hx hlt
    have hi : i < 4 := by
      by_contra hge
      rw [List.getElem?_eq_none (by simp; omega)] at hx
      cases hx
    rw [h.field (3 * i) 3 (by omega), ← signed24_unsigned24 hlt]
    interval_cases i <;> obtain rfl := Option.some.inj hx
    · rw [h0]
    · rw [h3]
    · rw [h6]
    · rw [h9]
  case latestU => exact (h.field 12 2 (by decide)).trans h12
  case blanking => exact (h.byte 14 (by decide)).trans h14
  case flags =>
    rw [h.byte 15 (by decide), h15]
    exact bitsAre_byte (by simp)

theorem detailBody_page (s : State) (page : Nat) (h : page ≤ 2) :
    PageRead s page (if page = 1 then 3 else s.stageIds.length) (detailBody s page) :=
  pageRead h (length_detailBody s page) (byteAt_detailBody s h)

theorem stationPart_page0 (s : State) : StationPart (page0Station s) (detailBody s 0) :=
  stationPart (length_page0Station s) (s.stageIds.flatMap (page0Stage s))

theorem stationPart_page2 (s : State) : StationPart (page2Station s) (detailBody s 2) :=
  stationPart (length_page2Station s) (s.stageIds.flatMap (page2Stage s))

theorem stagePart_page0 (s : State) {k : StageId} (hk : s.configured k = true) :
    PartAt (page0Stage s k) (detailBody s 0) (20 + 16 * (k.num - 1)) :=
  stagePartAt hk (length_page0Station s) (length_page0Stage s)

theorem stagePart_page2 (s : State) {k : StageId} (hk : s.configured k = true) :
    PartAt (page2Stage s k) (detailBody s 2) (20 + 16 * (k.num - 1)) :=
  stagePartAt hk (length_page2Station s) (length_page2Stage s)

end Sys2Proof.Machine
end

section
namespace Sys2Proof.Proofs
open Machine

/-- Settles O40: each body by the place of its fields. -/
theorem contentsAreRead : Obligations.ContentsAreRead := by
  refine ⟨fun x m sender seq now hn hsize hp h10 h100 => heardOf_intentBody m sender seq now hn hp h10 h100,
    fun x m => intentBody_read m x, fun x m figure position hn hf hp => ?_, bulletinBody_read, fun s panel => ?_,
    fun s panel => ?_, fun s panel => ?_⟩
  · obtain ⟨h0, h2, h3, h4, h6⟩ := outcomeBody_fields m figure position x
    obtain ⟨hresult, hdir, hstage, hstart⟩ := outcomeByte_read m x.result x.dir x.stage
    have h1 := byteAt_outcomeBody m figure position x
    rw [Nat.mod_eq_of_lt hn] at h0
    rw [Nat.mod_eq_of_lt (Cause.code_lt _)] at h2
    rw [Nat.mod_eq_of_lt (Reason.code_lt _)] at h3
    rw [Nat.mod_eq_of_lt hf] at h4
    rw [Nat.mod_eq_of_lt hp] at h6
    rw [← h1] at hresult hdir hstage hstart
    exact ⟨h0, hresult, hdir, hstage, hstart, h2, h3, h4, h6⟩
  · exact ⟨detailBody_page s 0 (by decide), supervisionStation_read (stationPart_page0 s),
      fun k hk => supervisionStage_read (stagePart_page0 s hk)⟩
  · exact ⟨detailBody_page s 1 (by decide), measurement_read s⟩
  · exact ⟨detailBody_page s 2 (by decide), linePageStation_read (stationPart_page2 s),
      fun k hk => linePageStage_read (stagePart_page2 s hk)⟩

end Sys2Proof.Proofs
end

/-! ### Orders at the interpreter (R175, R188) -/

section
namespace Sys2Proof.Machine

/-- R175: the release of the record at the head of the ring keeps what an event before it kept. -/
theorem SwitchFrame.freed {s t : State} (h : SwitchFrame s t) : SwitchFrame (freeHead s) (freeHead t) := by
  have hring : t.lc.ring.tail = s.lc.ring.tail := congrArg List.tail h.line.ring
  obtain ⟨⟨h1, h2, h3, h4, h5, h6, h7, h8, h9, h10, h11, h12, h13, h14, h15, h16, h17, h18, h19, hcontrol,
    ⟨l1, l2, -, l4, l5, l6, l7, l8, l9, l10, l11⟩⟩, ⟨hstation, hworking, harmed, hnews⟩⟩ := h
  refine ⟨⟨h1, h2, h3, h4, h5, h6, h7, h8, h9, h10, h11, h12, h13, h14, h15, h16, h17, h18, h19, hcontrol,
    ⟨l1, l2, hring, l4, l5, l6, l7, l8, l9, l10, l11⟩⟩, ⟨hstation, hworking, harmed, ?_⟩⟩
  rcases hnews with hnews | ⟨⟨n1, n2, n3, n4, n5, n6⟩, hdelay⟩
  · exact .inl hnews
  · exact .inr ⟨⟨n1, n2, n3, n4, n5, n6⟩, hdelay⟩

theorem NoticeFrame.freed {s t : State} (h : NoticeFrame s t) : NoticeFrame (freeHead s) (freeHead t) :=
  ⟨h.toSwitchFrame.freed, h.stages, h.ready, h.inService⟩

/-- R138: the panel's duplicate record is taken. -/
def State.notedPanel (s : State) (f : Frame) : State :=
  { s with pv := { s.pv with panels := s.pv.panels.set (f.sender - 0x40) ⟨true, f.seq⟩ } }

theorem judged_eq (s : State) (f : Frame) : s.judged f = freeHead (s.notedPanel f) := rfl

/-- R188 step 1: an ORDER of a row is judged on its panel's record. -/
theorem takeHead_heard {s : State} {want : Taken} {f : Frame} (hh : s.head want = some f)
    (hn : (s.pv.panels.getD (f.sender - 0x40) ⟨false, 0⟩).valid = false ∨ f.start = true ∨
      isNew (seqDiff f.seq (s.pv.panels.getD (f.sender - 0x40) ⟨false, 0⟩).lastSeq) = true) (serve : Order → State → State) :
    takeHead want (takePanel serve) s = freeHead (judgeOrder f.order serve (s.notedPanel f)) :=
  (takeHead_eq hh _).trans (congrArg freeHead (takePanel_accepted (judgePanel_new hn) serve))

theorem takeOrder_taken {s : State} {code : Nat} {f : Frame} (h : OrderTaken s code f) (serve : Order → State → State) :
    takeOrder code serve s = freeHead (serve f.order (s.notedPanel f)) := by
  refine (takeHead_heard h.head h.new serve).trans (congrArg freeHead ?_)
  have ha : (s.notedPanel f).addressed f.order.dest = true := h.addressed
  have hp : (s.notedPanel f).panelPermitted f.order.panel = true := h.permitted
  rw [judgeOrder, if_pos ha, if_pos hp, if_pos h.form]

/-- R188: the reason for which a frame that is addressed to the part fails steps 2 and 3. -/
theorem judgeOrder_refused {s : State} {o : Order} (ha : s.addressed o.dest = true)
    (h : s.panelPermitted o.panel = false ∨ o.formOk = false) (serve : Order → State → State) :
    judgeOrder o serve s = refuseOrder o (if s.panelPermitted o.panel then .badOrder else .notPermitted) s := by
  rw [judgeOrder, if_pos ha]
  by_cases hp : s.panelPermitted o.panel = true
  · rw [if_pos hp, if_pos hp, if_neg]
    simpa [hp] using h
  · rw [if_neg hp, if_neg hp]

theorem judgeOrder_elsewhere {s : State} {o : Order} (ha : s.addressed o.dest = false) (serve : Order → State → State) :
    judgeOrder o serve s = s := by
  rw [judgeOrder, if_neg (by rw [ha]; decide)]

/-- R189: what a write of the last-order record, of a frame at the head of the ring, leaves. -/
structure OrderWritten (f : Frame) (outcome : OrderOutcome) (detail : Nat) (mark : SettleMark) (s t : State) : Prop where
  oi : t.oi = { s.oi with last := ⟨f.sender, byteAt f.body 0, outcome, detail⟩, mark := mark }
  triggered : Triggered s t
  frame : NoticeFrame (s.judged f) t
  vc : t.vc = s.vc
  ix : t.ix = s.ix
  ur : t.ur = s.ur

/-- R189: the write itself. -/
theorem writeOrder_written (f : Frame) (outcome : OrderOutcome) (detail : Nat) (mark : SettleMark) (s : State) :
    OrderWritten f outcome detail mark s
      (freeHead (writeOrder f.sender (byteAt f.body 0) outcome detail mark (s.notedPanel f))) := by
  obtain ⟨hoi, hvc, hur, hix, -⟩ := writeOrder_keeps f.sender (byteAt f.body 0) outcome detail mark (s.notedPanel f)
  exact ⟨hoi, writeOrder_triggered f.sender (byteAt f.body 0) outcome detail mark (s.notedPanel f),
    (writeOrder_frame _ _ _ _ _ (s.notedPanel f)).freed, hvc, hix, hur⟩

/-- R189: a refusal is recorded, and nothing else changes. -/
theorem refuseOrder_written (f : Frame) (r : Reason) (s : State) :
    OrderWritten f .refused r.code .none s (freeHead (refuseOrder f.order r (s.notedPanel f))) :=
  writeOrder_written f .refused r.code .none s

theorem OrderWritten.stepDue {f : Frame} {outcome : OrderOutcome} {detail : Nat} {mark : SettleMark} {s t : State}
    (h : OrderWritten f outcome detail mark s t) : t.stepDue = s.stepDue :=
  stepDue_congr (by rw [h.oi])

theorem argLenFits_none {code : Nat} (h : ¬(1 ≤ code ∧ code ≤ 10)) (a : Nat) : argLenFits code a = false := by
  have hcode : code = 0 ∨ ∃ n, code = n + 11 := by
    by_cases h0 : code = 0
    · exact .inl h0
    · exact .inr ⟨code - 11, by omega⟩
  rcases hcode with rfl | ⟨n, rfl⟩ <;> rfl

/-- R71: the codes of the two refusals of R188. -/
theorem refused_code (s : State) (f : Frame) :
    (if s.panelPermitted f.sender = true then Reason.badOrder else .notPermitted).code =
      if s.panelPermitted f.sender = true then 27 else 26 := by
  split <;> rfl

/-- R188 step 3: no code outside 1..10 has a form. -/
theorem badOrder_form {s : State} {f : Frame} (h : s.head .badOrder = some f) : f.order.formOk = false := by
  obtain ⟨r, rest, -, hc, hd⟩ := head_eq_some h
  have hcode : ¬(1 ≤ f.order.code ∧ f.order.code ≤ 10) := by
    intro hrange
    simp only [classify, hd] at hc
    split at hc
    · split at hc <;> cases hc
    · split at hc
      · rw [if_pos (by simpa using hrange)] at hc
        cases hc
      · cases hc
  simp [Order.formOk, argLenFits_none hcode]

end Sys2Proof.Machine
end

section
namespace Sys2Proof.Proofs
open Machine

/-- Settles O50: the steps of R188 in order; the refusal is the write of its record. -/
theorem ordersRefused : Obligations.OrdersRefused := by
  refine ⟨fun s f code h1 h10 h hdue hr => ?_, fun s f h => ?_, fun c want s f hc hh hdue hn ha => ?_⟩
  · obtain ⟨serve, hserve⟩ := exec_order code h1 h10
    have htaken : takeOrder code serve s = _ := (takeHead_heard h.head h.new serve).trans
      (congrArg freeHead (judgeOrder_refused (s := s.notedPanel f) h.addressed hr serve))
    have hw := refuseOrder_written f (if s.panelPermitted f.sender = true then .badOrder else .notPermitted) s
    refine ⟨_, ?_, refused_code s f ▸ hw.oi, hw.triggered, hw.frame, hw.vc, hw.ix, hw.ur⟩
    rcases hserve s with he | he
    · rw [he, htaken]; rfl
    · rw [he, htaken]
      exact congrArg Host.Outcome.next (settleDue_of_not_due (hw.stepDue.trans hdue))
  · have htaken : takeHead .badOrder (takePanel fun _ s => s) s = _ := (takeHead_heard h.head h.new _).trans
      (congrArg freeHead (judgeOrder_refused (s := s.notedPanel f) h.addressed (.inr (badOrder_form h.head)) _))
    have hw := refuseOrder_written f (if s.panelPermitted f.sender = true then .badOrder else .notPermitted) s
    exact ⟨_, congrArg Host.Outcome.next htaken, refused_code s f ▸ hw.oi, hw.triggered, hw.frame, hw.vc, hw.ix, hw.ur⟩
  · have htaken (serve : Order → State → State) : takeHead want (takePanel serve) s = s.judged f :=
      (takeHead_heard hh hn serve).trans (congrArg freeHead (judgeOrder_elsewhere (s := s.notedPanel f) (o := f.order) ha serve))
    rcases hc with hc | ⟨code, h1, h10, hc⟩ <;> obtain ⟨rfl, rfl⟩ := Prod.mk.inj hc
    · exact congrArg Host.Outcome.next (htaken _)
    · obtain ⟨serve, hserve⟩ := exec_order code h1 h10
      rcases hserve s with he | he
      · rw [he, takeOrder, htaken]
      · rw [he, takeOrder, htaken]
        exact congrArg Host.Outcome.next (settleDue_of_not_due (s := s.judged f) hdue)

end Sys2Proof.Proofs
end

/-! ### The single orders (R190) -/

section
namespace Sys2Proof.Machine

/-- R189: the write of the record after the effect of an order. -/
structure EffectWritten (f : Frame) (outcome : OrderOutcome) (detail : Nat) (mark : SettleMark) (s v t : State) : Prop where
  oi : t.oi = { v.oi with last := ⟨f.sender, byteAt f.body 0, outcome, detail⟩, mark := mark }
  triggered : Triggered s t
  vc : t.vc = v.vc
  ix : t.ix = v.ix
  ur : t.ur = v.ur
  outcomeSlot : t.lc.outcomeSlot = v.lc.outcomeSlot
  intentSlot : t.lc.intentSlot = v.lc.intentSlot

theorem writeOrder_effect (f : Frame) (outcome : OrderOutcome) (detail : Nat) (mark : SettleMark) {s v : State}
    (h : DelayKept (s.notedPanel f) v) :
    EffectWritten f outcome detail mark s v (freeHead (writeOrder f.sender (byteAt f.body 0) outcome detail mark v)) := by
  obtain ⟨hoi, hvc, hur, hix, -, -, hout, hint⟩ := writeOrder_keeps f.sender (byteAt f.body 0) outcome detail mark v
  exact ⟨hoi, h.triggered (writeOrder_triggered f.sender (byteAt f.body 0) outcome detail mark v), hvc, hix, hur, hout, hint⟩

/-- R162: a withdrawal among the effects of an order. -/
theorem EffectWritten.withdrawn {f : Frame} {outcome : OrderOutcome} {detail : Nat} {mark : SettleMark} {s v t : State}
    (h : EffectWritten f outcome detail mark s v t) {i : Intent} {r : Reason} (hw : Withdrawn i r s v) : Withdrawn i r s t :=
  hw.congr h.ix h.intentSlot h.outcomeSlot

/-- R162: the withdrawal does not look at the panels' records. -/
theorem Withdrawn.noted {f : Frame} {s t : State} {i : Intent} {r : Reason} (h : Withdrawn i r (s.notedPanel f) t) :
    Withdrawn i r s t := ⟨⟨h.own, h.slot⟩, h.outcome⟩

theorem setMode_same {m : Bool} {s : State} (h : s.vc.manual = m) : setMode m s = s := if_pos h

theorem setMode_manual {s : State} (h : s.vc.manual = false) :
    setMode true s = addCause .manual { s with vc := { s.vc with manual := true } } := by
  simp [setMode, h]

theorem setMode_automatic {s : State} (h : s.vc.manual = true) :
    setMode false s = removeCause .manual { s with vc := { s.vc with manual := false } } := by
  simp [setMode, h]

theorem setMode_withdraws {i : Intent} {s : State} (hman : s.vc.manual = false) (h : Proposes i s) :
    Withdrawn i .suspended s (setMode true s) := by
  have hw := addCause_withdraws .manual (i := i) (s := { s with vc := { s.vc with manual := true } })
    ⟨h.control, h.state, h.own, h.uncommitted⟩
  rw [setMode_manual hman]
  exact ⟨⟨hw.own, hw.slot⟩, hw.outcome⟩

/-- R74: what a MODE leaves whatever it names. -/
theorem setMode_keeps (m : Bool) (s : State) : (setMode m s).oi = s.oi ∧ (setMode m s).ur = s.ur ∧
    (setMode m s).vc.manual = m ∧
    (setMode m s).vc.causes = if s.vc.manual = m then s.vc.causes else { s.vc.causes with manual := m } := by
  by_cases h : s.vc.manual = m
  · rw [setMode_same h, if_pos h]
    exact ⟨rfl, rfl, h, rfl⟩
  · rw [if_neg h]
    cases m with
    | true =>
      rw [setMode_manual (by simpa using h)]
      obtain ⟨hoi, hur, hcauses, hmanual⟩ := addCause_keeps .manual { s with vc := { s.vc with manual := true } }
      exact ⟨hoi, hur, hmanual, hcauses⟩
    | false =>
      rw [setMode_automatic (by simpa using h)]
      obtain ⟨hoi, hur, -, hcauses, hmanual, -⟩ := removeCause_keeps .manual { s with vc := { s.vc with manual := false } }
      exact ⟨hoi, hur, hmanual, hcauses⟩

/-- R50: what the order of the mask leaves. -/
theorem maskBlock_get (s : State) (mask : Nat) (member : Bool) (k : StageId) : (maskBlock s mask member).blockSet.get k =
    if testBit mask (k.num - 1) && s.configured k then member else s.blockSet.get k := by
  cases k <;> rfl

/-- R190: the page that a REPORT asks for. -/
def Order.page (o : Order) : Nat := if o.argLen = 0 then 0 else byteAt o.arg 0

/-- R177: the DETAIL slot is filled. -/
theorem placeDetail_frame (page panel : Nat) (s : State) : NoticeFrame
    { s with lc := { s.lc with detailSlot := some (page, panel) } } (placeDetail page panel s) :=
  refreshAccess_frame { s with lc := { s.lc with detailSlot := some (page, panel) } }

theorem placeDetail_delay (page panel : Nat) (s : State) : DelayKept s (placeDetail page panel s) := by
  obtain ⟨a, l, h⟩ := refreshAccess_only { s with lc := { s.lc with detailSlot := some (page, panel) } }
  rw [placeDetail, h]
  exact ⟨rfl, rfl, rfl, .inr rfl⟩

theorem placeDetail_keeps (page panel : Nat) (s : State) : (placeDetail page panel s).vc = s.vc ∧
    (placeDetail page panel s).ix = s.ix ∧ (placeDetail page panel s).ur = s.ur ∧ (placeDetail page panel s).oi = s.oi := by
  simp [placeDetail]

end Sys2Proof.Machine
end

section
namespace Sys2Proof.Machine

/-- R128: another stage is being captured. -/
def State.capturesElsewhere (s : State) (k : StageId) : Bool :=
  match s.ur.capture with
  | some c => c.stage != k
  | none => false

theorem capturesElsewhere_iff (s : State) (k : StageId) :
    s.capturesElsewhere k = true ↔ ¬∀ c, s.ur.capture = some c → c.stage = k := by
  unfold State.capturesElsewhere
  cases s.ur.capture with
  | none => simp
  | some c => simp

theorem capturesElsewhere_eq_false (s : State) (k : StageId) :
    s.capturesElsewhere k = false ↔ ∀ c, s.ur.capture = some c → c.stage = k := by
  rw [← not_iff_not, ← capturesElsewhere_iff, Bool.not_eq_false]

theorem captureRefusal_eq {s : State} {n : Nat} {k : StageId} (hk : stageOf s.settings.stageCount n = some k) :
    captureRefusal s n = if s.capturesElsewhere k = true then some .busy
      else if (!(s.ur.entries.get k).inService || decide (0 < (s.ur.entries.get k).blanking)) = true then some .notClosed
      else none := by
  unfold captureRefusal
  rw [hk]
  rfl

/-- R128: the refusals of a CAPTURE_NULL in order. -/
theorem captureRefusal_iff {s : State} {n : Nat} {k : StageId} (hk : stageOf s.settings.stageCount n = some k) :
    (captureRefusal s n = some .busy ↔ ∃ c, s.ur.capture = some c ∧ c.stage ≠ k) ∧
    (captureRefusal s n = some .notClosed ↔ (∀ c, s.ur.capture = some c → c.stage = k) ∧
      ((s.ur.entries.get k).inService = false ∨ 0 < (s.ur.entries.get k).blanking)) ∧
    (captureRefusal s n = none ↔ (∀ c, s.ur.capture = some c → c.stage = k) ∧
      (s.ur.entries.get k).inService = true ∧ (s.ur.entries.get k).blanking = 0) := by
  have helse : (∃ c, s.ur.capture = some c ∧ c.stage ≠ k) ↔ s.capturesElsewhere k = true := by
    rw [capturesElsewhere_iff]
    push Not
    rfl
  rw [captureRefusal_eq hk, helse, ← capturesElsewhere_eq_false]
  cases s.capturesElsewhere k with
  | true => simp
  | false =>
    cases (s.ur.entries.get k).inService with
    | false => simp
    | true =>
      by_cases hb : (s.ur.entries.get k).blanking = 0
      · simp [hb]
      · simp [hb, Nat.pos_of_ne_zero hb]

theorem captureRefusal_badStage (s : State) (n : Nat) :
    captureRefusal s n = some .badStage ↔ ¬(1 ≤ n ∧ n ≤ 4 ∧ n ≤ s.settings.stageCount) := by
  rw [← stageOf_none]
  cases hk : stageOf s.settings.stageCount n with
  | none => simp [captureRefusal, hk]
  | some k =>
    rw [captureRefusal_eq hk]
    split
    · simp
    · split <;> simp

theorem serveCapture_refused {s : State} {o : Order} {r : Reason} (h : captureRefusal s o.stage = some r) :
    serveCapture o s = refuseOrder o r s := by
  unfold serveCapture
  rw [h]

theorem serveCapture_accepted {s : State} {o : Order} {k : StageId} (h : captureRefusal s o.stage = none)
    (hk : stageOf s.settings.stageCount o.stage = some k) : serveCapture o s = writeOrder o.panel o.tag .inProgress 0 .capture
      { s with ur := { s.ur with capture := some ⟨k, 0, 0, 0, o.panel, o.tag⟩ } } := by
  unfold serveCapture
  rw [h, hk]

/-- R128: a fresh capture is no news. -/
theorem openCapture_frame (c : Capture) (s : State) : NoticeFrame s { s with ur := { s.ur with capture := some c } } :=
  relayFrame_of s { s.ur with capture := some c } rfl

end Sys2Proof.Machine
end

section
namespace Sys2Proof.Proofs
open Machine

/-- Settles O51: the effect of each order, then the write of its record. -/
theorem singleOrdersServed : Obligations.SingleOrdersServed := by
  refine ⟨fun s f h => ?_, fun s f member h => ?_, fun s f h => ?_, fun s f k h hk hc hin hbl => ?_,
    fun s n => ⟨captureRefusal_badStage s n, fun k hk => captureRefusal_iff hk⟩, fun s f r h hr => ?_⟩
  · generalize hm : (byteAt f.order.arg 0 == 1) = m
    have hserve : serveMode f.order (s.notedPanel f) =
        writeOrder f.sender (byteAt f.body 0) .done 0 .none (setMode m (s.notedPanel f)) := by
      rw [serveMode, hm]; rfl
    have hexec : exec .orderMode s = .next (freeHead _) :=
      congrArg Host.Outcome.next ((takeOrder_taken h serveMode).trans (congrArg freeHead hserve))
    have hframe := setMode_frame m (s.notedPanel f)
    obtain ⟨hoi, hur, hmanual, hcauses⟩ := setMode_keeps m (s.notedPanel f)
    have hwritten := writeOrder_effect f .done 0 .none hframe.toAnnounces.kept
    have wvc := hwritten.vc
    refine ⟨_, hexec, wvc ▸ hmanual, wvc ▸ hcauses, fun hman harg he hx => ?_, fun i hman harg hp => ?_, fun hman harg hc hs => ?_,
      hoi ▸ hwritten.oi, hwritten.triggered, (hframe.trans (writeOrder_frame ..)).freed, hwritten.ur.trans hur⟩
    · obtain rfl : true = m := by rw [← hm, harg]; rfl
      rw [wvc, setMode_manual (s := s.notedPanel f) hman]
      exact (addCause_suspends .manual (s := { s.notedPanel f with vc := { s.vc with manual := true } }) he hx).1
    · obtain rfl : true = m := by rw [← hm, harg]; rfl
      exact hwritten.withdrawn (setMode_withdraws (s := s.notedPanel f) hman ⟨hp.control, hp.state, hp.own, hp.uncommitted⟩).noted
    · obtain rfl : false = m := by rw [← hm, harg]; rfl
      rw [wvc, setMode_automatic (s := s.notedPanel f) hman]
      exact (removeCause_quiet (c := .manual) (s := { s.notedPanel f with vc := { s.vc with manual := false } }) hc hs).1
  · have hframe : NoticeFrame (maskBlock (s.notedPanel f) (byteAt f.order.arg 0) member)
        (writeOrder f.sender (byteAt f.body 0) .done 0 .none (maskBlock (s.notedPanel f) (byteAt f.order.arg 0) member)) :=
      writeOrder_frame ..
    have hw := writeOrder_effect f .done 0 .none (s := s)
      (v := maskBlock (s.notedPanel f) (byteAt f.order.arg 0) member) ⟨rfl, rfl, rfl, .inr rfl⟩
    refine ⟨freeHead (serveBlock member f.order (s.notedPanel f)), ?_, fun k => ?_, hw.oi, hw.triggered, ?_, hw.vc, hw.ix, hw.ur⟩
    · cases member with
      | true => exact congrArg Host.Outcome.next (takeOrder_taken h (serveBlock true))
      | false => exact congrArg Host.Outcome.next (takeOrder_taken h (serveBlock false))
    · exact (congrArg (Four.get · k) hframe.blockSet).trans (maskBlock_get _ _ _ k)
    · have hset : (freeHead (serveBlock member f.order (s.notedPanel f))).blockSet = _ := hframe.blockSet
      rw [hset]
      exact hframe.freed
  · have hplaced := placeDetail_frame f.order.page f.sender (s.notedPanel f)
    have hframe := hplaced.trans (writeOrder_frame f.sender (byteAt f.body 0) .done
      f.order.page .none _)
    have hw := writeOrder_effect f .done f.order.page .none (s := s)
      (placeDetail_delay f.order.page f.sender (s.notedPanel f))
    obtain ⟨hvc, hix, hur, hoi⟩ := placeDetail_keeps f.order.page f.sender
      (s.notedPanel f)
    have hslot : (freeHead (serveReport f.order (s.notedPanel f))).lc.detailSlot = _ := hframe.line.detailSlot
    refine ⟨_, congrArg Host.Outcome.next (takeOrder_taken h serveReport), hslot, hoi ▸ hw.oi, hw.triggered, ?_,
      hw.vc.trans hvc, hw.ix.trans hix, hw.ur.trans hur⟩
    rw [hslot]
    exact hframe.freed
  · have hnone : captureRefusal s f.order.stage = none := (captureRefusal_iff hk).2.2.mpr ⟨hc, hin, hbl⟩
    have hexec := takeOrder_taken h serveCapture
    rw [serveCapture_accepted (s := s.notedPanel f) hnone hk] at hexec
    have hframe := openCapture_frame ⟨k, 0, 0, 0, f.sender, byteAt f.body 0⟩ (s.notedPanel f)
    have hw := writeOrder_effect f .inProgress 0 .capture hframe.toAnnounces.kept
    exact ⟨_, congrArg Host.Outcome.next hexec, hw.ur, hw.oi, hw.triggered, (hframe.trans (writeOrder_frame ..)).freed, hw.vc, hw.ix⟩
  · exact ⟨_, congrArg Host.Outcome.next ((takeOrder_taken h serveCapture).trans
      (congrArg freeHead (serveCapture_refused (s := s.notedPanel f) hr))), (refuseOrder_written f r s).oi,
      (refuseOrder_written f r s).triggered, (refuseOrder_written f r s).frame, (refuseOrder_written f r s).vc,
      (refuseOrder_written f r s).ix, (refuseOrder_written f r s).ur⟩

end Sys2Proof.Proofs
end

/-! ### Switching reports, part by part (R51) -/

section
namespace Sys2Proof.Machine

/-- R51: the state in which the report reaches the Order Interpreter. -/
def reported (r : SwitchReport) (s : State) : State := controllerReport r (exchangeReport r s)

theorem report_eq (r : SwitchReport) (s : State) : report r s = settleChain r (settleOrder r (reported r s)) := rfl

theorem exchangeReport_keeps (r : SwitchReport) (s : State) : (exchangeReport r s).vc = s.vc ∧
    (exchangeReport r s).oi = s.oi ∧ (exchangeReport r s).settings = s.settings :=
  ⟨by simp [exchangeReport, placeOutcome], by simp [exchangeReport, placeOutcome], (exchangeReport_frame r s).settings⟩

theorem reported_oi (r : SwitchReport) (s : State) : (reported r s).oi = s.oi :=
  (controllerReport_keeps r _).1.trans (exchangeReport_keeps r s).2.1

theorem reported_frame (r : SwitchReport) (s : State) : NoticeFrame s (reported r s) :=
  (exchangeReport_frame r s).trans (controllerReport_frame r _)

theorem reported_delay (r : SwitchReport) (s : State) : DelayKept s (reported r s) := (reported_frame r s).toAnnounces.kept

theorem controllerReport_causes (r : SwitchReport) (s : State) : (controllerReport r s).vc.causes = s.vc.causes := by
  unfold controllerReport
  split
  · split
    · split
      · dsimp only
        split
        · rfl
        · rw [enterSuspended_vc]
      · rfl
    · rfl
  all_goals rfl

theorem reported_causes (r : SwitchReport) (s : State) : (reported r s).vc.causes = s.vc.causes :=
  (controllerReport_causes r _).trans (congrArg Controller.causes (exchangeReport_keeps r s).1)

theorem settleChain_none {r : SwitchReport} {s : State} (h : s.oi.chain = none) : settleChain r s = s := by
  unfold settleChain
  rw [h]

theorem settleOrder_other {r : SwitchReport} {s : State} (h : s.oi.mark ≠ .report r.stage) : settleOrder r s = s := if_neg h

/-- R193: without a chain the report ends at the last-order record. -/
theorem report_without_chain {r : SwitchReport} {s : State} (h : s.oi.chain = none) :
    report r s = settleOrder r (reported r s) := by
  rw [report_eq, settleChain_none]
  rw [(settleOrder_keeps r _).1, reported_oi, h]

theorem settleOrder_vc (r : SwitchReport) (s : State) : (settleOrder r s).vc = s.vc := by
  unfold settleOrder
  split
  · split
    all_goals exact (writeOrder_keeps ..).2.1
  · rfl

theorem exchangeReport_vc (r : SwitchReport) (s : State) : (exchangeReport r s).vc = s.vc := (exchangeReport_keeps r s).1

theorem report_vc {r : SwitchReport} {s : State} (h : s.oi.chain = none) :
    (report r s).vc = (controllerReport r (exchangeReport r s)).vc := by
  rw [report_without_chain h, settleOrder_vc]
  rfl

/-- R191: the outcome and the detail that settle an order. -/
def SwitchReport.settles (r : SwitchReport) : OrderOutcome × Nat :=
  match r.result with
  | .executed => (.done, 0)
  | .failed => (.failed, Reason.fault.code)
  | .cut => (.failed, (cutDetail r.cause).code)

/-- R191: the report that names the stage of an ordered switching. -/
theorem settleOrder_eq {r : SwitchReport} {s : State} (h : s.oi.mark = .report r.stage) :
    settleOrder r s = writeOrder s.oi.last.panel s.oi.last.tag r.settles.1 r.settles.2 .none s := by
  unfold settleOrder SwitchReport.settles
  rw [if_pos h]
  cases r.result <;> rfl

theorem settleOrder_oi {r : SwitchReport} {s : State} (h : s.oi.mark = .report r.stage) : (settleOrder r s).oi =
    { s.oi with last := ⟨s.oi.last.panel, s.oi.last.tag, r.settles.1, r.settles.2⟩, mark := .none } := by
  rw [settleOrder_eq h, (writeOrder_keeps ..).1]

theorem settleOrder_triggered {r : SwitchReport} {s : State} (h : s.oi.mark = .report r.stage) :
    Triggered s (settleOrder r s) := by
  rw [settleOrder_eq h]
  exact writeOrder_triggered ..

/-- R159, R165: the own intent after a report. -/
theorem report_ix (r : SwitchReport) (s : State) : (report r s).ix = (exchangeReport r s).ix := by
  rw [report_eq, settleChain_ix, settleOrder_ix]
  exact (controllerReport_keeps r _).2.2.2.2

/-- R91: the report of the controller's own operation. -/
theorem controllerReport_own {r : SwitchReport} {s : State} {o : OwnOp} (hs : s.vc.state = .executing)
    (ho : s.vc.ownOp = some o) (hr : o.stage = r.stage) : controllerReport r s =
    if s.vc.causes.isEmpty = true then enterQuiet { s with vc := { s.vc with ownOp := none } }
    else enterSuspended { s with vc := { s.vc with ownOp := none } } := by
  unfold controllerReport
  rw [hs, ho]
  exact if_pos hr

theorem controllerReport_watching {r : SwitchReport} {s : State} (hs : s.vc.state = .watching) :
    controllerReport r s = enterQuiet s := by
  unfold controllerReport
  rw [hs]

theorem controllerReport_quiet {r : SwitchReport} {s : State} (hs : s.vc.state = .quiet) : controllerReport r s =
    { s with vc := { s.vc with stationSettle := some (ofSeconds s.settings.stationSettle) } } := by
  unfold controllerReport
  rw [hs]

/-- R83, R91: the reports that the controller does not take. -/
theorem controllerReport_nothing {r : SwitchReport} {s : State} (h : s.vc.state = .proposing ∨ s.vc.state = .suspended ∨
    (s.vc.state = .executing ∧ ∀ o, s.vc.ownOp = some o → o.stage ≠ r.stage)) : controllerReport r s = s := by
  unfold controllerReport
  rcases h with h | h | ⟨h, ho⟩ <;> rw [h]
  cases hown : s.vc.ownOp with
  | none => rfl
  | some o => exact if_neg (ho o hown)

/-! ### The end of a chain (Table 10-2) -/

theorem endChain_oi (c : Chain) (e : ChainEnd) (s : State) :
    (endChain c e s).oi = ⟨⟨c.panel, c.tag, e.outcome, e.detail c.index⟩, .none, none, c.index, e.reason⟩ := by
  rw [endChain, (removeCause_keeps ..).1, (writeOrder_keeps ..).1]

theorem endChain_causes (c : Chain) (e : ChainEnd) (s : State) :
    (endChain c e s).vc.causes = { s.vc.causes with chainActive := false } := by
  rw [endChain, (removeCause_keeps ..).2.2.2.1, (writeOrder_keeps ..).2.1]
  rfl

theorem endChain_triggered (c : Chain) (e : ChainEnd) (s : State) : Triggered s (endChain c e s) := by
  have hw := writeOrder_triggered c.panel c.tag e.outcome (e.detail c.index) .none
    { s with oi := { s.oi with chain := none, stepIndex := c.index, stepReason := e.reason } }
  have hr := (removeCause_frame .chainActive (writeOrder c.panel c.tag e.outcome (e.detail c.index) .none
    { s with oi := { s.oi with chain := none, stepIndex := c.index, stepReason := e.reason } })).toAnnounces.kept
  have hk := (writeOrder_frame c.panel c.tag e.outcome (e.detail c.index) .none
    { s with oi := { s.oi with chain := none, stepIndex := c.index, stepReason := e.reason } }).toAnnounces.kept
  exact (Triggered.kept hw hr hk :)

/-- R193: the next step of a chain. -/
theorem advanceChain_oi {c : Chain} {next : Machine.Step} (hn : c.steps[c.index]? = some next) (s : State) :
    (advanceChain c s).oi = { s.oi with
      chain := some { c with index := c.index + 1, operating := false, delay := next.delay }
      last := if s.oi.mark = .chain then ⟨c.panel, c.tag, .inProgress, c.index + 1⟩ else s.oi.last } := by
  unfold advanceChain
  rw [hn]
  dsimp only
  split
  next hm =>
    rw [(writeOrder_keeps ..).1]
    dsimp only
    rw [hm]
  · rfl

theorem advanceChain_causes (c : Chain) (s : State) : (advanceChain c s).vc.causes = s.vc.causes := by
  unfold advanceChain
  dsimp only
  split
  · rw [(writeOrder_keeps ..).2.1]
  · rfl

theorem advanceChain_triggered {c : Chain} {s : State} (hm : s.oi.mark = .chain) : Triggered s (advanceChain c s) := by
  unfold advanceChain
  dsimp only
  rw [if_pos hm]
  exact writeOrder_triggered c.panel c.tag .inProgress (c.index + 1) .chain { s with oi := { s.oi with chain := _ } }

/-- R193: the report of the step in flight. -/
theorem settleChain_step {r : SwitchReport} {s : State} {c : Chain} {st : Machine.Step} (hc : s.oi.chain = some c)
    (hst : c.current = some st) (ho : c.operating = true) (hr : st.stage = r.stage.num) : settleChain r s =
    if r.result = .failed then endChain c .failed s
    else if c.index < c.steps.length then advanceChain c s else endChain c .done s := by
  unfold settleChain
  rw [hc]
  dsimp only
  rw [hst]
  dsimp only
  rw [if_pos (by simp [ho, hr])]
  cases r.result <;> rfl

theorem settleChain_other {r : SwitchReport} {s : State} {c : Chain} {st : Machine.Step} (hc : s.oi.chain = some c)
    (hst : c.current = some st) (h : c.operating = false ∨ st.stage ≠ r.stage.num) : settleChain r s = s := by
  unfold settleChain
  rw [hc]
  dsimp only
  rw [hst]
  dsimp only
  rw [if_neg]
  rcases h with h | h <;> simp [h]

end Sys2Proof.Machine
end

section
namespace Sys2Proof.Proofs
open Machine

/-- Settles O55: the report taken by each block in turn. -/
theorem reportsTaken : Obligations.ReportsTaken := by
  refine ⟨fun r s => ⟨report_frame r s, report_outcomeSlot r s, ?_⟩, fun r s hc => ⟨fun o hs ho hr => ?_, fun hs => ?_, fun hs => ?_,
    fun hs => ?_⟩, fun r s hc => ⟨fun hm => ?_, fun hm => ⟨?_, fun hr => ?_, fun hr => ?_, fun hr hcause => ?_⟩⟩,
    fun r s c st hc hm hst => ⟨fun ho => ?_, fun ho hr => ⟨fun hf => ?_, fun hf hlast => ?_, fun next hf hnext => ?_⟩⟩⟩
  · exact (report_ix r s).trans (refreshAccess_ix _)
  · have hstate : (exchangeReport r s).vc.state = .executing := by rw [exchangeReport_vc, hs]
    have hown : (exchangeReport r s).vc.ownOp = some o := by rw [exchangeReport_vc, ho]
    rw [report_vc hc, controllerReport_own hstate hown hr, exchangeReport_vc]
    refine ⟨?_, ?_, ?_, ?_, fun hcauses => ?_⟩
    · split
      · rfl
      · rw [enterSuspended_vc]
    · split
      · rfl
      · rw [enterSuspended_vc]
    · split
      · rfl
      · rw [enterSuspended_vc]
    · split
      · rfl
      · rw [enterSuspended_vc]
    · have hcauses' : ¬(exchangeReport r s).vc.causes.isEmpty = true := by rw [exchangeReport_vc, hcauses]; decide
      have hentered : Triggered s (reported r s) := by
        rw [reported, controllerReport_own hstate hown hr, if_neg hcauses']
        exact (exchangeReport_frame r s).toAnnounces.kept.triggered (enterSuspended_triggered
          { exchangeReport r s with vc := { (exchangeReport r s).vc with ownOp := none } })
      rw [report_without_chain hc]
      exact Triggered.kept hentered (settleOrder_frame r _).toAnnounces.kept (reported_delay r s)
  · have hstate : (exchangeReport r s).vc.state = .watching := by rw [exchangeReport_vc, hs]
    rw [report_vc hc, controllerReport_watching hstate]
    exact ⟨rfl, rfl, rfl, congrArg (fun c : Settings => some (1000 * c.stationSettle)) (exchangeReport_frame r s).settings⟩
  · have hstate : (exchangeReport r s).vc.state = .quiet := by rw [exchangeReport_vc, hs]
    rw [report_vc hc, controllerReport_quiet hstate, (exchangeReport_frame r s).settings, exchangeReport_vc]
    rfl
  · rw [report_vc hc, controllerReport_nothing (by rw [exchangeReport_vc]; exact hs), exchangeReport_vc]
  · rw [report_without_chain hc, settleOrder_other (by rw [reported_oi]; exact hm), reported_oi]
  · rw [report_without_chain hc]
    exact (reported_delay r s).triggered (settleOrder_triggered (by rw [reported_oi]; exact hm))
  · have hset : r.settles = (.done, 0) := by simp [SwitchReport.settles, hr]
    rw [report_without_chain hc, settleOrder_oi (by rw [reported_oi]; exact hm), reported_oi, hset]
  · have hset : r.settles = (.failed, 6) := by simp [SwitchReport.settles, hr, Reason.code]
    rw [report_without_chain hc, settleOrder_oi (by rw [reported_oi]; exact hm), reported_oi, hset]
  · have hset : r.settles = (.failed, if r.cause = .deadLine then 9 else 5) := by
      rcases hcause with h | h | h <;> simp [SwitchReport.settles, hr, h, cutDetail, Reason.code]
    rw [report_without_chain hc, settleOrder_oi (by rw [reported_oi]; exact hm), reported_oi, hset]
  all_goals
    have hchain : (reported r s).oi.chain = some c := by rw [reported_oi, hc]
    have hmark : (reported r s).oi.mark ≠ .report r.stage := by rw [reported_oi]; exact hm
    rw [report_eq, settleOrder_other hmark]
  · rw [settleChain_other hchain hst ho, reported_oi]
  all_goals rw [settleChain_step hchain hst ho hr]
  · rw [if_pos hf]
    exact ⟨endChain_oi .., (reported_delay r s).triggered (endChain_triggered ..),
      (endChain_causes ..).trans (by rw [reported_causes])⟩
  · rw [if_neg hf, if_neg (by omega)]
    exact ⟨endChain_oi .., (reported_delay r s).triggered (endChain_triggered ..),
      (endChain_causes ..).trans (by rw [reported_causes])⟩
  · have hlen : c.index < c.steps.length := (List.getElem?_eq_some_iff.mp hnext).1
    rw [if_neg hf, if_pos hlen]
    refine ⟨(advanceChain_oi hnext _).trans (by rw [reported_oi]), fun hmc => ?_, (advanceChain_causes c _).trans (reported_causes r s)⟩
    exact (reported_delay r s).triggered (advanceChain_triggered (by rw [reported_oi]; exact hmc))

end Sys2Proof.Proofs
end

/-! ### What a stage notice leaves at the orders, the controller and the own intent (R52) -/

section
namespace Sys2Proof.Machine

/-- R130: no exit of the stage from CLOSED settles the order of a null capture. -/
def State.uncaptured (s : State) (k : StageId) : Prop :=
  s.oi.mark ≠ .capture ∨ (s.stage k).state ≠ .closed ∨ ∀ c, s.ur.capture = some c → c.stage ≠ k

/-- R164: a notice of the stage withdraws no own intent. -/
def State.unproposed (s : State) (k : StageId) : Prop := ∀ i, s.ix.own = some i → i.stage = k → i.phase = .committed

theorem captureEnded_unmarked {c : Capture} {s : State} (h : s.oi.mark ≠ .capture) (o : OrderOutcome) (d : Nat) :
    captureEnded c o d s = s := if_neg h

theorem abandonCapture_oi {k : StageId} {s : State} (h : s.oi.mark ≠ .capture ∨ ∀ c, s.ur.capture = some c → c.stage ≠ k) :
    (abandonCapture k s).oi = s.oi := by
  unfold abandonCapture
  split
  next c hc =>
    split
    next hk =>
      rcases h with h | h
      · rw [captureEnded_unmarked (s := { s with ur := { s.ur with capture := none } }) h]
      · exact absurd hk (h c hc)
    next => rfl
  next => rfl

theorem relayNotice_oi {k : StageId} {old new : StageState} {s : State}
    (h : s.oi.mark ≠ .capture ∨ old ≠ .closed ∨ ∀ c, s.ur.capture = some c → c.stage ≠ k) :
    (relayNotice k old new s).oi = s.oi := by
  unfold relayNotice
  split
  · rfl
  · split
    · rfl
    · split
      next hold =>
        rw [(unbalanceNotice_keeps ..).1]
        refine abandonCapture_oi (s := s.modEntry k RelayEntry.leaveService) ?_
        rcases h with h | h | h
        · exact .inl h
        · exact absurd hold h
        · exact .inr h
      next => rfl

theorem exchangeNotice_unproposed {k : StageId} {s : State} (h : s.unproposed k) : exchangeNotice k s = s := by
  unfold exchangeNotice
  split
  next i hi =>
    split
    next hk => exact withdraw_nothing (fun j hj => by rw [hi] at hj; exact Option.some.inj hj ▸ h i hi hk) _
    next => rfl
  next => rfl

theorem changeStage_oi {k : StageId} {s : State} (h : s.uncaptured k) (new : StageState) : (changeStage k new s).oi = s.oi := by
  have hrelay : (relayNotice k (s.stage k).state new (trigger (s.moveStage k new))).oi = s.oi := by
    refine (relayNotice_oi ?_).trans (trigger_oi _)
    rw [trigger_oi, trigger_ur]
    exact h
  exact (exchangeNotice_keeps ..).1.trans hrelay

/-- R164: where it withdraws no intent, a notice leaves the controller and the Intent Exchange. -/
theorem changeStage_control {k : StageId} {s : State} (h : s.unproposed k) (new : StageState) :
    (changeStage k new s).vc = s.vc ∧ (changeStage k new s).ix = s.ix := by
  have hix : (relayNotice k (s.stage k).state new (trigger (s.moveStage k new))).ix = s.ix :=
    (relayNotice_ix ..).1.trans (trigger_ix _)
  have hvc : (relayNotice k (s.stage k).state new (trigger (s.moveStage k new))).vc = s.vc :=
    (relayNotice_slot ..).1.trans (trigger_vc _)
  have hnotice : changeStage k new s = rejudge (relayNotice k (s.stage k).state new (trigger (s.moveStage k new))) :=
    congrArg rejudge (exchangeNotice_unproposed (by unfold State.unproposed; rw [hix]; exact h))
  rw [hnotice]
  exact ⟨hvc, hix⟩

/-! ### An open and a close in flight after their issue (R31, R32) -/

/-- R32: the record that an open in flight leaves, before its stage moves. -/
def State.opensWith (s : State) (k : StageId) (cause : Cause) (n : Nat) (r : Stage) : Stage :=
  { r with
    op := some ⟨.opening, cause, n, s.ms, none⟩, lastCause := cause, disc := none, openOut := true
    pulse := some (s.cfg k).pulseWidth, window := some (s.cfg k).operateWindow
    discharge := if r.state = .lockout then 0 else r.discharge }

theorem issueOpen_flight {k : StageId} {s : State} (hp : s.position k ≠ .opened) (cause : Cause) (n : Nat) :
    issueOpen k cause n s = changeStage k .opening (s.modStage k (s.opensWith k cause n)) := by
  have hb : (s.position k == .opened) = false := by simpa using hp
  simp only [issueOpen, hb]
  rfl

/-- R32, R59: the record that a close in flight leaves, before its stage moves. -/
def State.closesWith (s : State) (k : StageId) (cause : Cause) (n : Nat) (r : Stage) : Stage :=
  { r with
    duty := r.duty ++ [s.seconds]
    op := some ⟨.close, cause, n, s.ms, none⟩, lastCause := cause, disc := none, closeOut := true
    pulse := some (s.cfg k).pulseWidth, window := some (s.cfg k).operateWindow }

theorem issueClose_flight {k : StageId} {s : State} (hp : s.position k ≠ .closed) (cause : Cause) (n : Nat) :
    issueClose k cause n s = changeStage k .closing (s.modStage k (s.closesWith k cause n)) := by
  have hb : (s.position k == .closed) = false := by simpa using hp
  simp only [issueClose, hb, State.addDuty, modStage_modStage]
  rfl

/-- A change of a stage record alone is seen by neither the orders nor the intents. -/
theorem modStage_uncaptured {s : State} {k : StageId} (h : s.uncaptured k) {f : Stage → Stage}
    (hf : (f (s.stage k)).state = (s.stage k).state) : (s.modStage k f).uncaptured k := by
  unfold State.uncaptured at *
  rw [modStage_stage, hf]
  exact h

theorem issueOpen_flight_oi {k : StageId} {s : State} (hp : s.position k ≠ .opened) (hc : s.uncaptured k) (cause : Cause) (n : Nat) :
    (issueOpen k cause n s).oi = s.oi := by
  rw [issueOpen_flight hp]
  exact changeStage_oi (modStage_uncaptured hc rfl) _

theorem issueOpen_flight_control {k : StageId} {s : State} (hp : s.position k ≠ .opened) (hi : s.unproposed k) (cause : Cause)
    (n : Nat) : (issueOpen k cause n s).vc = s.vc ∧ (issueOpen k cause n s).ix = s.ix := by
  rw [issueOpen_flight hp]
  exact changeStage_control (s := s.modStage k _) hi _

theorem issueClose_flight_oi {k : StageId} {s : State} (hp : s.position k ≠ .closed) (hc : s.uncaptured k) (cause : Cause) (n : Nat) :
    (issueClose k cause n s).oi = s.oi := by
  rw [issueClose_flight hp]
  exact changeStage_oi (modStage_uncaptured hc rfl) _

theorem issueClose_flight_control {k : StageId} {s : State} (hp : s.position k ≠ .closed) (hi : s.unproposed k) (cause : Cause)
    (n : Nat) : (issueClose k cause n s).vc = s.vc ∧ (issueClose k cause n s).ix = s.ix := by
  rw [issueClose_flight hp]
  exact changeStage_control (s := s.modStage k _) hi _

end Sys2Proof.Machine
end

/-! ### Requests served (R191, R193) -/

section
namespace Sys2Proof.Machine

theorem serveSwitch_busy {dir : Direction} {n : Nat} {s : State} (h : s.orderBusy dir n = true) (cause : Cause)
    (refused : Reason → State → State) (accepted : StageId → State → State) :
    serveSwitch dir n cause refused accepted s = refused .busy s := if_pos h

theorem serveSwitch_refused {dir : Direction} {n : Nat} {s : State} {cause : Cause} {r : Reason} (h : s.orderBusy dir n = false)
    (hr : requestRefusal (pruneRequest s dir n) dir n cause = some r) (refused : Reason → State → State)
    (accepted : StageId → State → State) :
    serveSwitch dir n cause refused accepted s = refused r (pruneRequest s dir n) := by
  unfold serveSwitch
  rw [if_neg (by rw [h]; decide)]
  dsimp only
  rw [hr]

theorem serveSwitch_accepted {dir : Direction} {n : Nat} {s : State} {cause : Cause} {k : StageId} (h : s.orderBusy dir n = false)
    (hk : stageOf s.settings.stageCount n = some k) (hr : requestRefusal (pruneRequest s dir n) dir n cause = none)
    (refused : Reason → State → State) (accepted : StageId → State → State) :
    serveSwitch dir n cause refused accepted s = actRequest dir k cause (accepted k (pruneRequest s dir n)) := by
  have hk' : stageOf (pruneRequest s dir n).settings.stageCount n = some k := by
    rw [(pruneRequest_frame s dir n).settings]
    exact hk
  unfold serveSwitch
  rw [if_neg (by rw [h]; decide)]
  dsimp only
  rw [hr, hk']

/-- R191 step 3: a close request is busy. -/
theorem orderBusy_close (s : State) (n : Nat) : s.orderBusy .close n = true ↔ s.vc.state = .executing ∨
    ∃ j, s.configured j = true ∧ ((s.stage j).state = .closing ∨ (s.stage j).state = .opening) := by
  simp only [State.orderBusy, State.anyMoving, Bool.or_eq_true, List.any_eq_true, beq_iff_eq, mem_stageIds]

/-- R191 step 3: an open request is busy. -/
theorem orderBusy_open (s : State) (n : Nat) : s.orderBusy .opening n = true ↔
    (∃ j, s.configured j = true ∧ (s.stage j).state = .closing) ∨
      ∃ k, stageOf s.settings.stageCount n = some k ∧ (s.stage k).state = .opening := by
  have hclosing : s.anyClosing = true ↔ ∃ j, s.configured j = true ∧ (s.stage j).state = .closing := by
    simp only [State.anyClosing, List.any_eq_true, beq_iff_eq, mem_stageIds]
  rw [← hclosing]
  unfold State.orderBusy
  cases stageOf s.settings.stageCount n with
  | none => simp
  | some k => simp

theorem pruneRequest_close {s : State} {n : Nat} {k : StageId} (hk : stageOf s.settings.stageCount n = some k) :
    pruneRequest s .close n = s.prune k := by
  unfold pruneRequest pruneFor
  dsimp only
  rw [hk]

/-- R64: the close test passes on a READY stage only. -/
theorem closeTest_pass {s : State} {n : Nat} {k : StageId} {cause : Cause} {intent : Nat}
    (hk : stageOf s.settings.stageCount n = some k) (h : closeTest s n cause intent = none) : ClosePass s k cause intent := by
  obtain ⟨j, hj, hpass⟩ := closeTest_none h
  obtain rfl := Option.some.inj (hk.symm.trans hj)
  exact hpass

/-- R30, R32, R59: a close in flight, issued on the stage's pruned record. -/
structure CloseIssued (k : StageId) (cause : Cause) (n : Nat) (s t : State) : Prop where
  stage : t.stage k = s.closeIssued k cause n
  others : OtherStages k s t
  ready : t.ready = s.ready.filter (· ≠ k)
  inService : t.inService = s.inService
  frame : SwitchFrame s t

theorem issueClose_issued {s w : State} {k : StageId} (hw : NoticeFrame (s.prune k) w) (hready : (s.stage k).state = .ready)
    (hp : s.position k ≠ .closed) (cause : Cause) (n : Nat) : CloseIssued k cause n s (issueClose k cause n w) := by
  have hstage : w.stage k = { s.stage k with duty := pruneDuty s.seconds (s.stage k).duty } :=
    (hw.stage k).trans (modStage_stage s k _)
  have hpw : w.position k ≠ .closed := by
    unfold State.position at *
    rw [hw.inputs]
    exact hp
  have hcfg : w.cfg k = s.cfg k := by
    unfold State.cfg
    rw [hw.settings]
    rfl
  have hms : w.ms = s.ms := hw.ms
  have hsec : w.seconds = s.seconds := by unfold State.seconds; rw [hms]
  obtain ⟨h1, h2, h3, h4, h5, -⟩ := issueClose_spec k cause n w (by rw [hstage]; exact hready) hpw
  refine ⟨?_, fun j hj => ?_, h3.trans (by rw [hw.ready]; rfl), h4.trans hw.inService,
    ((prune_frame k s).trans hw.toSwitchFrame).trans h5⟩
  · rw [h1, hstage, hcfg, hms, hsec]
    rfl
  · exact (h2 j hj).trans ((hw.stage j).trans (modStage_stage_ne s _ hj))

/-- R31, R32: an open in flight. -/
structure OpenIssued (k : StageId) (cause : Cause) (n : Nat) (s t : State) : Prop where
  stage : t.stage k = s.openIssued k cause n
  others : OtherStages k s t
  ready : t.ready = s.ready
  inService : t.inService = if (s.stage k).state = .closed then s.inService.filter (· ≠ k) else s.inService
  frame : SwitchFrame s t

theorem actOpen_issues {s : State} {k : StageId}
    (h : (s.stage k).state = .closed ∨ ((s.stage k).state.isFault = true ∧ (s.stage k).connected = true)) (cause : Cause)
    (n : Nat) : actOpen k cause n s = issueOpen k cause n s := by
  unfold actOpen
  cases hst : (s.stage k).state with
  | closed => rfl
  | fault kind =>
    rcases h with h | h
    · rw [hst] at h; cases h
    · exact if_pos h.2
  | _ => simp [hst, StageState.isFault] at h

theorem issueOpen_issued {s w : State} {k : StageId} (hw : NoticeFrame s w)
    (h : (s.stage k).state = .closed ∨ (s.stage k).state.isFault = true) (hp : s.position k ≠ .opened) (cause : Cause) (n : Nat) :
    OpenIssued k cause n s (issueOpen k cause n w) := by
  have hstage : w.stage k = s.stage k := hw.stage k
  have hpw : w.position k ≠ .opened := by
    unfold State.position at *
    rw [hw.inputs]
    exact hp
  have hcfg : w.cfg k = s.cfg k := by
    unfold State.cfg
    rw [hw.settings]
  have hms : w.ms = s.ms := hw.ms
  have hlockout : (s.stage k).state ≠ .lockout := by
    intro hl
    simp [hl, StageState.isFault] at h
  have hready : (s.stage k).state ≠ .ready := by
    intro hl
    simp [hl, StageState.isFault] at h
  obtain ⟨h1, h2, h3, h4, h5, -⟩ := issueOpen_spec k cause n w
  rw [if_neg hpw, hstage, if_neg hlockout] at h1
  refine ⟨?_, fun j hj => (h2 j hj).trans (hw.stage j), ?_, ?_, hw.toSwitchFrame.trans h5⟩
  · rw [h1]
    unfold State.openIssued
    rw [hstage, hcfg, hms]
  · rw [h3, hstage, hw.ready]
    simp [relist, hready]
  · rw [h4, hstage, hw.inService]
    simp [relist]

end Sys2Proof.Machine
end

/-! ### Chain steps (R192, R193) -/

section
namespace Sys2Proof.Machine

/-- R193: the chain's step is in flight. -/
def State.operates (s : State) (c : Chain) : State := { s with oi := { s.oi with chain := some { c with operating := true } } }

/-- R192: a chain in flight is no news. -/
theorem operates_frame (c : Chain) (s : State) : NoticeFrame s (s.operates c) := orderFrame_of s _ rfl

theorem serveStep_eq {s : State} {c : Chain} {st : Machine.Step} (hc : s.oi.chain = some c) (ho : c.operating = false)
    (hst : c.current = some st) : serveStep s = serveSwitch st.dir st.stage .sequence (fun r => endChain c (.refused r))
      (fun _ s => s.operates c) s := by
  unfold serveStep
  rw [hc]
  dsimp only
  rw [hst]
  dsimp only
  rw [if_neg (by rw [ho]; decide)]
  rfl

theorem serveStep_close {s : State} {c : Chain} {st : Machine.Step} {k : StageId} (hc : s.oi.chain = some c)
    (ho : c.operating = false) (hst : c.current = some st) (hd : st.dir = .close) (hb : s.orderBusy .close st.stage = false)
    (hk : stageOf s.settings.stageCount st.stage = some k) (ht : closeTest (s.prune k) st.stage .sequence 0 = none)
    (hp : s.position k ≠ .closed) : CloseIssued k .sequence 0 s (serveStep s) ∧
      (serveStep s).oi = { s.oi with chain := some { c with operating := true } } := by
  have hprune := pruneRequest_close hk
  have hready : (s.stage k).state = .ready := by
    have hr := (closeTest_pass (s := s.prune k) hk ht).ready
    rw [State.prune, modStage_stage] at hr
    exact hr
  have hserve := serveSwitch_accepted (dir := .close) hb hk (cause := .sequence) (by rw [hprune]; exact ht)
    (fun r => endChain c (.refused r)) (fun _ s => s.operates c)
  rw [serveStep_eq hc ho hst, hd, hserve, hprune]
  refine ⟨issueClose_issued (operates_frame c _) hready hp _ _, ?_⟩
  refine (issueClose_flight_oi (s := (s.prune k).operates c) hp (.inr (.inl ?_)) _ _).trans rfl
  show ((s.prune k).stage k).state ≠ .closed
  rw [State.prune, modStage_stage]
  simp [hready]

/-- R68: the stage of an open request that is not busy and passes the open conditions, no stage in OPENING or CLOSING among them. -/
theorem openRefusal_opens {s : State} {n : Nat} {k : StageId} {cause : Cause} (hk : stageOf s.settings.stageCount n = some k)
    (hb : s.orderBusy .opening n = false) (ht : openRefusal s n cause = none) :
    (s.stage k).state = .closed ∨ ((s.stage k).state.isFault = true ∧ (s.stage k).connected = true) := by
  obtain ⟨hnum, hle⟩ := stageOf_some hk
  have hconf : s.configured k = true := by simpa [State.configured, hnum] using hle
  have hstates := ((openRefusal_none_iff s k cause hconf).mp (by rw [hnum]; exact ht)).2
  have hidle : ¬s.orderBusy .opening n = true := by rw [hb]; decide
  rw [orderBusy_open, not_or] at hidle
  obtain ⟨hclosing, hopening⟩ := hidle
  rcases hstates with h | h | h | h
  · exact .inl h
  · exact absurd ⟨k, hconf, h⟩ hclosing
  · exact absurd ⟨k, hk, h⟩ hopening
  · exact .inr h

theorem serveStep_open {s : State} {c : Chain} {st : Machine.Step} {k : StageId} (hc : s.oi.chain = some c)
    (ho : c.operating = false) (hst : c.current = some st) (hd : st.dir = .opening) (hb : s.orderBusy .opening st.stage = false)
    (hk : stageOf s.settings.stageCount st.stage = some k) (ht : openRefusal s st.stage .sequence = none)
    (hp : s.position k ≠ .opened) (hcap : s.uncaptured k) : OpenIssued k .sequence 0 s (serveStep s) ∧
      (serveStep s).oi = { s.oi with chain := some { c with operating := true } } := by
  have hopens := openRefusal_opens hk hb ht
  have hserve := serveSwitch_accepted (dir := .opening) hb hk (cause := .sequence) ht
    (fun r => endChain c (.refused r)) (fun _ s => s.operates c)
  have hact : actRequest .opening k .sequence (s.operates c) = issueOpen k .sequence 0 (s.operates c) :=
    actOpen_issues (s := s.operates c) hopens _ _
  have hstep : serveStep s = issueOpen k .sequence 0 (s.operates c) := by
    rw [serveStep_eq hc ho hst, hd, hserve]
    exact hact
  rw [hstep]
  exact ⟨issueOpen_issued (operates_frame c s) (hopens.imp id And.left) hp _ _,
    issueOpen_flight_oi (s := s.operates c) hp hcap _ _⟩

/-- R63: the pruning sees the stage records, the settings and the time alone. -/
theorem pruneRequest_congr {s t : State} (h : t.stages = s.stages) (hset : t.settings = s.settings) (hms : t.ms = s.ms)
    (dir : Direction) (n : Nat) : (pruneRequest t dir n).stages = (pruneRequest s dir n).stages ∧
      (pruneRequest t dir n).ready = t.ready ∧ (pruneRequest t dir n).inService = t.inService ∧
      (pruneRequest t dir n).vc = t.vc ∧ (pruneRequest t dir n).ix = t.ix ∧ (pruneRequest t dir n).ur = t.ur ∧
      (pruneRequest t dir n).oi = t.oi := by
  cases dir with
  | opening => exact ⟨h, rfl, rfl, rfl, rfl, rfl, rfl⟩
  | close =>
    unfold pruneRequest pruneFor
    dsimp only
    rw [hset]
    split
    next k hk =>
      refine ⟨?_, rfl, rfl, rfl, rfl, rfl, rfl⟩
      simp only [State.prune, State.modStage, h, State.seconds, hms]
    next => exact ⟨h, rfl, rfl, rfl, rfl, rfl, rfl⟩

/-- R64, R68, R191: what a request is judged on stands in both states alike. -/
structure SameTest (s t : State) : Prop where
  stages : t.stages = s.stages
  settings : t.settings = s.settings
  inputs : t.inputs = s.inputs
  blockSet : t.blockSet = s.blockSet
  hm : t.hm = s.hm
  store : t.store = s.store
  lost : t.port.lost = s.port.lost
  entries : t.pv.entries = s.pv.entries
  deadLine : t.vc.deadLine = s.vc.deadLine
  executing : (t.vc.state == .executing) = (s.vc.state == .executing)
  ms : t.ms = s.ms

theorem SameTest.prune {s t : State} (h : SameTest s t) (dir : Direction) (n : Nat) :
    SameTest (pruneRequest s dir n) (pruneRequest t dir n) := by
  have hs := pruneRequest_frame s dir n
  have ht := pruneRequest_frame t dir n
  obtain ⟨-, -, -, hvs, -⟩ := pruneRequest_congr (s := s) rfl rfl rfl dir n
  obtain ⟨hstages, -, -, hvt, -⟩ := pruneRequest_congr h.stages h.settings h.ms dir n
  constructor
  case stages => exact hstages
  case settings => rw [ht.settings, hs.settings, h.settings]
  case inputs => rw [ht.inputs, hs.inputs, h.inputs]
  case blockSet => rw [ht.blockSet, hs.blockSet, h.blockSet]
  case hm => rw [ht.hm, hs.hm, h.hm]
  case store => rw [ht.store, hs.store, h.store]
  case lost => rw [ht.port, hs.port, h.lost]
  case entries => rw [ht.pv, hs.pv, h.entries]
  case deadLine => rw [hvt, hvs, h.deadLine]
  case executing => rw [hvt, hvs, h.executing]
  case ms => rw [ht.ms, hs.ms, h.ms]

theorem SameTest.watchSet {s t : State} (h : SameTest s t) : t.watchSet = s.watchSet := by
  simp only [State.watchSet, h.settings, h.store]

theorem SameTest.candidateIndex {s t : State} (h : SameTest s t) (k : StageId) : t.candidateIndex k = s.candidateIndex k := by
  simp only [State.candidateIndex, State.qEff, State.figure, State.stage, State.stageIds, State.cfg, h.settings, h.stages, h.entries]
  rfl

/-- R65: the Voltage Controller's own commitment is a raise. -/
theorem ownCommitment_other {cause : Cause} (h : cause ≠ .autoRaise) (s : State) (n : Nat) : s.ownCommitment cause n = false := by
  simp [State.ownCommitment, h]

theorem SameTest.closeTest {s t : State} (h : SameTest s t) {cause : Cause} (hc : cause ≠ .autoRaise) (n intent : Nat) :
    closeTest t n cause intent = closeTest s n cause intent := by
  have hown := ownCommitment_other hc
  simp only [Machine.closeTest, stageCloseTest, guardVerdict, h.watchSet, h.candidateIndex, hown, State.harmAlarm, State.stage,
    State.cfg, State.anyMoving, State.stageIds, h.stages, h.settings, h.inputs, h.blockSet, h.hm, h.lost, h.deadLine, h.executing]
  rfl

theorem SameTest.openRefusal {s t : State} (h : SameTest s t) (cause : Cause) (n : Nat) :
    openRefusal t n cause = openRefusal s n cause := by
  simp only [Machine.openRefusal, State.stage, h.stages, h.settings, h.blockSet]
  rfl

theorem SameTest.orderBusy {s t : State} (h : SameTest s t) (dir : Direction) (n : Nat) : t.orderBusy dir n = s.orderBusy dir n := by
  simp only [State.orderBusy, State.anyMoving, State.anyClosing, State.stageIds, State.stage, h.stages, h.settings, h.executing]

theorem SameTest.refusal {s t : State} (h : SameTest s t) {cause : Cause} (hc : cause ≠ .autoRaise) (dir : Direction) (n : Nat) :
    requestRefusal (pruneRequest t dir n) dir n cause = requestRefusal (pruneRequest s dir n) dir n cause := by
  cases dir with
  | close => exact (h.prune .close n).closeTest hc n 0
  | opening => exact h.openRefusal cause n

/-- R64, R191: the state on which a refusal is judged. -/
def State.refusedAt (s : State) (dir : Direction) (n : Nat) : State :=
  if s.orderBusy dir n = true then s else pruneRequest s dir n

theorem refusedAt_frame (s : State) (dir : Direction) (n : Nat) : SwitchFrame s (s.refusedAt dir n) := by
  unfold State.refusedAt
  split
  · exact .refl s
  · exact pruneRequest_frame s dir n

theorem refusedAt_keeps (s : State) (dir : Direction) (n : Nat) : (s.refusedAt dir n).ready = s.ready ∧
    (s.refusedAt dir n).inService = s.inService ∧ (s.refusedAt dir n).vc = s.vc := by
  unfold State.refusedAt
  split
  · exact ⟨rfl, rfl, rfl⟩
  · obtain ⟨-, hready, hin, hvc, -⟩ := pruneRequest_congr (s := s) rfl rfl rfl dir n
    exact ⟨hready, hin, hvc⟩

theorem refusedAt_congr {s t : State} {dir : Direction} {n : Nat} (hb : t.orderBusy dir n = s.orderBusy dir n)
    (h : t.stages = s.stages) (hset : t.settings = s.settings) (hms : t.ms = s.ms) :
    (t.refusedAt dir n).stages = (s.refusedAt dir n).stages := by
  unfold State.refusedAt
  rw [hb]
  split
  · exact h
  · exact (pruneRequest_congr h hset hms dir n).1

/-- R194: a chain that a refusal of its step ends. -/
structure ChainRefused (c : Chain) (st : Machine.Step) (r : Reason) (s t : State) : Prop where
  oi : t.oi = ⟨⟨c.panel, c.tag, .refused, r.code⟩, .none, none, c.index, r⟩
  causes : t.vc.causes = { s.vc.causes with chainActive := false }
  stages : t.stages = (s.refusedAt st.dir st.stage).stages
  ready : t.ready = s.ready
  inService : t.inService = s.inService
  triggered : Triggered s t
  frame : SwitchFrame s t

theorem endChain_refused (c : Chain) (st : Machine.Step) (r : Reason) (s : State) :
    ChainRefused c st r s (endChain c (.refused r) (s.refusedAt st.dir st.stage)) := by
  obtain ⟨hready, hin, hvc⟩ := refusedAt_keeps s st.dir st.stage
  have hframe := endChain_frame c (.refused r) (s.refusedAt st.dir st.stage)
  have hat := refusedAt_frame s st.dir st.stage
  exact ⟨endChain_oi .., (endChain_causes ..).trans (by rw [hvc]), hframe.stages, hframe.ready.trans hready,
    hframe.inService.trans hin, hat.toAnnounces.kept.triggered (endChain_triggered ..), hat.trans hframe.toSwitchFrame⟩

theorem serveStep_refused {s : State} {c : Chain} {st : Machine.Step} {r : Reason} (hc : s.oi.chain = some c)
    (ho : c.operating = false) (hst : c.current = some st)
    (hr : (s.orderBusy st.dir st.stage = true ∧ r = .busy) ∨ (s.orderBusy st.dir st.stage = false ∧
      requestRefusal (pruneRequest s st.dir st.stage) st.dir st.stage .sequence = some r)) : serveStep s = endChain c (.refused r) (s.refusedAt st.dir st.stage) := by
  rw [serveStep_eq hc ho hst, State.refusedAt]
  rcases hr with ⟨hb, rfl⟩ | ⟨hb, hr⟩
  · rw [serveSwitch_busy hb, if_pos hb]
  · rw [serveSwitch_refused hb hr, if_neg (by rw [hb]; decide)]

end Sys2Proof.Machine
end

section
namespace Sys2Proof.Machine

/-- R192: the delay of the chain's step has run out. -/
def State.stepReached (s : State) (c : Chain) : State := { s with oi := { s.oi with chain := some { c with delay := 0 } } }

theorem chainStep_eq {s : State} {c : Chain} (hc : s.oi.chain = some c) (ho : c.operating = false) :
    chainStep s = serveStep (s.stepReached c) := by
  unfold chainStep
  rw [hc]
  exact if_neg (by rw [ho]; decide)

theorem stepReached_frame (s : State) (c : Chain) : NoticeFrame s (s.stepReached c) := orderFrame_of s _ rfl

/-- R192: no step is due while one is in flight. -/
theorem stepDue_operating {s : State} {c : Chain} (h : s.oi.chain = some { c with operating := true }) : s.stepDue = false := by
  unfold State.stepDue
  rw [h]
  rfl

theorem settleDue_endChain (c : Chain) (e : ChainEnd) (s : State) : settleDue (endChain c e s) = endChain c e s :=
  settleDue_of_no_chain (by rw [endChain_oi])

theorem exec_chainStep {s : State} {t : State} (h : settleDue (chainStep s) = t) : exec .chainStep s = .next t :=
  congrArg Host.Outcome.next h

end Sys2Proof.Machine
end

section
namespace Sys2Proof.Proofs
open Machine

/-- Settles O54: the step on the state whose delay has run out, served as a request. -/
theorem chainStepServed : Obligations.ChainStepServed := by
  refine ⟨fun s c st k hc ho hst hd hb hk ht hp => ?_, fun s c st k hc ho hst hd hb hk ht hp hcap => ?_,
    fun s c st r hc ho hst hr => ?_⟩
  · obtain ⟨hissued, hoi⟩ := serveStep_close (s := s.stepReached c) rfl ho hst hd hb hk ht hp
    have hsettled : settleDue (chainStep s) = serveStep (s.stepReached c) := by
      rw [chainStep_eq hc ho]
      exact settleDue_of_not_due (stepDue_operating (by rw [hoi]))
    exact ⟨_, exec_chainStep hsettled, hoi, hissued.stage, hissued.others, hissued.ready, hissued.inService,
      (stepReached_frame s c).toSwitchFrame.trans hissued.frame⟩
  · have hun : (s.stepReached c).uncaptured k := .inr (.inr fun x hx => by
      have hx' : s.ur.capture = some x := hx
      rw [hcap] at hx'
      cases hx')
    obtain ⟨hissued, hoi⟩ := serveStep_open (s := s.stepReached c) rfl ho hst hd hb hk ht hp hun
    have hsettled : settleDue (chainStep s) = serveStep (s.stepReached c) := by
      rw [chainStep_eq hc ho]
      exact settleDue_of_not_due (stepDue_operating (by rw [hoi]))
    exact ⟨_, exec_chainStep hsettled, hoi, hissued.stage, hissued.others, hissued.ready, hissued.inService,
      (stepReached_frame s c).toSwitchFrame.trans hissued.frame⟩
  · have hsame : SameTest s (s.stepReached c) := ⟨rfl, rfl, rfl, rfl, rfl, rfl, rfl, rfl, rfl, rfl, rfl⟩
    have hstep := serveStep_refused (s := s.stepReached c) rfl ho hst
      (by rw [hsame.orderBusy, hsame.refusal (by decide)]; exact hr)
    have hended := endChain_refused { c with delay := 0 } st r (s.stepReached c)
    have hstages : ((s.stepReached c).refusedAt st.dir st.stage).stages = (s.refusedAt st.dir st.stage).stages :=
      refusedAt_congr (hsame.orderBusy _ _) rfl rfl rfl
    have hsettled : settleDue (chainStep s) = endChain { c with delay := 0 } (.refused r)
        ((s.stepReached c).refusedAt st.dir st.stage) := by
      rw [chainStep_eq hc ho, hstep]
      exact settleDue_endChain ..
    exact ⟨_, exec_chainStep hsettled, hended.oi, hended.causes, hended.stages.trans hstages, hended.ready, hended.inService,
      hended.triggered, (stepReached_frame s c).toSwitchFrame.trans hended.frame⟩

end Sys2Proof.Proofs
end

/-! ### Commands that complete at their issue (R32) -/

section
namespace Sys2Proof.Machine

/-- R32, R34: an open whose breaker stands open already is reported at once; its notices settle no order of a capture. -/
theorem issueOpen_there {k : StageId} {s : State} (hp : s.position k = .opened) (hu : s.uncaptured k) (cause : Cause) (n : Nat) :
    ∃ w, issueOpen k cause n s = report ⟨k, .opening, .executed, cause, n⟩ w ∧ w.oi = s.oi := by
  have hb : (s.position k == .opened) = true := by rw [hp]; rfl
  simp only [issueOpen, hb, if_true, completeOpen]
  refine ⟨_, rfl, ?_⟩
  refine (changeStage_oi (modStage_uncaptured (.inr (.inl ?_)) rfl) _).trans ?_
  · rw [changeStage_stage]
    simp
  · exact changeStage_oi (modStage_uncaptured hu rfl) _

/-- R32, R33, R59: a close whose breaker stands closed already. -/
structure CloseCompleted (k : StageId) (cause : Cause) (n : Nat) (s t : State) : Prop where
  stage : t.stage k = { s.stage k with
    state := .closed, lastCause := cause, discharge := 0, disc := none, op := none
    closeOut := false, pulse := none, window := none, duty := (s.stage k).duty ++ [s.seconds] }
  others : OtherStages k s t
  ready : t.ready = s.ready.filter (· ≠ k)
  inService : t.inService = s.inService ++ [k]
  frame : SwitchFrame s t
  outcome : t.lc.outcomeSlot = some ⟨n, .executed, .close, k, cause, .none⟩

theorem deadLineNotice_live {k : StageId} {s : State} (h : s.vc.deadLine = false) : deadLineNotice k s = s := by
  unfold deadLineNotice
  rw [if_neg (by rw [h]; decide)]

/-- R30, R33: a close that completes at its issue is reported at once. -/
theorem issueClose_there {k : StageId} {s : State} (hready : (s.stage k).state = .ready) (hp : s.position k = .closed)
    (hd : s.vc.deadLine = false) (cause : Cause) (n : Nat) : CloseCompleted k cause n s (issueClose k cause n s) ∧
      ∃ w, issueClose k cause n s = report ⟨k, .close, .executed, cause, n⟩ w ∧ w.oi = s.oi := by
  have hb : (s.position k == .closed) = true := by rw [hp]; rfl
  have hframe := issueClose_frame k cause n s
  obtain ⟨f, g, hf, hg, hissue, hrecord⟩ : ∃ f g : Stage → Stage, (∀ r, (f r).state = r.state) ∧ (∀ r, (g r).state = r.state) ∧
      issueClose k cause n s = deadLineNotice k (report ⟨k, .close, .executed, cause, n⟩
        (changeStage k .closed ((changeStage k .closing (s.modStage k f)).modStage k g))) ∧
      (g ((f (s.stage k)).moved .closing)).moved .closed = { s.stage k with
        state := .closed, lastCause := cause, discharge := 0, disc := none, op := none
        closeOut := false, pulse := none, window := none, duty := (s.stage k).duty ++ [s.seconds] } := by
    simp only [issueClose, hb, if_true, completeClose, State.addDuty, modStage_modStage]
    refine ⟨_, _, fun r => ?_, fun r => ?_, rfl, ?_⟩
    · rfl
    · rfl
    · simp [Stage.moved, rediscrepancy, StageState.resting]
  have hclosing : ((changeStage k .closing (s.modStage k f)).stage k).state = .closing := by
    rw [changeStage_stage]
    rfl
  have hlive : (report ⟨k, .close, .executed, cause, n⟩
      (changeStage k .closed ((changeStage k .closing (s.modStage k f)).modStage k g))).vc.deadLine = false := by
    rw [(report_frame ..).control.deadLine, (changeStage_frame ..).control.deadLine, modStage_vc,
      (changeStage_frame ..).control.deadLine, modStage_vc, hd]
  rw [deadLineNotice_live hlive] at hissue
  refine ⟨⟨?_, ?_, ?_, ?_, hframe, ?_⟩, _, hissue, ?_⟩
  · rw [hissue, (report_frame ..).stage, changeStage_stage, changeStage_stage]
    exact hrecord
  · rw [hissue]
    refine report_others fun j hj => ?_
    exact (changeStage_others _ _ _ _ j hj).trans (changeStage_others _ _ _ _ j hj)
  · rw [hissue, (report_frame ..).ready, changeStage_ready _ _ _ _ (hg _), changeStage_ready _ _ _ _ (hf _), hclosing, hready]
    simp [relist]
  · rw [hissue, (report_frame ..).inService, changeStage_inService _ _ _ _ (hg _), changeStage_inService _ _ _ _ (hf _),
      hclosing, hready]
    simp [relist]
  · rw [hissue, report_outcomeSlot]
    rfl
  · refine (changeStage_oi (modStage_uncaptured (.inr (.inl ?_)) (hg _)) _).trans ?_
    · rw [hclosing]; decide
    · exact changeStage_oi (modStage_uncaptured (.inr (.inl (by rw [hready]; decide))) (hf _)) _

/-- R191: the report of an ordered switching that is EXECUTED settles the order DONE. -/
theorem report_settles {k : StageId} {w : State} {dir : Direction} {cause : Cause} {n : Nat} (hc : w.oi.chain = none)
    (hm : w.oi.mark = .report k) : (report ⟨k, dir, .executed, cause, n⟩ w).oi =
      { w.oi with last := ⟨w.oi.last.panel, w.oi.last.tag, .done, 0⟩, mark := .none } := by
  have hmark : (reported ⟨k, dir, .executed, cause, n⟩ w).oi.mark = .report k := by rw [reported_oi, hm]
  rw [report_without_chain hc, settleOrder_oi hmark, reported_oi]
  rfl

end Sys2Proof.Machine
end

section
namespace Sys2Proof.Machine

theorem NoticeFrame.position {s t : State} (h : NoticeFrame s t) (k : StageId) : t.position k = s.position k := by
  unfold State.position
  rw [h.inputs]

theorem NoticeFrame.fullDischarge {s t : State} (h : NoticeFrame s t) (k : StageId) : t.fullDischarge k = s.fullDischarge k := by
  unfold State.fullDischarge State.cfg
  rw [h.settings]

/-- R31, R32, R34: an open that is issued, in flight or completed at once. -/
structure OpenTaken (k : StageId) (cause : Cause) (n : Nat) (s t : State) : Prop where
  stage : t.stage k = s.openTaken k cause n
  others : OtherStages k s t
  ready : t.ready = s.ready
  inService : t.inService = if (s.stage k).state = .closed then s.inService.filter (· ≠ k) else s.inService
  frame : SwitchFrame s t
  outcome : s.position k = .opened → t.lc.outcomeSlot = some ⟨n, .executed, .opening, k, cause, .none⟩

theorem issueOpen_taken {s w : State} {k : StageId} (hw : NoticeFrame s w)
    (h : (s.stage k).state = .closed ∨ (s.stage k).state.isFault = true) (cause : Cause) (n : Nat) :
    OpenTaken k cause n s (issueOpen k cause n w) := by
  by_cases hp : s.position k = .opened
  · have hpw : w.position k = .opened := (hw.position k).trans hp
    have hready : (s.stage k).state ≠ .ready := by
      intro hl
      simp [hl, StageState.isFault] at h
    obtain ⟨h1, h2, h3, h4, h5, h6⟩ := issueOpen_spec k cause n w
    rw [if_pos hpw] at h1
    refine ⟨?_, fun j hj => (h2 j hj).trans (hw.stage j), ?_, ?_, hw.toSwitchFrame.trans h5, fun _ => h6 hpw⟩
    · rw [h1, State.openTaken, if_pos hp, State.openCompleted, hw.stage, hw.fullDischarge]
      rfl
    · rw [h3, hw.stage, hw.ready]
      simp [relist, hready]
    · rw [h4, hw.stage, hw.inService]
      simp [relist]
  · have hissued := issueOpen_issued hw h hp cause n
    exact ⟨by rw [State.openTaken, if_neg hp]; exact hissued.stage, hissued.others, hissued.ready, hissued.inService,
      hissued.frame, fun hh => absurd hh hp⟩

end Sys2Proof.Machine
end

/-! ### CLOSE and OPEN orders (R191) -/

section
namespace Sys2Proof.Machine

/-- The commands of the two switching orders. -/
def switchOrder (c : Instr) (code : Nat) (dir : Direction) : Prop :=
  (c, code, dir) = (.orderClose, 1, .close) ∨ (c, code, dir) = (.orderOpen, 2, .opening)

theorem exec_switchOrder {c : Instr} {code : Nat} {dir : Direction} (h : switchOrder c code dir) (s : State) :
    exec c s = .next (takeOrder code (serveOrderSwitch dir) s) := by
  rcases h with h | h
  · obtain ⟨rfl, rfl, rfl⟩ : c = .orderClose ∧ code = 1 ∧ dir = .close := by simpa using h
    rfl
  · obtain ⟨rfl, rfl, rfl⟩ : c = .orderOpen ∧ code = 2 ∧ dir = .opening := by simpa using h
    rfl

theorem exec_switch_taken {c : Instr} {code : Nat} {dir : Direction} (h : switchOrder c code dir) {s : State} {f : Frame}
    (ht : OrderTaken s code f) : exec c s = .next (freeHead (serveOrderSwitch dir f.order (s.notedPanel f))) :=
  (exec_switchOrder h s).trans (congrArg Host.Outcome.next (takeOrder_taken ht _))

theorem serveOrderSwitch_chain {dir : Direction} {o : Order} {s : State} (h : s.oi.chain.isSome = true) :
    serveOrderSwitch dir o s = refuseOrder o .busy s := if_pos h

/-- R191: the record of an order that is accepted. -/
def Order.accepted (o : Order) (k : StageId) (s : State) : State := writeOrder o.panel o.tag .inProgress 0 (.report k) s

theorem serveOrderSwitch_eq {dir : Direction} {o : Order} {s : State} (hc : s.oi.chain = none) (hs : s.vc.state ≠ .proposing) :
    serveOrderSwitch dir o s = serveSwitch dir o.stage .order (refuseOrder o) o.accepted s := by
  unfold serveOrderSwitch
  rw [if_neg (by rw [hc]; decide)]
  dsimp only
  rw [if_neg hs]
  rfl

theorem accepted_frame (o : Order) (k : StageId) (s : State) : NoticeFrame s (o.accepted k s) := writeOrder_frame ..

theorem accepted_oi (o : Order) (k : StageId) (s : State) :
    (o.accepted k s).oi = { s.oi with last := ⟨o.panel, o.tag, .inProgress, 0⟩, mark := .report k } := (writeOrder_keeps ..).1

theorem accepted_uncaptured (o : Order) (k : StageId) (s : State) : (o.accepted k s).uncaptured k :=
  .inl (by rw [accepted_oi]; exact fun h => by cases h)

/-- R182, R189: the write of the record stays a trigger of the event. -/
theorem accepted_told (o : Order) (k : StageId) (s : State) {t : State} (h : SwitchFrame (o.accepted k s) t) : Triggered s t :=
  Triggered.kept (writeOrder_triggered ..) h.toAnnounces.kept (accepted_frame o k s).toAnnounces.kept

/-- R191: a CLOSE that is accepted. -/
theorem serve_close {o : Order} {s : State} {k : StageId} (hc : s.oi.chain = none) (hs : s.vc.state ≠ .proposing)
    (hb : s.orderBusy .close o.stage = false) (hk : stageOf s.settings.stageCount o.stage = some k)
    (ht : closeTest (s.prune k) o.stage .order 0 = none) :
    serveOrderSwitch .close o s = issueClose k .order 0 (o.accepted k (s.prune k)) := by
  have hprune := pruneRequest_close hk
  have hserve := serveSwitch_accepted hb hk (cause := .order) (by rw [hprune]; exact ht) (refuseOrder o) o.accepted
  rw [serveOrderSwitch_eq hc hs, hserve, hprune]
  rfl

/-- R191: an OPEN that is issued. -/
theorem serve_open {o : Order} {s : State} {k : StageId} (hc : s.oi.chain = none) (hs : s.vc.state ≠ .proposing)
    (hb : s.orderBusy .opening o.stage = false) (hk : stageOf s.settings.stageCount o.stage = some k)
    (hst : (s.stage k).state = .closed ∨ ((s.stage k).state.isFault = true ∧ (s.stage k).connected = true)) :
    serveOrderSwitch .opening o s = issueOpen k .order 0 (o.accepted k s) := by
  obtain ⟨hnum, hle⟩ := stageOf_some hk
  have hconf : s.configured k = true := by simpa [State.configured, hnum] using hle
  have hpass : openRefusal s k.num .order = none := (openRefusal_none_iff s k .order hconf).mpr
    ⟨fun h => by simp at h, hst.imp_right fun h => .inr (.inr h)⟩
  have hserve := serveSwitch_accepted hb hk (cause := .order) (by rw [← hnum]; exact hpass) (refuseOrder o) o.accepted
  have hstage : (o.accepted k s).stage k = s.stage k := (accepted_frame o k s).stage k
  rw [serveOrderSwitch_eq hc hs, hserve]
  exact actOpen_issues (s := o.accepted k s) (by rw [hstage]; exact hst) _ _

theorem closeTest_pruned {s : State} {n : Nat} {k : StageId} {cause : Cause} {intent : Nat}
    (hk : stageOf s.settings.stageCount n = some k) (h : closeTest (s.prune k) n cause intent = none) :
    (s.stage k).state = .ready ∧ s.vc.deadLine = false := by
  have hpass := closeTest_pass (s := s.prune k) hk h
  have hready := hpass.ready
  rw [State.prune, modStage_stage] at hready
  exact ⟨hready, hpass.live⟩

/-- R138: the panels' records are no condition of a request. -/
theorem notedPanel_same (s : State) (f : Frame) : SameTest s (s.notedPanel f) :=
  ⟨rfl, rfl, rfl, rfl, rfl, rfl, rfl, rfl, rfl, rfl, rfl⟩

theorem written_congr {s t : State} (h : t.oi = s.oi) (last : LastOrder) (mark : SettleMark) :
    { t.oi with last := last, mark := mark } = { s.oi with last := last, mark := mark } := by rw [h]

/-- R191: a refusal of the request is recorded on the pruned state. -/
theorem refuse_pruned (s : State) (f : Frame) (r : Reason) (dir : Direction) (n : Nat) :
    let t := freeHead (refuseOrder f.order r (pruneRequest (s.notedPanel f) dir n))
    t.oi = { s.oi with last := ⟨f.sender, byteAt f.body 0, .refused, r.code⟩, mark := .none } ∧
      t.stages = (pruneRequest s dir n).stages ∧ t.ready = s.ready ∧ t.inService = s.inService ∧
      Triggered s t ∧ SwitchFrame (s.judged f) t ∧ t.vc = s.vc ∧ t.ix = s.ix ∧ t.ur = s.ur := by
  obtain ⟨hstages, hready, hin, hvc, hix, hur, hoi⟩ :=
    pruneRequest_congr (s := s) (t := s.notedPanel f) rfl rfl rfl dir n
  have hframe := pruneRequest_frame (s.notedPanel f) dir n
  have hw := writeOrder_frame f.sender (byteAt f.body 0) .refused r.code .none (pruneRequest (s.notedPanel f) dir n)
  obtain ⟨woi, wvc, wur, wix, -⟩ := writeOrder_keeps f.sender (byteAt f.body 0) .refused r.code .none
    (pruneRequest (s.notedPanel f) dir n)
  have htold := writeOrder_triggered f.sender (byteAt f.body 0) .refused r.code .none (pruneRequest (s.notedPanel f) dir n)
  exact ⟨woi.trans (written_congr hoi _ _), hw.stages.trans hstages, hw.ready.trans hready, hw.inService.trans hin,
    (hframe.toAnnounces.kept.triggered htold :), (hframe.trans hw.toSwitchFrame).freed, wvc.trans hvc, wix.trans hix,
    wur.trans hur⟩

theorem refreshAccess_noted (s : State) (f : Frame) : refreshAccess (s.notedPanel f) = (refreshAccess s).notedPanel f := by
  obtain ⟨access, hs⟩ : ∃ a, s.lc.access = a := ⟨_, rfl⟩
  have hn : (s.notedPanel f).lc.access = access := hs
  unfold refreshAccess
  rw [hs, hn]
  have helig : (s.notedPanel f).lc.eligible = s.lc.eligible := rfl
  have hidle : (s.notedPanel f).mediumIdle = s.mediumIdle := rfl
  rw [helig, hidle]
  split
  · rfl
  · rfl
  · split
    · split <;> rfl
    · rfl
  · split <;> rfl
  · split <;> rfl

theorem placeOutcome_noted (c : OutcomeContent) (s : State) (f : Frame) :
    placeOutcome c (s.notedPanel f) = (placeOutcome c s).notedPanel f :=
  refreshAccess_noted { s with lc.outcomeSlot := some c } f

theorem dropIntent_noted (i : Intent) (r : Reason) (s : State) (f : Frame) :
    dropIntent i r (s.notedPanel f) = (dropIntent i r s).notedPanel f :=
  (congrArg (placeOutcome (withdrawalContent i r)) (refreshAccess_noted
    { s with lc.intentSlot := if unsent i then none else s.lc.intentSlot, ix.own := none } f)).trans (placeOutcome_noted _ _ f)

/-- R162: a withdrawal does not look at the panels' records. -/
theorem withdraw_noted {s : State} {i : Intent} (hi : s.ix.own = some i) (hp : i.phase ≠ .committed) (f : Frame) :
    withdraw .order (s.notedPanel f) = (withdraw .order s).notedPanel f := by
  rw [withdraw_eq hi hp, withdraw_eq (s := s.notedPanel f) hi hp, dropIntent_noted]
  rfl

/-- R191: the order of a controller in PROPOSING is served on the state that the withdrawal leaves. -/
theorem serveOrderSwitch_proposing {dir : Direction} {o : Order} {s : State} (hc : s.oi.chain = none)
    (hs : s.vc.state = .proposing) (hw : (withdraw .order s).vc.state = .watching) :
    serveOrderSwitch dir o s = serveOrderSwitch dir o (withdraw .order s) := by
  have hchain : (withdraw .order s).oi.chain = none := by rw [(withdraw_keeps .order s).1, hc]
  rw [serveOrderSwitch_eq (s := withdraw .order s) hchain (by rw [hw]; decide)]
  unfold serveOrderSwitch
  rw [if_neg (by rw [hc]; decide)]
  dsimp only
  rw [if_pos hs]
  rfl

/-- R188: an order stays one on a state that the head of the ring, the settings and the panels' records reach. -/
theorem OrderTaken.congr {s t : State} {code : Nat} {f : Frame} (h : OrderTaken s code f) (hr : t.lc.ring = s.lc.ring)
    (hset : t.settings = s.settings) (hpv : t.pv = s.pv) : OrderTaken t code f := by
  refine ⟨⟨?_, ?_, ?_⟩, ?_, h.form⟩
  · rw [← h.head]; unfold State.head; rw [hr]
  · rw [hpv]; exact h.new
  · rw [← h.addressed]; unfold State.addressed; rw [hset]
  · rw [← h.permitted]; unfold State.panelPermitted; rw [hset]

end Sys2Proof.Machine
end

section
namespace Sys2Proof.Proofs
open Machine

/-- Settles O49: the order judged, then served as a request on the state with its record written. -/
theorem switchOrdersIssue : Obligations.SwitchOrdersIssue := by
  refine ⟨fun s f k h hc hs hb hk ht hp => ?_, fun s f k h hc hs hb hk hst hp => ?_, fun c code dir s f hcode h hc => ?_,
    fun c code dir s f hcode h hc hs hb => ?_, fun s n => ⟨orderBusy_close s n, orderBusy_open s n⟩,
    fun c code dir s f i hcode h hc hs hi hp => ?_, fun c code dir s f r hcode h hc hs hb hr => ?_,
    fun s f k h hc hs hb hk hst => ?_, fun s f k h hc hs hb hk ht hp => ?_⟩
  · obtain ⟨hready, -⟩ := closeTest_pruned (s := s.notedPanel f) hk ht
    have hexec := exec_switch_taken (.inl rfl) h
    rw [serve_close (s := s.notedPanel f) hc hs hb hk ht] at hexec
    have hw := accepted_frame f.order k ((s.notedPanel f).prune k)
    have hissued := issueClose_issued (s := s.notedPanel f) hw hready hp .order 0
    have hoi := issueClose_flight_oi (by rw [hw.position]; exact hp) (accepted_uncaptured f.order k _) .order 0
    have htold := accepted_told f.order k ((s.notedPanel f).prune k) (issueClose_frame k .order 0 _)
    exact ⟨_, hexec, hoi.trans (accepted_oi ..), hissued.stage, hissued.others, hissued.ready, hissued.inService, htold,
      hissued.frame.freed⟩
  · have hexec := exec_switch_taken (.inr rfl) h
    rw [serve_open (s := s.notedPanel f) hc hs hb hk (.inl hst)] at hexec
    have hw := accepted_frame f.order k (s.notedPanel f)
    have hissued := issueOpen_issued (s := s.notedPanel f) hw (.inl hst) hp .order 0
    have hoi := issueOpen_flight_oi (by rw [hw.position]; exact hp) (accepted_uncaptured f.order k _) .order 0
    have htold := accepted_told f.order k (s.notedPanel f) (issueOpen_frame k .order 0 _)
    exact ⟨_, hexec, hoi.trans (accepted_oi ..), hissued.stage, hissued.others, hissued.inService.trans (if_pos hst),
      hissued.ready, htold, hissued.frame.freed⟩
  · have hexec := exec_switch_taken hcode h
    rw [serveOrderSwitch_chain (s := s.notedPanel f) hc] at hexec
    have hw := refuseOrder_written f .busy s
    exact ⟨_, hexec, hw.oi, hw.triggered, hw.frame, hw.vc, hw.ix, hw.ur⟩
  · have hexec := exec_switch_taken hcode h
    rw [serveOrderSwitch_eq (s := s.notedPanel f) hc hs, serveSwitch_busy (s := s.notedPanel f) hb] at hexec
    have hw := refuseOrder_written f .busy s
    exact ⟨_, hexec, hw.oi, hw.triggered, hw.frame, hw.vc, hw.ix, hw.ur⟩
  · have hx := withdraw_eq hi hp .order
    obtain ⟨kvc, koi, kur, kix, kslot, -⟩ := dropIntent_keeps i .order s
    have hframe := withdraw_frame .order s
    have hxs : (withdraw .order s).vc.state = .watching := by rw [hx]; rfl
    have htaken : OrderTaken (withdraw .order s) code f := h.congr hframe.line.ring hframe.settings hframe.pv
    refine ⟨by rw [hx]; exact kix, by rw [hx, ← kvc]; rfl, by rw [hx]; exact kslot, by rw [hx]; exact koi, by rw [hx]; exact kur,
      hframe, htaken, ?_⟩
    have hnoted := withdraw_noted hi hp f
    rw [exec_switch_taken hcode h, exec_switch_taken hcode htaken,
      serveOrderSwitch_proposing (s := s.notedPanel f) hc hs (by rw [hnoted]; exact hxs), hnoted]
  · have hexec := exec_switch_taken hcode h
    rw [serveOrderSwitch_eq (s := s.notedPanel f) hc hs, serveSwitch_refused (s := s.notedPanel f) hb (by
      rw [(notedPanel_same s f).refusal (by decide)]; exact hr)] at hexec
    exact ⟨_, hexec, refuse_pruned s f r dir f.order.stage⟩
  · have hexec := exec_switch_taken (.inr rfl) h
    rw [serve_open (s := s.notedPanel f) hc hs hb hk hst] at hexec
    have hw := accepted_frame f.order k (s.notedPanel f)
    have htaken := issueOpen_taken (s := s.notedPanel f) hw (hst.imp id And.left) .order 0
    have htold := accepted_told f.order k (s.notedPanel f) (issueOpen_frame k .order 0 _)
    refine ⟨_, hexec, htaken.stage, htaken.others, htaken.inService, htaken.ready, htold, htaken.frame.freed, ?_, htaken.outcome⟩
    by_cases hp : s.position k = .opened
    · obtain ⟨w, hreport, hoi⟩ := issueOpen_there (s := f.order.accepted k (s.notedPanel f)) ((hw.position k).trans hp)
        (accepted_uncaptured f.order k _) .order 0
      rw [accepted_oi] at hoi
      rw [hreport, if_pos hp, if_pos hp]
      refine (report_settles (w := w) (by rw [hoi]; exact hc) (by rw [hoi])).trans ?_
      rw [hoi]
      rfl
    · rw [if_neg hp, if_neg hp]
      exact (issueOpen_flight_oi (by rw [hw.position]; exact hp) (accepted_uncaptured f.order k _) .order 0).trans (accepted_oi ..)
  · obtain ⟨hready, hlive⟩ := closeTest_pruned (s := s.notedPanel f) hk ht
    have hexec := exec_switch_taken (.inl rfl) h
    rw [serve_close (s := s.notedPanel f) hc hs hb hk ht] at hexec
    have hw := accepted_frame f.order k ((s.notedPanel f).prune k)
    have htold := accepted_told f.order k ((s.notedPanel f).prune k) (issueClose_frame k .order 0 _)
    have hvc : (f.order.accepted k ((s.notedPanel f).prune k)).vc = s.vc := (writeOrder_keeps ..).2.1
    have hst : (f.order.accepted k ((s.notedPanel f).prune k)).stage k =
        { s.stage k with duty := pruneDuty s.seconds (s.stage k).duty } := (hw.stage k).trans (by rw [State.prune, modStage_stage]; rfl)
    have hseconds : (f.order.accepted k ((s.notedPanel f).prune k)).seconds = s.seconds := congrArg (· / 1000 % 2 ^ 32) hw.ms
    obtain ⟨hdone, w, hreport, hoi⟩ := issueClose_there (k := k) (by rw [hst]; exact hready) ((hw.position k).trans hp)
      (by rw [hvc]; exact hlive) .order 0
    rw [accepted_oi] at hoi
    have hdrop : SwitchFrame (s.notedPanel f) _ := (prune_frame k _).trans (hw.toSwitchFrame.trans hdone.frame)
    refine ⟨_, hexec, ?_, ?_, hdone.ready.trans ?_, hdone.inService.trans ?_, ?_, hdone.outcome, htold, hdrop.freed⟩
    · refine hdone.stage.trans ?_
      rw [hst, hseconds]
    · exact fun j hj => (hdone.others j hj).trans ((hw.stage j).trans (modStage_others _ _ _ j hj))
    · exact congrArg (List.filter (· ≠ k)) hw.ready
    · exact congrArg (· ++ [k]) hw.inService
    · refine (congrArg State.oi hreport).trans ((report_settles (w := w) (by rw [hoi]; exact hc) (by rw [hoi])).trans ?_)
      rw [hoi]
      rfl

end Sys2Proof.Proofs
end

/-! ### SEQUENCE and STOP_SEQUENCE (R192 to R194) -/

section
namespace Sys2Proof.Machine

/-- R192: a chain is present. -/
def State.chained (s : State) (c : Chain) : State := { s with oi := { s.oi with chain := some c } }

/-- R192: the chain of a SEQUENCE. -/
def Order.sequence (o : Order) (st : Machine.Step) (rest : List Machine.Step) : Chain := ⟨st :: rest, 1, false, st.delay, o.panel, o.tag⟩

theorem addCause_executing (c : Suspension) (s : State) :
    ((addCause c s).vc.state == .executing) = (s.vc.state == .executing) := by
  by_cases h : s.vc.causes.isEmpty = false ∨ s.vc.state = .executing
  · rw [addCause_kept h]
  · obtain ⟨hempty, hx⟩ := not_or.mp h
    rw [(addCause_suspends c (by simpa using hempty) hx).1]
    simpa using hx

/-- R192, R75: what a SEQUENCE that begins a chain leaves. -/
structure ChainBegun (f : Frame) (c : Chain) (s u : State) : Prop where
  oi : u.oi = { s.oi with last := ⟨f.sender, byteAt f.body 0, .inProgress, 1⟩, mark := .chain, chain := some c }
  causes : u.vc.causes = { s.vc.causes with chainActive := true }
  suspended : s.vc.causes.isEmpty = true → s.vc.state ≠ .executing → u.vc.state = .suspended
  withdrawn : ∀ i, Proposes i s → Withdrawn i .suspended s u
  triggered : Triggered s u
  frame : NoticeFrame (s.judged f) u
  ur : u.ur = s.ur
  executing : (u.vc.state == .executing) = (s.vc.state == .executing)

theorem serveSequence_eq {o : Order} {s : State} {st : Machine.Step} {rest : List Machine.Step} (hc : s.oi.chain = none)
    (hsteps : stepsOf (o.arg.take o.argLen) = st :: rest) : serveSequence o s =
      writeOrder o.panel o.tag .inProgress 1 .chain (addCause .chainActive (s.chained (o.sequence st rest))) := by
  unfold serveSequence
  rw [if_neg (by rw [hc]; decide), hsteps]
  rfl

theorem chained_frame (s : State) (c : Chain) : NoticeFrame s (s.chained c) := orderFrame_of s _ rfl

theorem serveSequence_begins {f : Frame} {s : State} {st : Machine.Step} {rest : List Machine.Step} (hc : s.oi.chain = none)
    (hsteps : stepsOf (f.order.arg.take f.order.argLen) = st :: rest) :
    ChainBegun f (f.order.sequence st rest) s (freeHead (serveSequence f.order (s.notedPanel f))) := by
  have hframe : NoticeFrame (s.notedPanel f) (addCause .chainActive ((s.notedPanel f).chained (f.order.sequence st rest))) :=
    (chained_frame _ _).trans (addCause_frame ..)
  have hw := writeOrder_effect f .inProgress 1 .chain hframe.toAnnounces.kept
  have hwritten := writeOrder_frame f.sender (byteAt f.body 0) .inProgress 1 .chain
    (addCause .chainActive ((s.notedPanel f).chained (f.order.sequence st rest)))
  obtain ⟨hoi, hur, hcauses, -⟩ := addCause_keeps .chainActive ((s.notedPanel f).chained (f.order.sequence st rest))
  rw [serveSequence_eq (s := s.notedPanel f) hc hsteps]
  refine ⟨hw.oi.trans (by rw [hoi]; rfl), ?_, fun he hx => ?_, fun i hi => ?_, hw.triggered, (hframe.trans hwritten).freed,
    hw.ur.trans hur, ?_⟩
  · exact (congrArg Controller.causes hw.vc).trans hcauses
  · exact (congrArg Controller.state hw.vc).trans
      (addCause_suspends .chainActive (s := (s.notedPanel f).chained (f.order.sequence st rest)) he hx).1
  · have hwithdrawn := addCause_withdraws .chainActive (i := i) (s := (s.notedPanel f).chained (f.order.sequence st rest))
      ⟨hi.control, hi.state, hi.own, hi.uncommitted⟩
    exact hw.withdrawn ⟨⟨hwithdrawn.own, hwithdrawn.slot⟩, hwithdrawn.outcome⟩
  · exact (congrArg (fun v : Controller => v.state == .executing) hw.vc).trans
      (addCause_executing .chainActive ((s.notedPanel f).chained (f.order.sequence st rest)))

/-- R64, R191: a SEQUENCE changes nothing that its first step is judged on. -/
theorem ChainBegun.same {f : Frame} {c : Chain} {s u : State} (h : ChainBegun f c s u) : SameTest s u where
  stages := h.frame.stages
  settings := h.frame.settings
  inputs := h.frame.inputs
  blockSet := h.frame.blockSet
  hm := h.frame.hm
  store := h.frame.store
  lost := congrArg (·.lost) h.frame.port
  entries := congrArg (·.entries) h.frame.pv
  deadLine := h.frame.control.deadLine
  executing := h.executing
  ms := h.frame.ms

theorem SameTest.position {s t : State} (h : SameTest s t) (k : StageId) : t.position k = s.position k := by
  unfold State.position
  rw [h.inputs]

theorem SameTest.issued {s t : State} (h : SameTest s t) (k : StageId) (cause : Cause) (n : Nat) :
    t.closeIssued k cause n = s.closeIssued k cause n ∧ t.openIssued k cause n = s.openIssued k cause n := by
  unfold State.closeIssued State.openIssued State.stage State.cfg State.seconds
  rw [h.stages, h.settings, h.ms]
  exact ⟨rfl, rfl⟩

theorem SameTest.stage {s t : State} (h : SameTest s t) (k : StageId) : t.stage k = s.stage k := by
  unfold State.stage
  rw [h.stages]

/-- R188 step 3: four bytes of the argument make a step. -/
theorem stepsOf_length : ∀ l : List Byte, 4 * (stepsOf l).length ≤ l.length
  | [] | [_] | [_, _] | [_, _, _] => by simp [stepsOf]
  | a :: k :: d1 :: d0 :: rest => by
    have ih := stepsOf_length rest
    simp only [stepsOf, List.length_cons]
    omega

theorem argLenFits_le {code a : Nat} (h : argLenFits code a = true) : a ≤ 24 := by
  unfold argLenFits at h
  split at h <;> simp at h <;> omega

/-- R188 step 3: a SEQUENCE has at most six steps. -/
theorem OrderTaken.steps {s : State} {f : Frame} (h : OrderTaken s 8 f) :
    (stepsOf (f.order.arg.take f.order.argLen)).length ≤ 6 := by
  have hsteps := stepsOf_length (f.order.arg.take f.order.argLen)
  have hlen := List.length_take_le f.order.argLen f.order.arg
  have hform := h.form
  simp only [Order.formOk, Bool.and_eq_true] at hform
  obtain ⟨⟨-, hfits⟩, -⟩ := hform
  have hle := argLenFits_le hfits
  omega

theorem stepReached_self {s : State} {c : Chain} (hc : s.oi.chain = some c) (hd : c.delay = 0) : s.stepReached c = s := by
  obtain ⟨steps, index, operating, delay, panel, tag⟩ := c
  obtain rfl : delay = 0 := hd
  unfold State.stepReached
  rw [← hc]

/-- R192: a step whose delay is 0 is served as a CHAIN_STEP serves it (log 14). -/
theorem settleDue_reached {s : State} {c : Chain} (hc : s.oi.chain = some c) (ho : c.operating = false) (hd : c.delay = 0)
    (hl : c.steps.length + 1 - c.index ≤ 6) : settleDue s = settleDue (serveStep s) ∧ settleDue (chainStep s) = settleDue s := by
  have hdue : s.stepDue = true := by
    unfold State.stepDue
    rw [hc]
    simp [ho, hd]
  have hleft : s.stepsLeft ≤ 6 := by
    unfold State.stepsLeft
    rw [hc]
    exact hl
  have hserve := settleDue_serveStep s hdue hleft
  refine ⟨hserve, ?_⟩
  rw [chainStep_eq hc ho, stepReached_self hc hd, hserve]

/-- R194: the end of a chain is nothing to the relay and to the own intent. -/
theorem endChain_keeps (c : Chain) (e : ChainEnd) (s : State) : (endChain c e s).ur = s.ur ∧ (endChain c e s).ix = s.ix := by
  obtain ⟨-, hur, hix, -⟩ := removeCause_keeps .chainActive (writeOrder c.panel c.tag e.outcome (e.detail c.index) .none
    { s with oi := { s.oi with chain := none, stepIndex := c.index, stepReason := e.reason } })
  obtain ⟨-, -, wur, wix, -⟩ := writeOrder_keeps c.panel c.tag e.outcome (e.detail c.index) .none
    { s with oi := { s.oi with chain := none, stepIndex := c.index, stepReason := e.reason } }
  exact ⟨hur.trans wur, hix.trans wix⟩

theorem exec_sequence {s : State} {f : Frame} (h : OrderTaken s 8 f) :
    exec .orderSequence s = .next (settleDue (freeHead (serveSequence f.order (s.notedPanel f)))) :=
  congrArg (fun t => Host.Outcome.next (settleDue t)) (takeOrder_taken h serveSequence)

theorem exec_stop {s : State} {f : Frame} (h : OrderTaken s 9 f) :
    exec .orderStopSequence s = .next (freeHead (serveStop f.order (s.notedPanel f))) :=
  congrArg Host.Outcome.next (takeOrder_taken h serveStop)

end Sys2Proof.Machine
end

section
namespace Sys2Proof.Proofs
open Machine

/-- Settles O53: the state that the order leaves, and from it the first step served as a CHAIN_STEP. -/
theorem chainsBeginAndStop : Obligations.ChainsBeginAndStop := by
  refine ⟨fun s f st rest h hc hsteps hd => ?_, fun s f st rest h hc hsteps hd => ?_, fun s f c h hc => ?_,
    fun s f h hc hdue => ?_, fun s f h hc => ?_⟩
  · have hb := serveSequence_begins (s := s) hc hsteps
    have hidle : settleDue (freeHead (serveSequence f.order (s.notedPanel f))) = freeHead (serveSequence f.order (s.notedPanel f)) := by
      refine settleDue_of_not_due ?_
      unfold State.stepDue
      rw [hb.oi]
      simp only [Order.sequence, Bool.not_false, Bool.true_and, beq_eq_false_iff_ne, ne_eq]
      omega
    exact ⟨_, (exec_sequence h).trans (congrArg Host.Outcome.next hidle), hb.oi, hb.causes, hb.suspended, hb.withdrawn,
      hb.triggered, hb.frame, hb.ur⟩
  · have hb := serveSequence_begins (s := s) hc hsteps
    have hexec := exec_sequence h
    generalize freeHead (serveSequence f.order (s.notedPanel f)) = u at hb hexec
    have hchain : u.oi.chain = some (f.order.sequence st rest) := by rw [hb.oi]
    have hlen := h.steps
    rw [hsteps] at hlen
    obtain ⟨hserve, hreach⟩ := settleDue_reached hchain rfl hd hlen
    have hsame := hb.same
    have hcurrent : (f.order.sequence st rest).current = some st := rfl
    have hcount : u.settings.stageCount = s.settings.stageCount := by rw [hsame.settings]
    have hoi : u.oi = { s.oi with
        last := ⟨f.sender, byteAt f.body 0, .inProgress, 1⟩, mark := .chain
        chain := some ⟨st :: rest, 1, false, 0, f.sender, byteAt f.body 0⟩ } := by
      rw [hb.oi, Order.sequence, hd]
      rfl
    have hissues {t : State} (ht : serveStep u = t) (hflight : t.stepDue = false) : exec .orderSequence s = .next t := by
      rw [hexec, hserve, ht, settleDue_of_not_due hflight]
    refine ⟨u, hexec.trans (congrArg Host.Outcome.next hreach.symm), hoi, hb.causes, hb.suspended, hb.withdrawn, hb.triggered,
      hb.frame, hb.ur, fun k hdir hk hbusy ht hp => ?_, fun k hdir hk hbusy ht hp hst => ?_, fun r hr => ?_⟩
    · have htest := hsame.refusal (cause := .sequence) (by decide) .close st.stage
      rw [pruneRequest_close hk, pruneRequest_close (by rw [hcount]; exact hk)] at htest
      obtain ⟨hissued, hflight⟩ := serveStep_close hchain rfl hcurrent hdir (by rw [hsame.orderBusy]; exact hbusy)
        (by rw [hcount]; exact hk) (htest.trans ht) (by rw [hsame.position]; exact hp)
      refine ⟨_, hissues rfl (stepDue_operating (by rw [hflight])), hflight.trans ?_, hissued.stage.trans (hsame.issued k _ _).1,
        fun j hj => (hissued.others j hj).trans (hsame.stage j), ?_, hissued.inService.trans hb.frame.inService,
        hb.frame.toSwitchFrame.trans hissued.frame⟩
      · rw [Order.sequence, hd]
        rfl
      · rw [hissued.ready, hb.frame.ready]
        rfl
    · have hmark : u.uncaptured k := .inl (by rw [hb.oi]; exact fun h => by cases h)
      obtain ⟨hissued, hflight⟩ := serveStep_open hchain rfl hcurrent hdir (by rw [hsame.orderBusy]; exact hbusy)
        (by rw [hcount]; exact hk) (by rw [hsame.openRefusal]; exact ht) (by rw [hsame.position]; exact hp) hmark
      refine ⟨_, hissues rfl (stepDue_operating (by rw [hflight])), hflight.trans ?_, hissued.stage.trans (hsame.issued k _ _).2,
        fun j hj => (hissued.others j hj).trans (hsame.stage j), hissued.ready.trans hb.frame.ready, ?_,
        hb.frame.toSwitchFrame.trans hissued.frame⟩
      · rw [Order.sequence, hd]
        rfl
      · rw [hissued.inService, hsame.stage, hb.frame.inService]
        rfl
    · have hstep := serveStep_refused hchain rfl hcurrent (r := r) (by rw [hsame.orderBusy, hsame.refusal (by decide)]; exact hr)
      have hended := endChain_refused (f.order.sequence st rest) st r u
      have hstages := refusedAt_congr (s := s) (t := u) (hsame.orderBusy st.dir st.stage) hsame.stages hsame.settings hsame.ms
      refine ⟨_, hissues hstep ?_, hended.oi, hended.causes.trans (by rw [hb.causes]), hended.stages.trans hstages,
        hended.ready.trans hb.frame.ready, hended.inService.trans hb.frame.inService,
        hb.frame.toAnnounces.kept.triggered hended.triggered, hb.frame.toSwitchFrame.trans hended.frame⟩
      unfold State.stepDue
      rw [hended.oi]
  · have hserve : serveStop f.order (s.notedPanel f) = endChain c .stopped (s.notedPanel f) := by
      unfold serveStop
      rw [show (s.notedPanel f).oi.chain = some c from hc]
    have hexec := exec_stop h
    rw [hserve] at hexec
    have hkept := endChain_keeps c .stopped (s.notedPanel f)
    exact ⟨_, hexec, endChain_oi .., endChain_causes .., endChain_triggered ..,
      (endChain_frame c .stopped (s.notedPanel f)).freed, hkept.1, hkept.2⟩
  · have hw := refuseOrder_written f .busy s
    have hserve : serveSequence f.order (s.notedPanel f) = refuseOrder f.order .busy (s.notedPanel f) := if_pos hc
    have hexec := exec_sequence h
    rw [hserve, settleDue_of_not_due (hw.stepDue.trans hdue)] at hexec
    exact ⟨_, hexec, hw.oi, hw.triggered, hw.frame, hw.vc, hw.ix, hw.ur⟩
  · have hw := refuseOrder_written f .already s
    have hserve : serveStop f.order (s.notedPanel f) = refuseOrder f.order .already (s.notedPanel f) := by
      unfold serveStop
      rw [show (s.notedPanel f).oi.chain = none from hc]
    have hexec := exec_stop h
    rw [hserve] at hexec
    exact ⟨_, hexec, hw.oi, hw.triggered, hw.frame, hw.vc, hw.ix, hw.ur⟩

end Sys2Proof.Proofs
end

/-! ### The end of a hold-off (R158) -/

section
namespace Sys2Proof.Machine

/-- R158: the own intent is COMMITTED. -/
def State.committing (s : State) (i : Intent) : State := { s with ix := { s.ix with own := some { i with phase := .committed } } }

theorem committing_frame (s : State) (i : Intent) : NoticeFrame s (s.committing i) :=
  noticeFrame_of s s.vc s.ur (some { i with phase := .committed }) s.oi s.alarm s.healthy
    ⟨.inl rfl, .inl rfl, rfl, rfl, rfl, rfl, rfl, rfl, rfl⟩ rfl rfl

theorem expireHoldOff_holding {s : State} {i : Intent} {n : Nat} (hi : s.ix.own = some i) (hp : i.phase = .holding n)
    (h : s.permitted = true) : expireHoldOff s = commit i s := by
  unfold expireHoldOff
  rw [hi]
  dsimp only
  rw [hp]
  exact if_pos h

theorem commit_accepted {s : State} {i : Intent}
    (h : commitRefusal (pruneRequest (s.committing i) i.dir i.stage.num) i = none) :
    commit i s = actCommitted i (pruneRequest (s.committing i) i.dir i.stage.num) := by
  unfold commit
  unfold State.committing at h ⊢
  dsimp only
  rw [h]

theorem commit_refused {s : State} {i : Intent} {r : Reason}
    (h : commitRefusal (pruneRequest (s.committing i) i.dir i.stage.num) i = some r) :
    commit i s = withdrawCommitted r (pruneRequest (s.committing i) i.dir i.stage.num) := by
  unfold commit
  unfold State.committing at h ⊢
  dsimp only
  rw [h]

theorem exec_holdOffExpiry {s t : State} {i : Intent} {n : Nat} (hi : s.ix.own = some i) (hp : i.phase = .holding n)
    (h : s.permitted = true) (hc : commit i s = t) (hd : t.stepDue = false) : exec .holdOffExpiry s = .next t := by
  show execHoldOffExpiry s = _
  rw [execHoldOffExpiry, expireHoldOff_holding hi hp h, hc, settleDue_of_not_due hd]

/-- R164: a committed intent is withdrawn by no notice. -/
theorem committed_unproposed {s : State} {i : Intent} (h : s.ix.own = some { i with phase := .committed }) (k : StageId) :
    s.unproposed k := fun j hj _ => by
  rw [h] at hj
  obtain rfl := Option.some.inj hj
  rfl

/-- The reasons of the close test and of the open conditions, other than those of a suspension. -/
def Reason.refuses : Reason → Prop
  | .precedence | .peerSwitched | .channelBusy | .overvoltage | .deadLine | .measLost | .suspended => False
  | _ => True

theorem afterWithdrawal_refuses {r : Reason} (h : r.refuses) (s : State) : afterWithdrawal r s = returnWatching r s := by
  cases r with
  | precedence | peerSwitched | channelBusy | overvoltage | deadLine | measLost | suspended => exact h.elim
  | _ => rfl

theorem guardVerdict_refuses {s : State} {k : StageId} {r : Reason} (h : guardVerdict s k = some r) (hm : r ≠ .measLost) :
    r.refuses := by
  unfold guardVerdict at h
  split at h
  · exact absurd (Option.some.inj h).symm hm
  · split at h
    · obtain rfl := Option.some.inj h
      trivial
    · cases h

/-- Table 3-2: the conditions of a configured stage. -/
theorem stageCloseTest_refuses {s : State} {k : StageId} {cause : Cause} {n : Nat} {r : Reason}
    (h : stageCloseTest s k cause n = some r) (hd : r ≠ .deadLine) (hm : r ≠ .measLost) : r.refuses := by
  unfold stageCloseTest at h
  dsimp only at h
  have told {x : Reason} (hx : some x = some r) (ht : x.refuses) : r.refuses := Option.some.inj hx ▸ ht
  split at h
  · exact told h trivial
  · exact told h trivial
  · exact told h trivial
  · exact told h trivial
  · exact told h trivial
  · split at h
    · exact told h trivial
    split at h
    · exact told h trivial
    split at h
    · exact told h trivial
    split at h
    · exact told h trivial
    split at h
    · exact absurd (Option.some.inj h).symm hd
    split at h
    · exact absurd (Option.some.inj h).symm hm
    split at h
    · exact told h trivial
    · exact guardVerdict_refuses h hm

/-- Tables 3-2 and 3-4 give no reason of R90 that leads elsewhere than to WATCHING, but DEAD_LINE and MEAS_LOST. -/
theorem commitRefusal_refuses {s : State} {i : Intent} {r : Reason} (h : commitRefusal s i = some r) (hd : r ≠ .deadLine)
    (hm : r ≠ .measLost) : r.refuses := by
  have told {x : Reason} (hx : some x = some r) (ht : x.refuses) : r.refuses := Option.some.inj hx ▸ ht
  unfold commitRefusal at h
  split at h
  · unfold closeTest at h
    split at h
    · split at h <;> exact told h trivial
    · split at h
      · exact told h trivial
      · split at h
        · exact told h trivial
        · exact stageCloseTest_refuses h hd hm
  · unfold openRefusal at h
    split at h
    · exact told h trivial
    · dsimp only at h
      split at h
      · exact told h trivial
      · split at h
        · exact told h trivial
        · split at h
          · exact told h trivial
          · split at h
            · exact told h trivial
            · cases h

/-- R158: the commitment is refused, on the state pruned for the re-test. -/
theorem withdrawCommitted_eq {s : State} {i : Intent} {r : Reason} (h : s.ix.own = some i) (hr : r.refuses) :
    withdrawCommitted r s = returnWatching r (dropIntent i r s) := by
  unfold withdrawCommitted
  rw [h]
  exact afterWithdrawal_refuses hr _

/-- R32, R192: a command in flight is nothing to the chain. -/
theorem issueClose_flight_chain {k : StageId} {s : State} (hp : s.position k ≠ .closed) (cause : Cause) (n : Nat) :
    (issueClose k cause n s).oi.chain = s.oi.chain := by
  rw [issueClose_flight hp]
  exact changeStage_chain ..

theorem issueOpen_flight_chain {k : StageId} {s : State} (hp : s.position k ≠ .opened) (cause : Cause) (n : Nat) :
    (issueOpen k cause n s).oi.chain = s.oi.chain := by
  rw [issueOpen_flight hp]
  exact changeStage_chain ..

/-- R68: a lower is of a CLOSED stage. -/
theorem openRefusal_lower {s : State} {k : StageId} (h : openRefusal s k.num .autoLower = none) :
    (s.stage k).state = .closed := by
  have hconf : s.configured k = true := by
    by_contra hc
    have hnone : stageOf s.settings.stageCount k.num = none := by
      rw [stageOf_none]
      have : ¬k.num ≤ s.settings.stageCount := by simpa [State.configured] using hc
      omega
    rw [openRefusal, hnone] at h
    cases h
  exact (((openRefusal_none_iff s k .autoLower hconf).mp h).1 (.inl rfl)).2

theorem actCommitted_close {s : State} {i : Intent} (h : i.dir = .close) : actCommitted i s =
    issueClose i.stage .autoRaise i.number (enterExecuting i.stage .close i.number s) := by
  unfold actCommitted
  rw [h]

theorem actCommitted_open {s : State} {i : Intent} (h : i.dir = .opening) : actCommitted i s =
    actOpen i.stage .autoLower i.number (enterExecuting i.stage .opening i.number s) := by
  unfold actCommitted
  rw [h]

/-- R156, R97: the count is of the own intents alone. -/
theorem NoticeFrame.counted {s t : State} (h : NoticeFrame s t) (x : Exchange) :
    NoticeFrame { s with ix := x } { t with ix := x } := by
  obtain ⟨⟨⟨h1, h2, h3, h4, h5, h6, h7, h8, h9, h10, h11, h12, h13, h14, h15, h16, -, -, -, hcontrol, hline⟩,
    ⟨hstation, hworking, harmed, hnews⟩⟩, hstages, hready, hin⟩ := h
  refine ⟨⟨⟨h1, h2, h3, h4, h5, h6, h7, h8, h9, h10, h11, h12, h13, h14, h15, h16, rfl, rfl, rfl, hcontrol, hline⟩,
    ⟨hstation, hworking, harmed, ?_⟩⟩, hstages, hready, hin⟩
  rcases hnews with hnews | ⟨⟨n1, n2, n3, n4, n5, n6⟩, hdelay⟩
  · exact .inl hnews
  · exact .inr ⟨⟨n1, n2, n3, n4, n5, n6⟩, hdelay⟩

theorem satInc_three (n : Nat) : satInc 3 n = min 3 (n + 1) ∧ (satInc 3 n == 3) = decide (2 ≤ n) := by
  unfold satInc
  constructor
  · omega
  · rw [Bool.eq_iff_iff]
    simp only [beq_iff_eq, decide_eq_true_eq]
    omega

end Sys2Proof.Machine
end

section
namespace Sys2Proof.Proofs
open Machine

/-- Settles O48: the re-test, and the intent COMMITTED, which no stage notice withdraws. -/
theorem intentTimersEnd : Obligations.IntentTimersEnd := by
  refine ⟨fun s i n hi hph hperm hdue => ⟨fun hdir hconf hp ht => ?_, fun hdir hp ht => ?_, fun r hr hnd hnm => ?_⟩,
    fun s i q hi hph => ?_⟩
  · have hk : stageOf s.settings.stageCount i.stage.num = some i.stage := stageOf_num (by simpa [State.configured] using hconf)
    have hprune := pruneRequest_close (s := s.committing i) hk
    have htest : closeTest ((s.committing i).prune i.stage) i.stage.num .autoRaise i.number = none :=
      (congrArg (closeTest · i.stage.num .autoRaise i.number) hprune).symm.trans ht
    have hnone : commitRefusal (pruneRequest (s.committing i) i.dir i.stage.num) i = none := by
      rw [hdir, hprune, commitRefusal, hdir]
      exact htest
    have hcommit := commit_accepted hnone
    rw [hdir, hprune, actCommitted_close hdir] at hcommit
    obtain ⟨hready, -⟩ := closeTest_pruned (s := s.committing i) hk htest
    have hw := enterExecuting_frame i.stage .close i.number ((s.committing i).prune i.stage)
    have hissued := issueClose_issued (s := s.committing i) hw hready hp .autoRaise i.number
    obtain ⟨hvc, hix⟩ := issueClose_flight_control (s := enterExecuting i.stage .close i.number ((s.committing i).prune i.stage)) hp
      (committed_unproposed rfl _) .autoRaise i.number
    have hchain := issueClose_flight_chain (s := enterExecuting i.stage .close i.number ((s.committing i).prune i.stage)) hp
      .autoRaise i.number
    exact ⟨_, exec_holdOffExpiry hi hph hperm hcommit ((stepDue_congr hchain).trans hdue), hix, hvc, hissued.stage, hissued.others,
      hissued.ready, hissued.inService, (committing_frame s i).toSwitchFrame.trans hissued.frame⟩
  · have hnone : commitRefusal (pruneRequest (s.committing i) i.dir i.stage.num) i = none := by
      rw [hdir, commitRefusal, hdir]
      exact ht
    have hcommit := commit_accepted hnone
    have hclosed := openRefusal_lower ht
    have hprune : pruneRequest (s.committing i) .opening i.stage.num = s.committing i := rfl
    rw [hdir, hprune, actCommitted_open hdir] at hcommit
    rw [actOpen_issues (s := enterExecuting i.stage .opening i.number (s.committing i)) (.inl hclosed)] at hcommit
    have hw := (committing_frame s i).trans (enterExecuting_frame i.stage .opening i.number (s.committing i))
    have hissued := issueOpen_issued hw (.inl hclosed) hp .autoLower i.number
    obtain ⟨hvc, hix⟩ := issueOpen_flight_control (s := enterExecuting i.stage .opening i.number (s.committing i)) hp
      (committed_unproposed rfl _) .autoLower i.number
    have hchain := issueOpen_flight_chain (s := enterExecuting i.stage .opening i.number (s.committing i)) hp .autoLower i.number
    exact ⟨_, exec_holdOffExpiry hi hph hperm hcommit ((stepDue_congr hchain).trans hdue), hix, hvc, hissued.stage, hissued.others,
      hissued.ready, hissued.inService.trans (if_pos hclosed), hissued.frame⟩
  · obtain ⟨hstages, hready, hin, hvc, hix, hur, hoi⟩ :=
      pruneRequest_congr (s := s) (t := s.committing i) rfl rfl rfl i.dir i.stage.num
    have hprune := pruneRequest_frame (s.committing i) i.dir i.stage.num
    have hown : (pruneRequest (s.committing i) i.dir i.stage.num).ix.own = some { i with phase := .committed } := by rw [hix]; rfl
    have hcommit := (commit_refused hr).trans (withdrawCommitted_eq hown (commitRefusal_refuses hr hnd hnm))
    generalize pruneRequest (s.committing i) i.dir i.stage.num = u at *
    obtain ⟨kvc, koi, kur, kix, kslot, -⟩ := dropIntent_keeps { i with phase := .committed } r u
    have hdrop := (dropIntent_frame { i with phase := .committed } r u).trans (returnWatching_frame r _)
    have hdue' : (returnWatching r (dropIntent { i with phase := .committed } r u)).stepDue = false :=
      (stepDue_congr (congrArg (·.chain) (koi.trans hoi))).trans hdue
    refine ⟨_, exec_holdOffExpiry hi hph hperm hcommit hdue', kix.trans ?_, ?_, kslot, hdrop.stages.trans hstages,
      hdrop.ready.trans hready, hdrop.inService.trans hin, koi.trans hoi, kur.trans hur,
      (committing_frame s i).toSwitchFrame.trans (hprune.trans hdrop.toSwitchFrame)⟩
    · rw [hix]
      rfl
    · exact congrArg (fun v : Controller => { v with state := .watching, unserved := r }) (kvc.trans hvc)
  · have hdrop : unsent i = true := by unfold unsent; rw [hph]
    have hnot : i.phase ≠ .committed := by rw [hph]; exact fun h => by cases h
    have hexec : exec .queueTimeExpiry s = .next (countBusy (withdraw .channelBusy s)) := by
      show execQueueTimeExpiry s = _
      rw [execQueueTimeExpiry, hi]
      exact congrArg Host.Outcome.next (if_pos hdrop)
    obtain ⟨hstate, hlow, hhigh, hix, hslot⟩ := withdraw_quiet (r := .channelBusy) trivial hi hnot
    obtain ⟨hoi, hur, hcauses, -⟩ := withdraw_keeps .channelBusy s
    have hintent := (withdraw_withdrawn hi hnot .channelBusy).slot
    rw [hph] at hintent
    refine ⟨_, hexec, ?_, hstate, hlow, hhigh, hcauses, ?_, hintent, hslot, hoi, hur,
      (withdraw_frame .channelBusy s).counted _⟩
    · obtain ⟨hcount, hfull⟩ := satInc_three s.ix.busyCount
      rw [countBusy, hix]
      simp only [hcount]
      rw [← hcount, hfull]
    · rw [countBusy, withdraw_quiets (r := .channelBusy) trivial hi hnot]
      exact congrArg (fun x : Settings => some (1000 * x.stationSettle)) (dropIntent_frame i .channelBusy s).settings

end Sys2Proof.Proofs
end

/-! ### The chain beside a switching (R193) -/

section
namespace Sys2Proof.Machine

/-- What an event apart from the chain leaves of its record and of what is held of the last one (log 35). -/
structure ChainKept (s t : State) : Prop where
  chain : t.oi.chain = s.oi.chain
  stepIndex : t.oi.stepIndex = s.oi.stepIndex
  stepReason : t.oi.stepReason = s.oi.stepReason

theorem ChainKept.of_oi {s t : State} (h : t.oi = s.oi) : ChainKept s t := by
  constructor <;> rw [h]

theorem ChainKept.trans {s t u : State} (h : ChainKept s t) (h' : ChainKept t u) : ChainKept s u :=
  ⟨h'.chain.trans h.chain, h'.stepIndex.trans h.stepIndex, h'.stepReason.trans h.stepReason⟩

theorem ChainKept.from {s s' t : State} (h : ChainKept s' t) (e : s'.oi = s.oi) : ChainKept s t := (ChainKept.of_oi e).trans h

/-- R189: a record written after the event is all that the event leaves at the orders. -/
theorem ChainKept.written {s t : State} (h : ChainKept s t) (last : LastOrder) (mark : SettleMark) :
    { t.oi with last := last, mark := mark } = { s.oi with last := last, mark := mark } := by
  simp only [h.chain, h.stepIndex, h.stepReason]

theorem writeOrder_chainKept (p g : Nat) (o : OrderOutcome) (d : Nat) (m : SettleMark) (s : State) :
    ChainKept s (writeOrder p g o d m s) := by
  obtain ⟨hoi, -⟩ := writeOrder_keeps p g o d m s
  constructor <;> rw [hoi]

theorem abandonCapture_chainKept (k : StageId) (s : State) : ChainKept s (abandonCapture k s) := by
  unfold abandonCapture captureEnded
  split
  · split
    · split
      · exact (ChainKept.of_oi (s := s) (t := { s with ur := { s.ur with capture := none } }) rfl).trans (writeOrder_chainKept ..)
      · exact .of_oi rfl
    · exact .of_oi rfl
  · exact .of_oi rfl

theorem relayNotice_chainKept (k : StageId) (old new : StageState) (s : State) : ChainKept s (relayNotice k old new s) := by
  unfold relayNotice
  split
  · exact .of_oi rfl
  · split
    · exact .of_oi rfl
    · split
      · refine ChainKept.trans ?_ (.of_oi (unbalanceNotice_keeps ..).1)
        exact (ChainKept.of_oi (s := s) (t := s.modEntry k RelayEntry.leaveService) rfl).trans (abandonCapture_chainKept ..)
      · exact .of_oi rfl

theorem changeStage_chainKept (k : StageId) (new : StageState) (s : State) : ChainKept s (changeStage k new s) := by
  unfold changeStage stageNotice
  have hmoved : ChainKept s (trigger (s.moveStage k new)) := .of_oi (trigger_oi _)
  exact (hmoved.trans (relayNotice_chainKept ..)).trans (.of_oi (exchangeNotice_keeps ..).1)

/-- R193: a report of another stage than that of the step in flight is nothing to the chain. -/
theorem report_apart {r : SwitchReport} {s : State} (h : ChainApart r.stage s) :
    report r s = settleOrder r (reported r s) := by
  have hchain : (settleOrder r (reported r s)).oi.chain = s.oi.chain := by
    rw [(settleOrder_keeps ..).1, reported_oi]
  rw [report_eq, settleChain]
  rw [hchain]
  split
  · rfl
  next c hc =>
    split
    · rfl
    next st hst =>
      rw [if_neg]
      intro hop
      simp only [Bool.and_eq_true, beq_iff_eq] at hop
      exact h.elsewhere c st hc hop.1 hst hop.2

theorem settleOrder_chainKept (r : SwitchReport) (s : State) : ChainKept s (settleOrder r s) := by
  by_cases h : s.oi.mark = .report r.stage
  · rw [settleOrder_eq h]
    exact writeOrder_chainKept ..
  · rw [settleOrder_other h]
    exact .of_oi rfl

theorem report_chainKept {r : SwitchReport} {s : State} (h : ChainApart r.stage s) : ChainKept s (report r s) := by
  rw [report_apart h]
  exact (ChainKept.of_oi (reported_oi r s)).trans (settleOrder_chainKept ..)

theorem ChainApart.kept {k : StageId} {s t : State} (h : ChainApart k s) (hk : ChainKept s t) : ChainApart k t := h.congr hk.chain

/-- R192: no step becomes due. -/
theorem ChainKept.settled {s t : State} (h : ChainKept s t) (hd : s.stepDue = false) : settleDue t = t :=
  settleDue_of_not_due ((stepDue_congr h.chain).trans hd)

end Sys2Proof.Machine
end

/-! ### The moves of a stage (R48, R51, R52) -/

section
namespace Sys2Proof.Machine

/-- R48: a list that the new state does not join. -/
theorem relist_left {here new : StageState} (h : new ≠ here) (k : StageId) (old : StageState) (l : List StageId) :
    relist here k old new l = if old = here then l.filter (· ≠ k) else l := if_neg h

theorem relist_leaves {here old new : StageState} (hold : old = here) (h : new ≠ here) (k : StageId) (l : List StageId) :
    relist here k old new l = l.filter (· ≠ k) := (relist_left h k old l).trans (if_pos hold)

theorem relist_stays {here old new : StageState} (hold : old ≠ here) (h : new ≠ here) (k : StageId) (l : List StageId) :
    relist here k old new l = l := (relist_left h k old l).trans (if_neg hold)

theorem relist_joins {here old new : StageState} (hold : old ≠ here) (h : new = here) (k : StageId) (l : List StageId) :
    relist here k old new l = l ++ [k] := by
  rw [relist, if_neg hold]
  exact if_pos h

/-- A switching leaves stage `k` with the record `r`, the lists as its old and its new state say (R48), and the other stages. -/
structure Moved (k : StageId) (r : Stage) (s t : State) : Prop where
  stage : t.stage k = r
  others : OtherStages k s t
  ready : t.ready = relist .ready k (s.stage k).state r.state s.ready
  inService : t.inService = relist .closed k (s.stage k).state r.state s.inService
  frame : SwitchFrame s t

theorem Moved.record {k : StageId} {r r' : Stage} {s t : State} (h : Moved k r s t) (e : r = r') : Moved k r' s t := e ▸ h

/-- R52: a change of state with its notice. -/
theorem changeStage_moved (k : StageId) (new : StageState) (s : State) :
    Moved k ((s.stage k).moved new) s (changeStage k new s) := by
  have h := stageNotice_frame k (s.stage k).state new (s.moveStage k new)
  refine ⟨(h.stage k).trans (moveStage_stage ..), fun j hj => (h.stage j).trans (moveStage_others s k new j hj), h.ready,
    h.inService, changeStage_frame ..⟩

theorem Moved.reported {k : StageId} {r : Stage} {s t : State} (h : Moved k r s t) (x : SwitchReport) : Moved k r s (report x t) := by
  have hr := report_frame x t
  exact ⟨(hr.stage k).trans h.stage, report_others h.others, hr.ready.trans h.ready, hr.inService.trans h.inService,
    h.frame.trans hr.toSwitchFrame⟩

/-- A change of the record before the move, that leaves the state. -/
theorem Moved.after {k : StageId} {r : Stage} {f : Stage → Stage} {s t : State} (h : Moved k r (s.modStage k f) t)
    (hf : (f (s.stage k)).state = (s.stage k).state) : Moved k r s t := by
  refine ⟨h.stage, fun j hj => (h.others j hj).trans (modStage_stage_ne s f hj), ?_, ?_, (modStage_frame _ _ _ hf).trans h.frame⟩
  · rw [h.ready, modStage_stage, hf]
    rfl
  · rw [h.inService, modStage_stage, hf]
    rfl

/-- A change of the record alone. -/
theorem modStage_moved {k : StageId} {f : Stage → Stage} {s : State} (hf : (f (s.stage k)).state = (s.stage k).state)
    (hready : (s.stage k).state ≠ .ready) (hclosed : (s.stage k).state ≠ .closed) : Moved k (f (s.stage k)) s (s.modStage k f) := by
  refine ⟨modStage_stage .., fun j hj => modStage_stage_ne s f hj, ?_, ?_, modStage_frame _ _ _ hf⟩
  · simp [relist, hf, hready]
  · simp [relist, hf, hclosed]

theorem changeStage_modified {k : StageId} {new : StageState} {f : Stage → Stage} {s : State}
    (hf : (f (s.stage k)).state = (s.stage k).state) :
    Moved k ((f (s.stage k)).moved new) s (changeStage k new (s.modStage k f)) := by
  have h := changeStage_moved k new (s.modStage k f)
  rw [modStage_stage] at h
  exact h.after hf

/-- R32, R48: an open issued after a move to CLOSED: the stage leaves the in-service list that it had joined. -/
theorem issueOpen_flies {k : StageId} {s : State} (hp : s.position k ≠ .opened) (cause : Cause) (n : Nat) :
    Moved k { s.openIssued k cause n with discharge := if (s.stage k).state = .lockout then 0 else (s.stage k).discharge } s
      (issueOpen k cause n s) := by
  obtain ⟨hstage, hothers, hready, hin, hframe, -⟩ := issueOpen_spec k cause n s
  rw [if_neg hp] at hstage
  exact ⟨hstage, hothers, hready, hin, hframe⟩

end Sys2Proof.Machine
end

/-! ### Positions taken (R33, R34, R41 to R46) -/

section
namespace Sys2Proof.Machine

/-- R41: a CLOSED stage found open. -/
theorem externalOpen_moved {k : StageId} {s : State} (h : (s.stage k).state = .closed) :
    Moved k { s.stage k with
      state := .discharging, lastCause := .extOpen, discharge := s.fullDischarge k, disc := none, op := none } s (externalOpen k s) := by
  have hm := (changeStage_modified (k := k) (s := s) (new := .discharging)
    (f := fun r => { r with lastCause := .extOpen, discharge := s.fullDischarge k, disc := none }) rfl).reported
    ⟨k, .opening, .executed, .extOpen, 0⟩
  exact hm.record (by simp [Stage.moved, rediscrepancy, h, StageState.resting])

/-- R42: the cause of an external close. -/
def State.foundClosed (s : State) (k : StageId) : Cause := if (s.stage k).state = .ready then .extClose else .extCloseCharged

/-- R42: the record of a stage found closed. -/
def State.closedOutside (s : State) (k : StageId) : Stage :=
  { s.stage k with
    state := .closed, lastCause := s.foundClosed k, discharge := 0, disc := none, op := none
    duty := recordDuty (s.cfg k).dutyLimit s.seconds (s.stage k).duty }

/-- R42, R51: a stage found closed, before the dead line is looked at (log 15). -/
def closeOutside (k : StageId) (s : State) : State :=
  report ⟨k, .close, .executed, s.foundClosed k, 0⟩ (changeStage k .closed ((s.addExternalDuty k).modStage k fun r =>
    { r with lastCause := s.foundClosed k, discharge := 0, disc := none }))

theorem externalClose_eq (k : StageId) (s : State) : externalClose k s = deadLineNotice k (closeOutside k s) := rfl

theorem closeOutside_moved (k : StageId) (s : State) : Moved k (s.closedOutside k) s (closeOutside k s) := by
  have hm := changeStage_modified (k := k) (s := s) (new := .closed) (f := fun r => { r with
    duty := recordDuty (s.cfg k).dutyLimit s.seconds r.duty, lastCause := s.foundClosed k, discharge := 0, disc := none }) rfl
  have hr := hm.reported ⟨k, .close, .executed, s.foundClosed k, 0⟩
  rw [closeOutside, State.addExternalDuty, modStage_modStage]
  exact hr.record (by simp [Stage.moved, rediscrepancy, StageState.resting, State.closedOutside])

end Sys2Proof.Machine
end

/-! ### Opens that follow a close (R38, R95) -/

section
namespace Sys2Proof.Machine

theorem SwitchFrame.position {s t : State} (h : SwitchFrame s t) (k : StageId) : t.position k = s.position k := by
  unfold State.position
  rw [h.inputs]

theorem SwitchFrame.cfg {s t : State} (h : SwitchFrame s t) (k : StageId) : t.cfg k = s.cfg k := by
  unfold State.cfg
  rw [h.settings]

theorem SwitchFrame.configured {s t : State} (h : SwitchFrame s t) (k : StageId) : t.configured k = s.configured k := by
  unfold State.configured
  rw [h.settings]

/-- R95: a stage that has entered CLOSED under a declared dead line is opened. -/
theorem deadLineNotice_opens {k : StageId} {s : State} (hk : s.configured k = true) (hd : s.vc.deadLine = true)
    (hc : (s.stage k).state = .closed) : deadLineNotice k s = issueOpen k .deadLine 0 s := by
  have hpass : openRefusal s k.num .deadLine = none :=
    (openRefusal_none_iff s k .deadLine hk).mpr ⟨fun h => by simp at h, .inl hc⟩
  rw [deadLineNotice, if_pos hd, requestOpen, hpass]
  exact actOpen_issues (.inl hc) _ _

/-- R31, R32: the record of a stage with the record `r` that is opened at once, its breaker closed. -/
def State.reopened (s : State) (k : StageId) (r : Stage) (cause : Cause) : Stage :=
  { r with
    state := .opening, lastCause := cause, disc := none, openOut := true
    op := some ⟨.opening, cause, 0, s.ms, none⟩
    pulse := some (s.cfg k).pulseWidth, window := some (s.cfg k).operateWindow }

/-- R48, R95: a stage that has entered CLOSED with the record `r` and is opened at the same event. -/
structure Reopened (k : StageId) (r : Stage) (cause : Cause) (s t : State) : Prop where
  stage : t.stage k = s.reopened k r cause
  others : OtherStages k s t
  ready : t.ready = relist .ready k (s.stage k).state .closed s.ready
  inService : t.inService = s.inService.filter (· ≠ k)
  frame : SwitchFrame s t
  chain : ChainKept s t

theorem issueOpen_flight_chainKept {k : StageId} {s : State} (hp : s.position k ≠ .opened) (cause : Cause) (n : Nat) :
    ChainKept s (issueOpen k cause n s) := by
  rw [issueOpen_flight hp]
  exact (ChainKept.of_oi (s := s) (t := s.modStage k _) rfl).trans (changeStage_chainKept ..)

theorem Moved.reopens {k : StageId} {r : Stage} {s w : State} (h : Moved k r s w) (hc : ChainKept s w) (hr : r.state = .closed)
    (hp : s.position k ≠ .opened) (cause : Cause) : Reopened k r cause s (issueOpen k cause 0 w) := by
  have hpw : w.position k ≠ .opened := by rw [h.frame.position]; exact hp
  have ho := issueOpen_flies hpw cause 0
  refine ⟨?_, fun j hj => (ho.others j hj).trans (h.others j hj), ?_, ?_, h.frame.trans ho.frame,
    hc.trans (issueOpen_flight_chainKept hpw cause 0)⟩
  · rw [ho.stage, h.stage, hr, State.openIssued, h.stage, h.frame.cfg, h.frame.ms]
    rfl
  · rw [ho.ready, h.stage, hr, h.ready, hr]
    simp [relist, State.openIssued]
  · rw [ho.inService, h.stage, hr, h.inService, hr]
    by_cases hs : (s.stage k).state = .closed <;> simp [relist, State.openIssued, hs]

/-- R164, R159: after the notice and the report of a stage no own intent names it. -/
theorem report_unowned (r : SwitchReport) (new : StageState) (s : State) (i : Intent)
    (h : (report r (changeStage r.stage new s)).ix.own = some i) : i.stage ≠ r.stage := by
  intro hst
  obtain ⟨hown, hnot⟩ := report_own r _ i h
  obtain ⟨-, hcommitted⟩ := changeStage_own r.stage new s i hown
  exact hnot ⟨hcommitted hst, hst⟩

/-- R32: an open in flight on a stage that no own intent names leaves the OUTCOME slot. -/
theorem issueOpen_flight_outcome {k : StageId} {s : State} (hp : s.position k ≠ .opened)
    (hown : ∀ i, s.ix.own = some i → i.stage ≠ k) (cause : Cause) (n : Nat) :
    (issueOpen k cause n s).lc.outcomeSlot = s.lc.outcomeSlot := by
  rw [issueOpen_flight hp]
  exact (changeStage_outcomeSlot k .opening (s.modStage k _) hown).trans rfl

/-- R95: what the dead line does at a stage that has just been reported closed. -/
theorem reclosed_opens {k : StageId} {r : Stage} {x : SwitchReport} {s u : State} (hx : x.stage = k)
    (h : Moved k r s (report x (changeStage k .closed u))) (hc : ChainKept s (report x (changeStage k .closed u)))
    (hr : r.state = .closed) (hp : s.position k ≠ .opened) (cause : Cause) :
    Reopened k r cause s (issueOpen k cause 0 (report x (changeStage k .closed u))) ∧
      (issueOpen k cause 0 (report x (changeStage k .closed u))).lc.outcomeSlot = some (reportContent x) := by
  refine ⟨h.reopens hc hr hp cause, ?_⟩
  rw [issueOpen_flight_outcome (by rw [h.frame.position]; exact hp) (hx ▸ report_unowned x .closed u), report_outcomeSlot]

end Sys2Proof.Machine
end

/-! ### Stages found closed (R42, R43) -/

section
namespace Sys2Proof.Machine

/-- R35, R51: a report after a change of state, on a state whose chain is apart. -/
theorem reported_chainKept {k : StageId} {s : State} (h : ChainApart k s) (f : Stage → Stage) (new : StageState) {x : SwitchReport}
    (hx : x.stage = k) : ChainKept s (report x (changeStage k new (s.modStage k f))) := by
  have hmoved : ChainKept s (changeStage k new (s.modStage k f)) :=
    (ChainKept.of_oi (s := s) (t := s.modStage k _) rfl).trans (changeStage_chainKept ..)
  exact hmoved.trans (report_chainKept (by rw [hx]; exact h.kept hmoved))

theorem closeOutside_chainKept {k : StageId} {s : State} (h : ChainApart k s) : ChainKept s (closeOutside k s) :=
  (reported_chainKept (s := s.addExternalDuty k) (h.kept (.of_oi rfl)) _ .closed rfl).from rfl

theorem externalClose_live {k : StageId} {s : State} (hd : s.vc.deadLine = false) : externalClose k s = closeOutside k s := by
  rw [externalClose_eq, deadLineNotice_live]
  rw [(closeOutside_moved k s).frame.control.deadLine, hd]

/-- R95: a stage found closed under a declared dead line. -/
theorem externalClose_dead {k : StageId} {s : State} (hk : s.configured k = true) (hd : s.vc.deadLine = true) :
    externalClose k s = issueOpen k .deadLine 0 (closeOutside k s) := by
  have hm := closeOutside_moved k s
  rw [externalClose_eq, deadLineNotice_opens (by rw [hm.frame.configured]; exact hk) (by rw [hm.frame.control.deadLine]; exact hd)]
  rw [hm.stage]
  rfl

/-- R42, R51: the report of an external close. -/
def State.foundReport (s : State) (k : StageId) : OutcomeContent := ⟨0, .executed, .close, k, s.foundClosed k, .none⟩

theorem closeOutside_outcome (k : StageId) (s : State) : (closeOutside k s).lc.outcomeSlot = some (s.foundReport k) :=
  report_outcomeSlot ..

theorem externalClose_reopens {k : StageId} {s : State} (hk : s.configured k = true) (hd : s.vc.deadLine = true)
    (ha : ChainApart k s) (hp : s.position k = .closed) :
    Reopened k (s.closedOutside k) .deadLine s (externalClose k s) ∧
      (externalClose k s).lc.outcomeSlot = some (s.foundReport k) := by
  rw [externalClose_dead hk hd]
  exact reclosed_opens (x := ⟨k, .close, .executed, s.foundClosed k, 0⟩) rfl (closeOutside_moved k s) (closeOutside_chainKept ha)
    rfl (by rw [hp]; decide) .deadLine

/-- R43: the record of a LOCKOUT stage that is found closed, and opened. -/
def State.enforced (s : State) (k : StageId) : Stage :=
  { s.stage k with
    state := .opening, lastCause := .lockoutEnforce, discharge := 0, disc := none, openOut := true
    op := some ⟨.opening, .lockoutEnforce, 0, s.ms, none⟩
    pulse := some (s.cfg k).pulseWidth, window := some (s.cfg k).operateWindow
    duty := recordDuty (s.cfg k).dutyLimit s.seconds (s.stage k).duty }

theorem enforceLockout_moved {k : StageId} {s : State} (h : (s.stage k).state = .lockout) (hp : s.position k = .closed) :
    Moved k (s.enforced k) s (enforceLockout k s) ∧ ChainKept s (enforceLockout k s) := by
  have hpw : (s.addExternalDuty k).position k ≠ .opened := by
    show s.position k ≠ .opened
    rw [hp]
    decide
  have ho := issueOpen_flies hpw .lockoutEnforce 0
  refine ⟨(ho.after rfl).record ?_, (issueOpen_flight_chainKept hpw .lockoutEnforce 0).from rfl⟩
  simp [State.openIssued, State.addExternalDuty, State.enforced, h]

end Sys2Proof.Machine
end

/-! ### Commands completed (R33, R34) -/

section
namespace Sys2Proof.Machine

/-- R33: the record of a close that completes at a position. -/
def State.closeMade (s : State) (k : StageId) (op : Operation) : Stage :=
  { s.stage k with
    state := .closed, closeOut := false, pulse := none, window := none, discharge := 0, disc := none, op := none
    lastClose := max 1 (s.ms - op.start) }

/-- R33, R51: the close and its report, before a cut cause or the dead line is looked at (log 15). -/
def closeReached (k : StageId) (op : Operation) (s : State) : State :=
  report ⟨k, .close, .executed, op.cause, op.intent⟩ (changeStage k .closed (s.modStage k fun r => { r with
    closeOut := false, pulse := none, window := none, lastClose := max 1 (s.ms - op.start), discharge := 0 }))

theorem completeClose_uncut {k : StageId} {op : Operation} (h : op.cut = none) (s : State) :
    completeClose k op true s = deadLineNotice k (closeReached k op s) := by
  unfold completeClose
  rw [h]
  rfl

theorem completeClose_cut {k : StageId} {op : Operation} {c : Cause} (h : op.cut = some c) (s : State) :
    completeClose k op true s = deadLineNotice k (issueOpen k c 0 (closeReached k op s)) := by
  unfold completeClose
  rw [h]
  rfl

theorem closeReached_moved {k : StageId} {s : State} (h : (s.stage k).state = .closing) (op : Operation) :
    Moved k (s.closeMade k op) s (closeReached k op s) := by
  have hm := (changeStage_modified (k := k) (s := s) (new := .closed) (f := fun r => { r with
    closeOut := false, pulse := none, window := none, lastClose := max 1 (s.ms - op.start), discharge := 0 }) rfl).reported
    ⟨k, .close, .executed, op.cause, op.intent⟩
  exact hm.record (by simp [Stage.moved, rediscrepancy, StageState.resting, State.closeMade, h])

theorem closeReached_chainKept {k : StageId} {s : State} (h : ChainApart k s) (op : Operation) :
    ChainKept s (closeReached k op s) := reported_chainKept h _ .closed rfl

theorem closeReached_outcome (k : StageId) (op : Operation) (s : State) : (closeReached k op s).lc.outcomeSlot =
    some ⟨op.intent, .executed, .close, k, op.cause, .none⟩ := report_outcomeSlot ..

theorem closeReached_reopens {k : StageId} {s : State} (h : (s.stage k).state = .closing) (op : Operation) (ha : ChainApart k s)
    (hp : s.position k ≠ .opened) (cause : Cause) :
    Reopened k (s.closeMade k op) cause s (issueOpen k cause 0 (closeReached k op s)) ∧
      (issueOpen k cause 0 (closeReached k op s)).lc.outcomeSlot = some ⟨op.intent, .executed, .close, k, op.cause, .none⟩ :=
  reclosed_opens (x := ⟨k, .close, .executed, op.cause, op.intent⟩) rfl (closeReached_moved h op) (closeReached_chainKept ha op)
    rfl hp cause

/-- R34: the record of an open that completes at a position. -/
def State.openMade (s : State) (k : StageId) (op : Operation) : Stage :=
  { s.stage k with
    state := if (s.stage k).tripLatch then .lockout else .discharging
    openOut := false, pulse := none, window := none, discharge := s.fullDischarge k, disc := none, op := none
    lastOpen := max 1 (s.ms - op.start) }

theorem completeOpen_moved {k : StageId} {s : State} (h : (s.stage k).state = .opening) (op : Operation) :
    Moved k (s.openMade k op) s (completeOpen k op true s) := by
  have hm := (changeStage_modified (k := k) (s := s) (new := if (s.stage k).tripLatch then .lockout else .discharging)
    (f := fun r => { r with
      openOut := false, pulse := none, window := none, lastOpen := max 1 (s.ms - op.start), discharge := s.fullDischarge k }) rfl).reported
    ⟨k, .opening, .executed, op.cause, op.intent⟩
  refine Moved.record hm ?_
  cases hl : (s.stage k).tripLatch <;> simp [Stage.moved, rediscrepancy, StageState.resting, State.openMade, h, hl]

end Sys2Proof.Machine
end

/-! ### The own intent at a stage notice (R164, R90) -/

section
namespace Sys2Proof.Machine

theorem withdraw_watching {i : Intent} {s : State} {r : Reason} (hr : r.refuses) (h : s.ix.own = some i)
    (hp : i.phase ≠ .committed) : withdraw r s = returnWatching r (dropIntent i r s) :=
  (withdraw_eq h hp r).trans (afterWithdrawal_refuses hr _)

theorem exchangeNotice_withdraws {k : StageId} {s : State} {i : Intent} (hi : s.ix.own = some i) (hk : i.stage = k) :
    exchangeNotice k s = withdraw .stageChanged s := by
  unfold exchangeNotice
  rw [hi]
  exact if_pos hk

/-- R164, R162: the notice of a change of state withdraws an own intent on the stage. -/
theorem changeStage_withdraws {k : StageId} {s : State} {i : Intent} (new : StageState) (hi : s.ix.own = some i)
    (hp : i.phase ≠ .committed) (hk : i.stage = k) : Withdrawn i .stageChanged s (changeStage k new s) ∧
      (changeStage k new s).vc = { s.vc with state := .watching, unserved := .stageChanged } := by
  obtain ⟨hvc, hslot⟩ := relayNotice_slot k (s.stage k).state new (trigger (s.moveStage k new))
  obtain ⟨hix, -⟩ := relayNotice_ix k (s.stage k).state new (trigger (s.moveStage k new))
  rw [trigger_vc] at hvc
  rw [trigger_ix] at hix
  rw [trigger_intentSlot] at hslot
  unfold changeStage stageNotice
  generalize relayNotice k (s.stage k).state new (trigger (s.moveStage k new)) = w at hvc hslot hix
  have hown : w.ix.own = some i := (congrArg (·.own) hix).trans hi
  have hw := withdraw_withdrawn hown hp .stageChanged
  obtain ⟨kvc, -⟩ := dropIntent_keeps i .stageChanged w
  rw [exchangeNotice_withdraws hown hk]
  refine ⟨⟨⟨hw.own.trans (by rw [hix]; rfl), hw.slot.trans (by rw [hslot]; rfl)⟩, hw.outcome⟩, ?_⟩
  rw [withdraw_watching (r := .stageChanged) trivial hown hp]
  exact congrArg (fun v : Controller => { v with state := .watching, unserved := .stageChanged }) (kvc.trans hvc)

/-- R83, R165: a report that finds the controller in WATCHING leaves it in QUIET, and the slot of the INTENT. -/
theorem report_rests {x : SwitchReport} {s : State} (ha : ChainApart x.stage s) (hs : s.vc.state = .watching)
    (hown : s.ix.own = none) : (report x s).ix = s.ix ∧ (report x s).vc.state = .quiet ∧ (report x s).vc.low = 0 ∧
      (report x s).vc.high = 0 := by
  have hx : (exchangeReport x s).vc.state = .watching := by rw [exchangeReport_vc, hs]
  have hvc : (report x s).vc = (enterQuiet (exchangeReport x s)).vc := by
    rw [report_apart ha, settleOrder_vc, reported, controllerReport_watching hx]
  refine ⟨?_, by rw [hvc]; rfl, by rw [hvc]; rfl, by rw [hvc]; rfl⟩
  rw [report_ix]
  unfold exchangeReport
  rw [hown, placeOutcome, refreshAccess_ix]
  exact congrArg (fun o => { s.ix with own := o }) hown.symm

/-- R162, R164, R83: what a switching of the stage and its report leave of an own intent on it. -/
structure IntentEnded (i : Intent) (s t : State) : Prop extends IntentDropped i s t where
  state : t.vc.state = .quiet
  low : t.vc.low = 0
  high : t.vc.high = 0

theorem reported_dropped {k : StageId} {s : State} {i : Intent} {f : Stage → Stage} {new : StageState} {x : SwitchReport}
    (hx : x.stage = k) (ha : ChainApart k s) (hi : s.ix.own = some i) (hp : i.phase ≠ .committed) (hk : i.stage = k) :
    IntentEnded i s (report x (changeStage k new (s.modStage k f))) := by
  obtain ⟨hw, hvc⟩ := changeStage_withdraws (s := s.modStage k f) new hi hp hk
  have hkept := (changeStage_chainKept k new (s.modStage k f)).from (s := s) rfl
  obtain ⟨hix, hstate, hlow, hhigh⟩ := report_rests (x := x) (by rw [hx]; exact ha.kept hkept)
    ((congrArg (·.state) hvc).trans rfl) ((congrArg (·.own) hw.own).trans rfl)
  exact ⟨⟨hix.trans hw.own, (report_intentSlot x _).trans hw.slot⟩, hstate, hlow, hhigh⟩

end Sys2Proof.Machine
end

/-! ### What a position does (R41 to R44) -/

section
namespace Sys2Proof.Machine

theorem positionChange_opens {k : StageId} {s : State} (h : (s.stage k).state = .closed) :
    positionChange k .opened s = externalOpen k s := by
  simp only [positionChange, h]

theorem positionChange_closes {k : StageId} {s : State} (h : (s.stage k).state = .ready ∨ (s.stage k).state = .discharging) :
    positionChange k .closed s = externalClose k s := by
  rcases h with h | h <;> simp only [positionChange, h]

theorem positionChange_enforces {k : StageId} {s : State} (h : (s.stage k).state = .lockout) :
    positionChange k .closed s = enforceLockout k s := by
  simp only [positionChange, h]

theorem positionChange_completes {k : StageId} {s : State} {op : Operation} (h : (s.stage k).state = .closing)
    (hop : (s.stage k).op = some op) : positionChange k .closed s = completeClose k op true s := by
  simp only [positionChange, h, hop, if_true]

theorem positionChange_completesOpen {k : StageId} {s : State} {op : Operation} (h : (s.stage k).state = .opening)
    (hop : (s.stage k).op = some op) : positionChange k .opened s = completeOpen k op true s := by
  simp only [positionChange, h, hop, if_true]

/-- R192: a travel hands the position that changed, and no step becomes due. -/
theorem Travel.taken {k : StageId} {changed : BitVec 13} {p : Position} {s t : State} (h : Travel k changed p s)
    (hp : positionChange k p (takeInputs changed s) = t) (hc : ChainKept (takeInputs changed s) t) (hd : s.stepDue = false) :
    Machine.exec (.contactChange changed) s = .next t := by
  rw [h.exec, hp, hc.settled hd]

theorem ChainApart.inputs {k : StageId} {s : State} (h : ChainApart k s) (changed : BitVec 13) :
    ChainApart k (takeInputs changed s) := h.congr rfl

end Sys2Proof.Machine
end

section
namespace Sys2Proof.Proofs
open Machine

/-- Settles O28: the position handed is an external change, on the state with the inputs taken. -/
theorem externalChangesTaken : Obligations.ExternalChangesTaken := by
  refine ⟨fun k changed s h ha hst => ?_, fun k changed s h ha hd hst => ?_, fun k changed s h hdue hst => ?_,
    fun k changed s h ha hd hst => ?_⟩
  · have hm := externalOpen_moved (s := takeInputs changed s) hst
    have hc : ChainKept (takeInputs changed s) (externalOpen k (takeInputs changed s)) :=
      reported_chainKept (ha.inputs changed) _ .discharging rfl
    refine ⟨_, h.taken (positionChange_opens (s := takeInputs changed s) hst) hc ha.notDue, hm.stage, hm.others,
      (hm.frame.position k).trans h.arrives, hm.inService.trans (relist_leaves (new := .discharging) hst (by decide) k _),
      hm.ready.trans (relist_stays (new := .discharging) (hst.trans_ne (by decide)) (by decide) k _), report_outcomeSlot .., ?_, hm.frame,
      fun i hi hp hk => ?_⟩
    · rw [externalOpen, report_ur, changeStage_entry _ _ _ _ rfl]
      rw [show ((takeInputs changed s).stage k).state = .closed from hst]
      rfl
    · have hi' := reported_dropped (x := ⟨k, .opening, .executed, .extOpen, 0⟩) (new := .discharging)
        (f := fun r => { r with lastCause := .extOpen, discharge := s.fullDischarge k, disc := none }) rfl (ha.inputs changed) hi hp hk
      exact ⟨⟨hi'.own, hi'.slot⟩, hi'.state, hi'.low, hi'.high⟩
  · have hlive : positionChange k .closed (takeInputs changed s) = closeOutside k (takeInputs changed s) :=
      (positionChange_closes (s := takeInputs changed s) hst).trans (externalClose_live (s := takeInputs changed s) hd)
    have hm := closeOutside_moved k (takeInputs changed s)
    have hne : (s.stage k).state ≠ .closed := by rcases hst with h | h <;> exact h.trans_ne (by decide)
    have hentry : (closeOutside k (takeInputs changed s)).ur.entries.get k =
        (s.ur.entries.get k).enterService (s.cfg k).blanking := by
      rw [closeOutside, report_ur, changeStage_entry _ _ _ _ rfl]
      rw [State.addExternalDuty, modStage_stage]
      exact if_neg hne
    refine ⟨_, h.taken hlive (closeOutside_chainKept (ha.inputs changed)) ha.notDue, hm.stage, hm.others,
      hm.inService.trans (relist_joins hne rfl k _), hm.ready.trans (relist_left (new := .closed) (by decide) k _ _), closeOutside_outcome .., ?_, ?_,
      hm.frame, fun i hi hp hk => ?_⟩
    · rw [hentry]; rfl
    · rw [hentry]; rfl
    · have hi' := reported_dropped (s := (takeInputs changed s).addExternalDuty k)
        (x := ⟨k, .close, .executed, s.foundClosed k, 0⟩) (new := .closed)
        (f := fun r => { r with lastCause := s.foundClosed k, discharge := 0, disc := none }) rfl
        ((ha.inputs changed).congr rfl) hi hp hk
      exact ⟨⟨hi'.own, hi'.slot⟩, hi'.state, hi'.low, hi'.high⟩
  · obtain ⟨hm, hc⟩ := enforceLockout_moved (s := takeInputs changed s) hst h.arrives
    exact ⟨_, h.taken (positionChange_enforces (s := takeInputs changed s) hst) hc hdue, hm.stage, hm.others,
      hm.ready.trans (relist_stays (new := .opening) (hst.trans_ne (by decide)) (by decide) k _),
      hm.inService.trans (relist_stays (new := .opening) (hst.trans_ne (by decide)) (by decide) k _), hm.frame⟩
  · have hclose := positionChange_closes (s := takeInputs changed s) hst
    obtain ⟨hr, hout⟩ := externalClose_reopens (s := takeInputs changed s) h.configured hd (ha.inputs changed) h.arrives
    exact ⟨_, h.taken hclose hr.chain ha.notDue, hr.stage, hr.others, hr.inService, hr.ready.trans (relist_left (by decide) k _ _),
      hout, hr.frame⟩

end Sys2Proof.Proofs
end

section
namespace Sys2Proof.Proofs
open Machine

/-- Settles O29: the report of the operation, and the open that the dead line asks for. -/
theorem commandsComplete : Obligations.CommandsComplete := by
  refine ⟨fun k changed s op h ha hd hst hop hcut => ?_, fun k changed s op h ha hst hop => ?_,
    fun k changed s op h ha hd hst hop hcut => ?_⟩
  · have hm := closeReached_moved (s := takeInputs changed s) hst op
    have hlive : positionChange k .closed (takeInputs changed s) = closeReached k op (takeInputs changed s) := by
      rw [positionChange_completes (s := takeInputs changed s) hst hop, completeClose_uncut hcut, deadLineNotice_live]
      rw [hm.frame.control.deadLine]
      exact hd
    exact ⟨_, h.taken hlive (closeReached_chainKept (ha.inputs changed) op) ha.notDue, hm.stage, hm.others,
      hm.inService.trans (relist_joins (hst.trans_ne (by decide)) rfl k _),
      hm.ready.trans (relist_stays (new := .closed) (hst.trans_ne (by decide)) (by decide) k _), closeReached_outcome .., hm.frame⟩
  · have hm := completeOpen_moved (s := takeInputs changed s) hst op
    have hrest : (if (s.stage k).tripLatch then StageState.lockout else .discharging).resting = true := by split <;> rfl
    have hready : (if (s.stage k).tripLatch then StageState.lockout else .discharging) ≠ .ready := by split <;> decide
    have hclosed : (if (s.stage k).tripLatch then StageState.lockout else .discharging) ≠ .closed := by split <;> decide
    exact ⟨_, h.taken (positionChange_completesOpen (s := takeInputs changed s) hst hop)
      (reported_chainKept (ha.inputs changed) _ _ rfl) ha.notDue, hm.stage, hm.others,
      hm.inService.trans (relist_stays (hst.trans_ne (by decide)) hclosed k _),
      hm.ready.trans (relist_stays (hst.trans_ne (by decide)) hready k _), report_outcomeSlot .., hm.frame⟩
  · have hp : (takeInputs changed s).position k ≠ .opened := by rw [h.arrives]; decide
    have hm := closeReached_moved (s := takeInputs changed s) hst op
    obtain ⟨hr, hout⟩ := closeReached_reopens (s := takeInputs changed s) hst op (ha.inputs changed) hp .deadLine
    have hdead : positionChange k .closed (takeInputs changed s) =
        issueOpen k .deadLine 0 (closeReached k op (takeInputs changed s)) := by
      rw [positionChange_completes (s := takeInputs changed s) hst hop, completeClose_uncut hcut]
      refine deadLineNotice_opens ?_ ?_ (by rw [hm.stage]; rfl)
      · rw [hm.frame.configured]
        exact h.configured
      · rw [hm.frame.control.deadLine]
        exact hd
    exact ⟨_, h.taken hdead hr.chain ha.notDue, hr.stage, hr.others,
      hr.ready.trans (relist_stays (hst.trans_ne (by decide)) (by decide) k _), hr.inService, hout, hr.frame⟩

end Sys2Proof.Proofs
end

/-! ### The present position taken (R46) -/

section
namespace Sys2Proof.Machine

/-- A change of the record after the move, that leaves the state. -/
theorem Moved.modified {k : StageId} {r : Stage} {s t : State} (h : Moved k r s t) {g : Stage → Stage}
    (hg : (g r).state = r.state) : Moved k (g r) s (t.modStage k g) := by
  have hg' : (g (t.stage k)).state = (t.stage k).state := by rw [h.stage]; exact hg
  refine ⟨?_, fun j hj => (modStage_stage_ne t g hj).trans (h.others j hj), ?_, ?_, h.frame.trans (modStage_frame _ _ _ hg')⟩
  · rw [modStage_stage, h.stage]
  · rw [hg]
    exact h.ready
  · rw [hg]
    exact h.inService

theorem takePosition_opened {k : StageId} {s : State} (h : s.position k = .opened) : takePosition k s = s := by
  unfold takePosition
  dsimp only
  rw [h]
  split <;> rfl

theorem takePosition_travels {k : StageId} {s : State} (hr : (s.stage k).state.resting = true)
    (h : s.position k = .transit ∨ s.position k = .bad) : takePosition k s = s.startDiscrepancy k (s.stage k).state := by
  unfold takePosition
  dsimp only
  rw [if_pos hr]
  rcases h with h | h <;> rw [h]

theorem takePosition_closed {k : StageId} {s : State} (hr : (s.stage k).state = .ready ∨ (s.stage k).state = .discharging)
    (h : s.position k = .closed) : takePosition k s = externalClose k s := by
  unfold takePosition
  dsimp only
  rw [h]
  rcases hr with hr | hr <;> rw [hr] <;> rfl

theorem takePosition_locked {k : StageId} {s : State} (hr : (s.stage k).state = .lockout)
    (h : s.position k = .closed) : takePosition k s = enforceLockout k s := by
  unfold takePosition
  dsimp only
  rw [h, hr]
  rfl

/-- R45, R46: the discrepancy timer runs from the state that the stage has entered, unless it runs. -/
def Stage.discrepant (r : Stage) : Stage := { r with disc := if r.disc.isNone then some ⟨r.state, 0⟩ else r.disc }

theorem Moved.discrepant {k : StageId} {r : Stage} {s w : State} (h : Moved k r s w) (hr : r.state.resting = true)
    (hp : s.position k = .transit ∨ s.position k = .bad) : Moved k r.discrepant s (takePosition k w) := by
  rw [takePosition_travels (by rw [h.stage]; exact hr) (by rw [h.frame.position]; exact hp), h.stage]
  exact h.modified (g := fun x => { x with disc := if x.disc.isNone then some ⟨r.state, 0⟩ else x.disc }) rfl

theorem takePosition_unclosed {k : StageId} {s w : State} (h : SwitchFrame s w) (hp : s.position k ≠ .closed) :
    ChainKept w (takePosition k w) := by
  have hpw : w.position k = s.position k := h.position k
  unfold takePosition
  dsimp only
  split
  · split
    next hc => exact absurd (hpw.symm.trans hc) hp
    · exact .of_oi rfl
    · exact .of_oi rfl
    · exact .of_oi rfl
  · exact .of_oi rfl

/-- R42: the record `r` of a READY or DISCHARGING stage after it is found closed. -/
def State.foundOutside (s : State) (k : StageId) (r : Stage) : Stage :=
  { r with
    state := .closed, lastCause := if r.state = .ready then .extClose else .extCloseCharged, discharge := 0, disc := none, op := none
    duty := recordDuty (s.cfg k).dutyLimit s.seconds r.duty }

/-- R46, R42, R95: a stage that has entered READY or DISCHARGING with the record `r`, from a state of no list, and is found closed. -/
structure FoundClosed (k : StageId) (r : Stage) (s t : State) : Prop where
  others : OtherStages k s t
  ready : t.ready = if r.state = .ready then s.ready.filter (· ≠ k) else s.ready
  outcome : t.lc.outcomeSlot = some ⟨0, .executed, .close, k, if r.state = .ready then .extClose else .extCloseCharged, .none⟩
  frame : SwitchFrame s t
  chain : ChainKept s t
  live : s.vc.deadLine = false → t.stage k = s.foundOutside k r ∧ t.inService = s.inService ++ [k]
  dead : s.vc.deadLine = true → t.stage k = s.reopened k (s.foundOutside k r) .deadLine ∧
    t.inService = s.inService.filter (· ≠ k)

theorem Moved.found {k : StageId} {r : Stage} {s w : State} (h : Moved k r s w) (hc : ChainKept s w) (ha : ChainApart k s)
    (hk : s.configured k = true) (hr : r.state = .ready ∨ r.state = .discharging) (hready : (s.stage k).state ≠ .ready)
    (hclosed : (s.stage k).state ≠ .closed) (hp : s.position k = .closed) : FoundClosed k r s (takePosition k w) := by
  have hpw : w.position k = .closed := (h.frame.position k).trans hp
  have hrecord : w.closedOutside k = s.foundOutside k r := by
    rw [State.closedOutside, State.foundClosed, h.stage, h.frame.cfg, State.seconds, h.frame.ms]
    rfl
  have hcause : w.foundClosed k = if r.state = .ready then .extClose else .extCloseCharged := by
    rw [State.foundClosed, h.stage]
  have hne : r.state ≠ .closed := by rcases hr with h | h <;> exact h.trans_ne (by decide)
  have hlist : (if r.state = .ready then w.ready.filter (· ≠ k) else w.ready) =
      if r.state = .ready then s.ready.filter (· ≠ k) else s.ready := by
    rw [h.ready]
    by_cases hst : r.state = .ready
    · simp [relist, hst, hready]
    · simp [relist, hst, hready]
  have hin : w.inService = s.inService := h.inService.trans (relist_stays hclosed hne k _)
  rw [takePosition_closed (by rw [h.stage]; exact hr) hpw]
  have hd : w.vc.deadLine = s.vc.deadLine := h.frame.control.deadLine
  cases hdead : s.vc.deadLine with
  | false =>
    rw [externalClose_live (hd.trans hdead)]
    have hm := closeOutside_moved k w
    refine ⟨fun j hj => (hm.others j hj).trans (h.others j hj), ?_, ?_, h.frame.trans hm.frame,
      hc.trans (closeOutside_chainKept (ha.kept hc)), fun _ => ⟨hm.stage.trans hrecord, ?_⟩, fun hh => absurd (hdead.symm.trans hh) (by decide)⟩
    · rw [hm.ready, h.stage, ← hlist]
      exact relist_left (new := .closed) (by decide) k _ _
    · rw [closeOutside_outcome, State.foundReport, hcause]
    · rw [hm.inService, h.stage, hin]
      exact relist_joins hne rfl k _
  | true =>
    obtain ⟨hm, hout⟩ := externalClose_reopens (by rw [h.frame.configured]; exact hk) (hd.trans hdead) (ha.kept hc) hpw
    refine ⟨fun j hj => (hm.others j hj).trans (h.others j hj), ?_, ?_, h.frame.trans hm.frame, hc.trans hm.chain,
      fun hh => absurd (hdead.symm.trans hh) (by decide), fun _ => ⟨?_, ?_⟩⟩
    · rw [hm.ready, h.stage, ← hlist]
      exact relist_left (new := .closed) (by decide) k _ _
    · rw [hout, State.foundReport, hcause]
    · rw [hm.stage, State.reopened, hrecord, h.frame.cfg, h.frame.ms]
      rfl
    · rw [hm.inService, hin]

end Sys2Proof.Machine
end

/-! ### The ends of windows (R35, R36, R38) -/

section
namespace Sys2Proof.Machine

theorem modStage_stages (s : State) (k : StageId) (f : Stage → Stage) :
    s.modStage k f = { s with stages := s.stages.set k (f (s.stage k)) } := rfl

/-- R35: the record of a close whose window has run out, before its stage moves. -/
def State.closeLapsed (s : State) (k : StageId) (r : Stage) : Stage :=
  { r with closeOut := false, pulse := none, window := none, discharge := s.fullDischarge k }

theorem closeWindow_uncut {k : StageId} {s : State} {op : Operation} (h : (s.stage k).state = .closing)
    (hop : (s.stage k).op = some op) (hcut : op.cut = none) : closeWindow k s =
      report ⟨k, .close, .failed, op.cause, op.intent⟩ (changeStage k (.fault .failToClose) (s.modStage k (s.closeLapsed k))) := by
  unfold closeWindow
  dsimp only
  rw [h, hop]
  dsimp only
  rw [hcut]
  rfl

theorem closeWindow_cut {k : StageId} {s : State} {op : Operation} {c : Cause} (h : (s.stage k).state = .closing)
    (hop : (s.stage k).op = some op) (hcut : op.cut = some c) : closeWindow k s =
      takePosition k (report ⟨k, .close, .cut, c, op.intent⟩ (changeStage k .discharging
        (s.modStage k fun r => { s.closeLapsed k r with lastCause := c }))) := by
  unfold closeWindow
  dsimp only
  rw [h, hop]
  dsimp only
  rw [hcut]
  dsimp only
  rw [modStage_modStage]
  rfl

theorem openWindow_eq {k : StageId} {s : State} {op : Operation} (h : (s.stage k).state = .opening)
    (hop : (s.stage k).op = some op) : openWindow k s = report ⟨k, .opening, .failed, op.cause, op.intent⟩
      (changeStage k (.fault .failToOpen) (s.modStage k fun r => { r with openOut := false, pulse := none, window := none })) := by
  unfold openWindow
  dsimp only
  rw [h, hop]

/-- R201: a stage in FAULT or LOCKOUT keeps ALARM on, its report done. -/
theorem reported_alarm {k : StageId} {s : State} (hk : s.configured k = true) {new : StageState}
    (hn : new = .lockout ∨ new.isFault = true) (f : Stage → Stage) (x : SwitchReport) :
    (report x (changeStage k new (s.modStage k f))).alarm = true := by
  rw [report_alarm]
  exact changeStage_alarm k new (s.modStage k f) hk hn

theorem exec_window {s t u : State} (c : Instr) (h : exec c s = .next (settleDue t)) (ht : t = u) (hc : ChainKept s u)
    (hd : s.stepDue = false) : exec c s = .next u := by
  rw [h, ht, hc.settled hd]

end Sys2Proof.Machine
end

section
namespace Sys2Proof.Proofs
open Machine

/-- Settles O32: the FAULT that a window's expiry leaves, and its report. -/
theorem pulsesAndWindowsEnd : Obligations.PulsesAndWindowsEnd := by
  refine ⟨fun k s n h => ?_, fun k s op hk ha hst hop hcut => ?_, fun k s op hk ha hst hop => ?_⟩
  · have hpulse : (s.stage k).pulse.isSome = true := by rw [h]; rfl
    exact congrArg Host.Outcome.next ((if_pos hpulse).trans (modStage_stages ..))
  · have hm := (changeStage_modified (k := k) (s := s) (new := .fault .failToClose) (f := s.closeLapsed k) rfl).reported
      ⟨k, .close, .failed, op.cause, op.intent⟩
    have hexec := exec_window (.closeWindowExpiry k) rfl (closeWindow_uncut hst hop hcut) (reported_chainKept ha _ _ rfl) ha.notDue
    refine ⟨_, hexec, hm.stage.trans ?_, hm.others,
      hm.ready.trans (relist_stays (new := .fault .failToClose) (hst.trans_ne (by decide)) (by decide) k _),
      hm.inService.trans (relist_stays (new := .fault .failToClose) (hst.trans_ne (by decide)) (by decide) k _),
      reported_alarm hk (.inr rfl) _ _, report_outcomeSlot .., hm.frame⟩
    simp [Stage.moved, rediscrepancy, StageState.resting, State.closeLapsed, hst]
  · have hm := (changeStage_modified (k := k) (s := s) (new := .fault .failToOpen)
      (f := fun r => { r with openOut := false, pulse := none, window := none }) rfl).reported
      ⟨k, .opening, .failed, op.cause, op.intent⟩
    have hexec := exec_window (.openWindowExpiry k) rfl (openWindow_eq hst hop) (reported_chainKept ha _ _ rfl) ha.notDue
    refine ⟨_, hexec, hm.stage.trans ?_, by rw [hm.stage]; rfl, hm.others,
      hm.ready.trans (relist_stays (new := .fault .failToOpen) (hst.trans_ne (by decide)) (by decide) k _),
      hm.inService.trans (relist_stays (new := .fault .failToOpen) (hst.trans_ne (by decide)) (by decide) k _),
      reported_alarm hk (.inr rfl) _ _, report_outcomeSlot .., hm.frame⟩
    simp [Stage.moved, rediscrepancy, StageState.resting, hst]

end Sys2Proof.Proofs
end

/-! ### A dead line at a stage that is opened (R37, R95) -/

section
namespace Sys2Proof.Machine

theorem deadLineNotice_absorbs {k : StageId} {s : State} {op : Operation} (hk : s.configured k = true) (hd : s.vc.deadLine = true)
    (hst : (s.stage k).state = .opening) (hop : (s.stage k).op = some op) :
    deadLineNotice k s = absorbOpen k op .deadLine 0 s := by
  have hpass : openRefusal s k.num .deadLine = none :=
    (openRefusal_none_iff s k .deadLine hk).mpr ⟨fun h => by simp at h, .inr (.inr (.inl hst))⟩
  rw [deadLineNotice, if_pos hd, requestOpen, hpass]
  dsimp only
  rw [actOpen, hst, hop]

/-- R95: an open that follows a close under a declared dead line takes its cause. -/
theorem Reopened.dead {k : StageId} {r : Stage} {c : Cause} {s t : State} (h : Reopened k r c s t) (hk : s.configured k = true)
    (hd : s.vc.deadLine = true) : Reopened k r .deadLine s (deadLineNotice k t) ∧
      (deadLineNotice k t).lc.outcomeSlot = t.lc.outcomeSlot := by
  have hop : (t.stage k).op = some ⟨.opening, c, 0, s.ms, none⟩ := by rw [h.stage]; rfl
  have hst : (t.stage k).state = .opening := by rw [h.stage]; rfl
  rw [deadLineNotice_absorbs (by rw [h.frame.configured]; exact hk) (by rw [h.frame.control.deadLine]; exact hd) hst hop]
  have hframe : SwitchFrame t (absorbOpen k ⟨.opening, c, 0, s.ms, none⟩ .deadLine 0 t) := modStage_frame _ _ _ rfl
  refine ⟨⟨?_, fun j hj => (modStage_stage_ne t _ hj).trans (h.others j hj), h.ready, h.inService, h.frame.trans hframe,
    h.chain.trans (.of_oi rfl)⟩, rfl⟩
  rw [absorbOpen, modStage_stage, h.stage]
  rfl

end Sys2Proof.Machine
end

section
namespace Sys2Proof.Proofs
open Machine

/-- Settles O33: the cut cause at the window's expiry, and at the position that the close reaches. -/
theorem cutCloseEnds : Obligations.CutCloseEnds := by
  refine ⟨fun k s op c hk ha hst hop hcut hp => ?_, fun k changed s op c h ha hd hst hop hcut => ?_,
    fun k changed s op c h ha hd hst hop hcut => ?_⟩
  · have hm := ((changeStage_modified (k := k) (s := s) (new := .discharging)
      (f := fun r => { s.closeLapsed k r with lastCause := c }) rfl).reported ⟨k, .close, .cut, c, op.intent⟩).record
      (r' := { s.stage k with
         state := .discharging, lastCause := c, closeOut := false, pulse := none, window := none
         discharge := s.fullDischarge k, op := none, disc := none })
      (by simp [Stage.moved, rediscrepancy, StageState.resting, State.closeLapsed, hst])
    have hchain := reported_chainKept ha (fun r => { s.closeLapsed k r with lastCause := c }) .discharging
      (x := ⟨k, .close, .cut, c, op.intent⟩) rfl
    have hexec := exec_window (.closeWindowExpiry k) rfl (closeWindow_cut hst hop hcut)
      (hchain.trans (takePosition_unclosed hm.frame hp)) ha.notDue
    have hout := report_outcomeSlot ⟨k, .close, .cut, c, op.intent⟩
      (changeStage k .discharging (s.modStage k fun r => { s.closeLapsed k r with lastCause := c }))
    have hready := relist_stays (here := .ready) (new := .discharging) (hst.trans_ne (by decide)) (by decide) k s.ready
    have hin := relist_stays (here := .closed) (new := .discharging) (hst.trans_ne (by decide)) (by decide) k s.inService
    by_cases hopened : s.position k = .opened
    · rw [takePosition_opened (by rw [hm.frame.position]; exact hopened)] at hexec
      exact ⟨_, hexec, by rw [if_pos hopened]; exact hm.stage, hm.others, hm.ready.trans hready, hm.inService.trans hin, hout, hm.frame⟩
    · have hmoving : s.position k = .transit ∨ s.position k = .bad := by
        cases hpos : s.position k with
        | closed => exact absurd hpos hp
        | opened => exact absurd hpos hopened
        | transit => exact .inl rfl
        | bad => exact .inr rfl
      have hm' := hm.discrepant rfl hmoving
      refine ⟨_, hexec, by rw [if_neg hopened]; exact hm'.stage, hm'.others, hm'.ready.trans hready, hm'.inService.trans hin, ?_,
        hm'.frame⟩
      rw [takePosition_travels (by rw [hm.stage]; rfl) (by rw [hm.frame.position]; exact hmoving)]
      exact hout
  · have hp : (takeInputs changed s).position k ≠ .opened := by rw [h.arrives]; decide
    obtain ⟨hr, hout⟩ := closeReached_reopens (s := takeInputs changed s) hst op (ha.inputs changed) hp c
    have hlive : positionChange k .closed (takeInputs changed s) = issueOpen k c 0 (closeReached k op (takeInputs changed s)) := by
      rw [positionChange_completes (s := takeInputs changed s) hst hop, completeClose_cut hcut, deadLineNotice_live]
      rw [hr.frame.control.deadLine]
      exact hd
    exact ⟨_, h.taken hlive hr.chain ha.notDue, hr.stage, hr.others,
      hr.ready.trans (relist_stays (hst.trans_ne (by decide)) (by decide) k _), hr.inService, hout, hr.frame⟩
  · have hp : (takeInputs changed s).position k ≠ .opened := by rw [h.arrives]; decide
    obtain ⟨hr, hout⟩ := closeReached_reopens (s := takeInputs changed s) hst op (ha.inputs changed) hp c
    obtain ⟨hdead, hsame⟩ := hr.dead h.configured hd
    have hcuts := (positionChange_completes (s := takeInputs changed s) hst hop).trans (completeClose_cut hcut _)
    exact ⟨_, h.taken hcuts hdead.chain ha.notDue, hdead.stage, hdead.others,
      hdead.ready.trans (relist_stays (hst.trans_ne (by decide)) (by decide) k _), hdead.inService, hsame.trans hout, hdead.frame⟩

end Sys2Proof.Proofs
end

/-! ### The end of a discharge, and the minute pruning (R56, R62) -/

section
namespace Sys2Proof.Machine

/-- R56, R46: the stage that the end of its countdown leaves READY, before its position is taken. -/
def readied (k : StageId) (s : State) : State := changeStage k .ready (s.modStage k fun r => { r with discharge := 0 })

theorem endDischarge_readies {k : StageId} {s : State} (h : (s.stage k).state = .discharging) :
    endDischarge k s = takePosition k (readied k s) := by
  unfold endDischarge
  dsimp only
  rw [h]
  rfl

theorem endDischarge_zero {k : StageId} {s : State} (h : (s.stage k).state = .lockout ∨ (s.stage k).state.isFault = true) :
    endDischarge k s = s.modStage k fun r => { r with discharge := 0 } := by
  unfold endDischarge
  dsimp only
  split
  next hst => simp [hst, StageState.isFault] at h
  · rfl
  · rfl
  next hl hf =>
    rcases h with h | h
    · exact absurd h hl
    · cases hst : (s.stage k).state with
      | fault kind => exact absurd hst (hf kind)
      | _ => simp [hst, StageState.isFault] at h

theorem readied_moved {k : StageId} {s : State} (h : (s.stage k).state = .discharging) : Moved k { s.stage k with
    state := .ready, discharge := 0, op := none, disc := (s.stage k).disc.map fun d => { d with origin := .ready } } s (readied k s) :=
  (changeStage_modified (k := k) (s := s) (new := .ready) (f := fun r => { r with discharge := 0 }) rfl).record
    (by simp [Stage.moved, rediscrepancy, StageState.resting, h])

theorem readied_chainKept (k : StageId) (s : State) : ChainKept s (readied k s) :=
  (changeStage_chainKept k .ready (s.modStage k fun r => { r with discharge := 0 })).from rfl

/-- R62: a pruning drops the entries of the head that are older than the horizon; a list in order keeps none that is. -/
theorem pruneDuty_within {now : Nat} {l : List Nat} (h : l.Pairwise (· ≤ ·)) : ∀ x ∈ pruneDuty now l, now - x ≤ 86400 := by
  induction l with
  | nil => exact fun x hx => absurd hx List.not_mem_nil
  | cons a l ih =>
    obtain ⟨hle, hl⟩ := List.pairwise_cons.mp h
    unfold pruneDuty at ih ⊢
    by_cases ha : pastHorizon now a = true
    · rw [List.dropWhile_cons_of_pos ha]
      exact ih hl
    · rw [List.dropWhile_cons_of_neg ha]
      have hnear : now - a ≤ 86400 := by simpa [pastHorizon] using ha
      intro x hx
      rcases List.mem_cons.mp hx with rfl | hx
      · exact hnear
      · have := hle x hx
        omega

/-- R62: the prunings of different stages. -/
theorem foldl_prune (l : List StageId) (hl : l.Nodup) (s : State) :
    let t := l.foldl (fun acc k => acc.prune k) s
    t = { s with stages := t.stages } ∧ ∀ k, t.stage k =
      if k ∈ l then { s.stage k with duty := pruneDuty s.seconds (s.stage k).duty } else s.stage k := by
  induction l generalizing s with
  | nil => exact ⟨rfl, fun k => rfl⟩
  | cons a l ih =>
    obtain ⟨ha, hnd⟩ := List.nodup_cons.mp hl
    obtain ⟨hrest, hstage⟩ := ih hnd (s.prune a)
    refine ⟨hrest, fun k => (hstage k).trans ?_⟩
    by_cases hk : k = a
    · subst hk
      rw [if_neg ha, if_pos List.mem_cons_self, State.prune, modStage_stage]
    · have hsame : (s.prune a).stage k = s.stage k := modStage_stage_ne s _ hk
      rw [hsame]
      simp [List.mem_cons, hk]
      rfl

theorem stageIds_nodup (s : State) : s.stageIds.Nodup := List.Nodup.filter _ (by decide)

end Sys2Proof.Machine
end

section
namespace Sys2Proof.Proofs
open Machine

/-- Settles O34: the stage that becomes READY, and its position taken; the pruning of each stage. -/
theorem dischargesAndDutiesEnd : Obligations.DischargesAndDutiesEnd := by
  refine ⟨fun k s hdue hst hp => ?_, fun k s hdue hst hp => ?_, fun k s hk ha hst hp => ?_, fun k s hdue hst => ?_, fun s => ?_⟩
  · have hm := readied_moved hst
    have hexec := exec_window (.dischargeEnd k) rfl ((endDischarge_readies hst).trans
      (takePosition_opened (by rw [hm.frame.position]; exact hp))) (readied_chainKept k s) hdue
    exact ⟨_, hexec, hm.stage, hm.others, hm.ready.trans (relist_joins (hst.trans_ne (by decide)) rfl k _),
      hm.inService.trans (relist_stays (new := .ready) (hst.trans_ne (by decide)) (by decide) k _), hm.frame⟩
  · have hm := readied_moved hst
    have hm' := hm.discrepant rfl hp
    have hne : s.position k ≠ .closed := by rcases hp with h | h <;> rw [h] <;> decide
    have hexec := exec_window (.dischargeEnd k) rfl (endDischarge_readies hst)
      ((readied_chainKept k s).trans (takePosition_unclosed hm.frame hne)) hdue
    refine ⟨_, hexec, hm'.stage.trans ?_, hm'.others, hm'.ready.trans (relist_joins (hst.trans_ne (by decide)) rfl k _),
      hm'.inService.trans (relist_stays (new := .ready) (hst.trans_ne (by decide)) (by decide) k _), hm'.frame⟩
    cases hdisc : (s.stage k).disc <;> simp [Stage.discrepant]
  · have hf := (readied_moved hst).found (readied_chainKept k s) ha hk (.inl rfl) (hst.trans_ne (by decide))
      (hst.trans_ne (by decide)) hp
    have hexec := exec_window (.dischargeEnd k) rfl (endDischarge_readies hst) hf.chain ha.notDue
    exact ⟨_, hexec, hf.others, hf.ready, hf.outcome, hf.frame, fun hd => (hf.live hd).symm, fun hd => (hf.dead hd).symm⟩
  · exact (exec_window (.dischargeEnd k) rfl (endDischarge_zero hst) (.of_oi rfl) hdue)
  · obtain ⟨hsame, hstage⟩ := foldl_prune s.stageIds (stageIds_nodup s) s
    refine ⟨_, rfl, hsame, fun k hk => ?_, fun k hk => ⟨?_, fun hsorted => ?_⟩⟩
    · rw [hstage k, if_neg]
      simp [mem_stageIds, hk]
    · rw [hstage k, if_pos (by simp [mem_stageIds, hk])]
      rfl
    · rw [hstage k, if_pos (by simp [mem_stageIds, hk])]
      exact pruneDuty_within hsorted

end Sys2Proof.Proofs
end

/-! ### Changes that switch nothing (R28, R44, R45) -/

section
namespace Sys2Proof.Machine

/-- R45: a running discrepancy timer goes on. -/
def Stage.travels (r : Stage) : Stage :=
  { r with
    disc := match r.disc with
      | none => some ⟨r.state, 0⟩
      | some d => some d }

theorem startDiscrepancy_eq (k : StageId) (s : State) :
    s.startDiscrepancy k (s.stage k).state = { s with stages := s.stages.set k (s.stage k).travels } := by
  rw [State.startDiscrepancy, modStage_stages]
  unfold Stage.travels
  cases (s.stage k).disc <;> rfl

theorem positionChange_travels {k : StageId} {s : State} {p : Position} (hp : p = .transit ∨ p = .bad)
    (h : (s.stage k).state = .closed ∨ (s.stage k).state.resting = true) :
    positionChange k p s = s.startDiscrepancy k (s.stage k).state := by
  unfold positionChange
  dsimp only
  cases hst : (s.stage k).state with
  | closed | ready | discharging | lockout => rcases hp with rfl | rfl <;> rfl
  | _ => simp [hst, StageState.resting] at h

theorem positionChange_rests {k : StageId} {s : State} {p : Position}
    (h : (p = .closed ∧ (s.stage k).state = .closed) ∨ (p = .opened ∧ (s.stage k).state.resting = true)) :
    positionChange k p s = s.stopDiscrepancy k := by
  unfold positionChange
  dsimp only
  rcases h with ⟨rfl, hst⟩ | ⟨rfl, hr⟩
  · rw [hst]
  · cases hst : (s.stage k).state with
    | ready | discharging | lockout => rfl
    | _ => simp [hst, StageState.resting] at hr

theorem positionChange_nothing {k : StageId} {s : State} {p : Position}
    (h : (p ≠ .closed ∧ (s.stage k).state = .closing) ∨ (p ≠ .opened ∧ (s.stage k).state = .opening) ∨
      (s.stage k).state.isFault = true ∨ (s.stage k).state = .absent) : positionChange k p s = s := by
  unfold positionChange
  dsimp only
  cases hst : (s.stage k).state with
  | closing =>
    have hp : p ≠ .closed := by simpa [hst, StageState.isFault] using h
    dsimp only
    split
    · rw [if_neg hp]
    · rfl
  | opening =>
    have hp : p ≠ .opened := by simpa [hst, StageState.isFault] using h
    dsimp only
    split
    · rw [if_neg hp]
    · rfl
  | fault kind => rfl
  | absent => rfl
  | _ => simp [hst, StageState.isFault] at h

/-- R28: a change of inputs that moves no position hands none. -/
theorem handPositions_still {changed : BitVec 13} {s : State} (h : ∀ k, (takeInputs changed s).position k = s.position k) :
    handPositions s (takeInputs changed s) = takeInputs changed s := by
  unfold handPositions
  split
  · exact foldl_fixed _ _ fun k _ => by rw [handPosition, if_pos (h k)]
  · rfl

theorem exec_inputs {changed : BitVec 13} {s : State} (hw : s.watchingInputs = true)
    (hh : handPositions s (takeInputs changed s) = takeInputs changed s) (hb : changed.getLsbD blockBit = false)
    (hd : s.stepDue = false) : exec (.contactChange changed) s = .next (takeInputs changed s) := by
  show Host.Outcome.next (if s.watchingInputs then settleDue (contactChange changed s) else s) = _
  rw [if_pos hw, contactChange, hh, if_neg (by rw [hb]; decide)]
  exact congrArg Host.Outcome.next (settleDue_of_not_due (s := takeInputs changed s) hd)

/-- R27: the change set of one attention contact. -/
theorem attention_changes {s : State} {k : StageId} (hk : s.configured k = true) (j : StageId) (c : Contact) :
    s.changes (oneContact k .attention) j c = (decide (j = k) && c == .attention) := by
  unfold State.changes
  by_cases hj : j = k
  · subst hj
    rw [hk]
    cases j <;> cases c <;> decide
  · have hbit : (oneContact k .attention).getLsbD (inputBit j c) = false := by
      revert hj
      cases k <;> cases j <;> cases c <;> decide
    simp [hbit, hj]

theorem attention_block (k : StageId) : (oneContact k .attention).getLsbD blockBit = false := by cases k <;> decide

/-- R29: the position contacts stand as they stood. -/
theorem attention_contacts {s : State} {k : StageId} (hk : s.configured k = true) (j : StageId) :
    ((takeInputs (oneContact k .attention) s).inputs.get j).closed = (s.inputs.get j).closed ∧
      ((takeInputs (oneContact k .attention) s).inputs.get j).opened = (s.inputs.get j).opened := by
  simp [takeInputs, StageInputs.change, attention_changes hk, Debounced.flipIf]

theorem attention_flips {s : State} {k : StageId} (hk : s.configured k = true) (j : StageId) :
    ((takeInputs (oneContact k .attention) s).inputs.get j).attention =
      if j = k then ⟨!(s.inputs.get j).attention.active, 0⟩ else (s.inputs.get j).attention := by
  simp [takeInputs, StageInputs.change, attention_changes hk, Debounced.flipIf]

/-- R48: a stage in FAULT stands in no list. -/
theorem fault_unlisted (kind : FaultKind) : StageState.fault kind ≠ .ready ∧ StageState.fault kind ≠ .closed := ⟨nofun, nofun⟩

theorem unblocked_block {changed : BitVec 13} (h : changed.getLsbD blockBit = false) (s : State) :
    (takeInputs changed s).block = s.block := by
  simp [takeInputs, h, Debounced.flipIf]

end Sys2Proof.Machine
end

section
namespace Sys2Proof.Proofs
open Machine

/-- Settles O27: the position handed, by the state; the inputs that no position follows; the expiry. -/
theorem positionsInTravel : Obligations.PositionsInTravel := by
  refine ⟨fun k changed p s h hdue => ⟨fun j hj => ?_, h.block, fun hp hst => ?_, fun hst => ?_, fun hst => ?_⟩,
    fun k s hw hk hdue => ⟨?_, ?_, fun j hj => ?_, fun j => attention_contacts hk j, ?_⟩,
    fun changed s n hph hdue hb => ⟨?_, unblocked_block hb s, fun k => ⟨?_, fun hk => ⟨?_, ?_⟩⟩⟩,
    fun k s d hk hd hst => ?_⟩
  · rw [h.inputs, if_neg hj]
  · exact h.taken ((positionChange_travels (s := takeInputs changed s) hp hst).trans (startDiscrepancy_eq ..)) (.of_oi rfl) hdue
  · exact h.taken (positionChange_rests (s := takeInputs changed s) hst) (.of_oi rfl) hdue
  · exact h.taken (positionChange_nothing (s := takeInputs changed s) hst) (.of_oi rfl) hdue
  · refine exec_inputs hw (handPositions_still fun j => ?_) (attention_block k) hdue
    obtain ⟨hc, ho⟩ := attention_contacts hk j
    rw [State.position, StageInputs.position, hc, ho]
    rfl
  · rw [attention_flips hk, if_pos rfl]
  · rw [attention_flips hk, if_neg hj]
  · exact unblocked_block (attention_block k) s
  · have hw : s.watchingInputs = true := by simp [State.watchingInputs, hph]
    refine exec_inputs hw ?_ hb hdue
    exact if_neg (by simp [State.running, takeInputs, hph])
  · have hprobing : s.probing = true := by simp [State.probing, hph]
    simp only [takeInputs, Four.get_ofFn, StageInputs.change, hprobing, Bool.true_and, Bool.or_assoc]
  · simp [takeInputs, StageInputs.change, State.changes, hk, Debounced.flipIf, inputBit]
  · simp [takeInputs, StageInputs.change, State.changes, hk, Debounced.flipIf, inputBit]
  · have hm := changeStage_moved k (.fault (.discrepancy (d.origin == .closed))) s
    have hexec : exec (.discrepancyExpiry k) s = .next (changeStage k (.fault (.discrepancy (d.origin == .closed))) s) := by
      show Host.Outcome.next (expireDiscrepancy k s) = _
      unfold expireDiscrepancy
      dsimp only
      rw [hd]
      dsimp only
      rw [if_pos]
      simpa using hst
    refine ⟨_, hexec, hm.stage.trans ?_, ?_, hm.others, hm.ready.trans (relist_left (fault_unlisted _).1 k _ _),
      hm.inService.trans (relist_left (fault_unlisted _).2 k _ _), changeStage_alarm k _ s hk (.inr rfl), hm.frame⟩
    · simp [Stage.moved, rediscrepancy, StageState.resting]
    · rw [hm.stage]
      simp [Stage.connected, StageState.connected]

end Sys2Proof.Proofs
end

/-! ### The reset of a stage (R69, R70) -/

section
namespace Sys2Proof.Machine

/-- R70: the discharge that remains. -/
def State.resetLeft (s : State) (k : StageId) : Nat := if (s.stage k).connected then s.fullDischarge k else (s.stage k).discharge

/-- R70: the state that the stage enters. -/
def State.resetState (s : State) (k : StageId) : StageState := if s.resetLeft k = 0 then .ready else .discharging

/-- R70: the record before the position is taken. -/
def State.resetRecord (s : State) (k : StageId) : Stage :=
  { s.stage k with
    state := s.resetState k, tripLatch := false, discharge := s.resetLeft k, op := none
    disc := rediscrepancy (s.stage k).state (s.resetState k) (s.stage k).disc }

/-- R70: the stage as it enters its state. -/
def resetMove (k : StageId) (s : State) : State :=
  changeStage k (s.resetState k) (s.modStage k fun r => { r with tripLatch := false, discharge := s.resetLeft k })

theorem resetStage_eq (k : StageId) (s : State) : resetStage k s = takePosition k (resetMove k s) := rfl

theorem resetState_enters (s : State) (k : StageId) : s.resetState k = .ready ∨ s.resetState k = .discharging := by
  unfold State.resetState
  split
  · exact .inl rfl
  · exact .inr rfl

theorem resetState_ready (s : State) (k : StageId) : s.resetState k = .ready ↔ s.resetLeft k = 0 := by
  unfold State.resetState
  split <;> simp [*]

theorem resetState_resting (s : State) (k : StageId) : (s.resetState k).resting = true := by
  rcases resetState_enters s k with h | h <;> rw [h] <;> rfl

theorem resetMove_moved (k : StageId) (s : State) : Moved k (s.resetRecord k) s (resetMove k s) := by
  refine (changeStage_modified (k := k) (s := s) (new := s.resetState k)
    (f := fun r => { r with tripLatch := false, discharge := s.resetLeft k }) rfl).record ?_
  rcases resetState_enters s k with h | h <;> simp [Stage.moved, State.resetRecord, h]

theorem resetMove_chainKept (k : StageId) (s : State) : ChainKept s (resetMove k s) :=
  (changeStage_chainKept k (s.resetState k) (s.modStage k _)).from rfl

/-- R48: the lists of a stage that a reset moves from LOCKOUT or FAULT. -/
theorem resetMove_lists {k : StageId} {s t : State} {r : Stage} (h : Moved k r s t) (hr : r.state = s.resetState k)
    (hst : (s.stage k).state = .lockout ∨ (s.stage k).state.isFault = true) :
    t.ready = (if s.resetLeft k = 0 then s.ready ++ [k] else s.ready) ∧ t.inService = s.inService := by
  have hout : (s.stage k).state ≠ .ready ∧ (s.stage k).state ≠ .closed := by
    constructor <;> intro hh <;> simp [hh, StageState.isFault] at hst
  constructor
  · rw [h.ready, hr]
    by_cases hz : s.resetLeft k = 0
    · rw [if_pos hz]
      exact relist_joins hout.1 ((resetState_ready s k).mpr hz) k _
    · rw [if_neg hz]
      exact relist_stays hout.1 (fun hh => hz ((resetState_ready s k).mp hh)) k _
  · rw [h.inService, hr]
    refine relist_stays hout.2 ?_ k _
    rcases resetState_enters s k with hh | hh <;> rw [hh] <;> decide

/-- R45, R70: the discrepancy timer goes on from LOCKOUT, and starts from FAULT. -/
theorem resetRecord_discrepant (s : State) (k : StageId) (hst : (s.stage k).state = .lockout ∨ (s.stage k).state.isFault = true) :
    (s.resetRecord k).discrepant = { s.stage k with
      state := s.resetState k, tripLatch := false, discharge := s.resetLeft k, op := none
      disc := match (s.stage k).state, (s.stage k).disc with
        | .lockout, some d => some { d with origin := s.resetState k }
        | _, _ => some ⟨s.resetState k, 0⟩ } := by
  have hrest := resetState_resting s k
  unfold Stage.discrepant State.resetRecord rediscrepancy
  cases hl : (s.stage k).state with
  | lockout =>
    have hgoes : (StageState.lockout.resting && (s.resetState k).resting) = true := hrest
    cases hd : (s.stage k).disc <;> simp [hgoes]
  | fault kind => simp [StageState.resting]
  | _ => simp [hl, StageState.isFault] at hst

/-- R46: a position that is not CLOSED is taken at its own stage. -/
theorem Moved.taken_others {k : StageId} {r : Stage} {s w : State} (h : Moved k r s w) (hr : r.state.resting = true)
    (hp : s.position k ≠ .closed) : OtherStages k s (takePosition k w) := by
  cases hpos : s.position k with
  | closed => exact absurd hpos hp
  | opened =>
    rw [takePosition_opened (by rw [h.frame.position]; exact hpos)]
    exact h.others
  | transit => exact (h.discrepant hr (.inl hpos)).others
  | bad => exact (h.discrepant hr (.inr hpos)).others

/-- R69: the refusals. -/
theorem resetRefusal_eq {s : State} {n : Nat} {k : StageId} (hk : stageOf s.settings.stageCount n = some k) :
    (resetRefusal s n = some .absent ↔ (s.stage k).state = .absent) ∧
    (resetRefusal s n = some .already ↔ (s.stage k).state = .ready ∨ (s.stage k).state = .discharging ∨
      (s.stage k).state = .closing ∨ (s.stage k).state = .closed ∨ (s.stage k).state = .opening) ∧
    (resetRefusal s n = none ↔ (s.stage k).state = .lockout ∨ (s.stage k).state.isFault = true) := by
  unfold resetRefusal
  rw [hk]
  dsimp only
  cases hst : (s.stage k).state <;> simp [StageState.isFault]

theorem resetRefusal_badStage (s : State) (n : Nat) :
    resetRefusal s n = some .badStage ↔ ¬(1 ≤ n ∧ n ≤ 4 ∧ n ≤ s.settings.stageCount) := by
  rw [← stageOf_none]
  cases hk : stageOf s.settings.stageCount n with
  | none => simp [resetRefusal, hk]
  | some k =>
    unfold resetRefusal
    rw [hk]
    dsimp only
    cases (s.stage k).state <;> simp

theorem serveReset_done {o : Order} {s : State} {k : StageId} (hk : stageOf s.settings.stageCount o.stage = some k)
    (hst : (s.stage k).state = .lockout ∨ (s.stage k).state.isFault = true) :
    serveReset o s = doneOrder o 0 (resetStage k s) := by
  have hnone : resetRefusal s o.stage = none := (resetRefusal_eq hk).2.2.mpr hst
  unfold serveReset
  rw [hnone, hk]

theorem serveReset_refused {o : Order} {s : State} {r : Reason} (h : resetRefusal s o.stage = some r) :
    serveReset o s = refuseOrder o r s := by
  unfold serveReset
  rw [h]

/-- R189: the record of an order that is done, after a switching. -/
structure SwitchDone (f : Frame) (s v t : State) : Prop where
  oi : t.oi = { s.oi with last := ⟨f.sender, byteAt f.body 0, .done, 0⟩, mark := .none }
  stages : t.stages = v.stages
  ready : t.ready = v.ready
  inService : t.inService = v.inService
  triggered : Triggered s t
  frame : SwitchFrame (s.judged f) t

theorem doneOrder_switched {f : Frame} {s v : State} (h : SwitchFrame (s.notedPanel f) v) (hc : ChainKept (s.notedPanel f) v) :
    SwitchDone f s v (freeHead (doneOrder f.order 0 v)) := by
  have hw := writeOrder_effect f .done 0 .none h.toAnnounces.kept
  have hn := writeOrder_frame f.sender (byteAt f.body 0) .done 0 .none v
  exact ⟨hw.oi.trans (hc.written _ _), hn.stages, hn.ready, hn.inService, hw.triggered, (h.trans hn.toSwitchFrame).freed⟩

theorem exec_reset {s t : State} {f : Frame} (h : OrderTaken s 6 f) (ht : serveReset f.order (s.notedPanel f) = t)
    (hd : (freeHead t).stepDue = false) : exec .orderResetStage s = .next (freeHead t) := by
  show Host.Outcome.next (settleDue (takeOrder 6 serveReset s)) = _
  rw [takeOrder_taken h, ht, settleDue_of_not_due hd]

theorem SwitchDone.stage {f : Frame} {s v t : State} (h : SwitchDone f s v t) (k : StageId) : t.stage k = v.stage k := by
  unfold State.stage
  rw [h.stages]

end Sys2Proof.Machine
end

section
namespace Sys2Proof.Proofs
open Machine

/-- Settles O52: the stage moved, its position taken, and the record of the order written. -/
theorem stageResets : Obligations.StageResets := by
  refine ⟨fun s f k h hdue hk hst hp => ?_, fun s n => ⟨resetRefusal_badStage s n, fun k hk => resetRefusal_eq hk⟩,
    fun s f r h hdue hr => ?_, fun s f k h ha hk hst => ?_⟩
  · have hm := resetMove_moved k (s.notedPanel f)
    have hopened : resetStage k (s.notedPanel f) = resetMove k (s.notedPanel f) :=
      (resetStage_eq ..).trans (takePosition_opened (by rw [hm.frame.position]; exact hp))
    have hdone := doneOrder_switched hm.frame (resetMove_chainKept k (s.notedPanel f))
    have hexec := exec_reset h ((serveReset_done (s := s.notedPanel f) hk hst).trans (by rw [hopened]))
      ((stepDue_congr (by rw [hdone.oi])).trans hdue)
    obtain ⟨hready, hin⟩ := resetMove_lists (s := s.notedPanel f) hm rfl hst
    have hstage := (hdone.stage k).trans hm.stage
    exact ⟨_, hexec, by rw [hstage]; rfl, by rw [hstage]; rfl, by rw [hstage]; rfl, by rw [hstage]; rfl, by rw [hstage]; rfl,
      fun j hj => (hdone.stage j).trans (hm.others j hj), hdone.ready.trans hready, hdone.inService.trans hin, hdone.oi,
      hdone.triggered, hdone.frame⟩
  · have hw := refuseOrder_written f r s
    have hexec := exec_reset h (serveReset_refused (s := s.notedPanel f) hr) (hw.stepDue.trans hdue)
    exact ⟨_, hexec, hw.oi, hw.triggered, hw.frame, hw.vc, hw.ix, hw.ur⟩
  · have hm := resetMove_moved k (s.notedPanel f)
    have hc := resetMove_chainKept k (s.notedPanel f)
    obtain ⟨hnum, hle⟩ := stageOf_some hk
    have hconf : s.configured k = true := by simpa [State.configured, hnum] using hle
    have hout : (s.stage k).state ≠ .ready ∧ (s.stage k).state ≠ .closed := by
      constructor <;> intro hh <;> simp [hh, StageState.isFault] at hst
    have hfound (hp : s.position k = .closed) :
        FoundClosed k ((s.notedPanel f).resetRecord k) (s.notedPanel f) (resetStage k (s.notedPanel f)) :=
      hm.found (s := s.notedPanel f) hc (ha.congr rfl) hconf (resetState_enters _ k) hout.1 hout.2 hp
    have hchain : ChainKept (s.notedPanel f) (resetStage k (s.notedPanel f)) := by
      by_cases hp : s.position k = .closed
      · exact (hfound hp).chain
      · exact hc.trans (takePosition_unclosed hm.frame hp)
    have hframe : SwitchFrame (s.notedPanel f) (resetStage k (s.notedPanel f)) := hm.frame.trans (takePosition_frame k _)
    have hdone := doneOrder_switched hframe hchain
    have hexec := exec_reset h (serveReset_done (s := s.notedPanel f) hk hst) ((stepDue_congr (by rw [hdone.oi])).trans ha.notDue)
    have hothers : OtherStages k s (resetStage k (s.notedPanel f)) := by
      by_cases hp : s.position k = .closed
      · exact (hfound hp).others
      · exact hm.taken_others (resetState_resting _ k) hp
    refine ⟨_, hexec, fun j hj => (hdone.stage j).trans (hothers j hj), hdone.oi, hdone.triggered, hdone.frame, fun hp => ?_, fun hp => ?_⟩
    · have hm' := hm.discrepant (resetState_resting _ k) hp
      obtain ⟨hready, hin⟩ := resetMove_lists (s := s.notedPanel f) hm' rfl hst
      refine ⟨(hdone.stage k).trans (hm'.stage.trans ?_), hdone.ready.trans hready, hdone.inService.trans hin⟩
      exact resetRecord_discrepant s k hst
    · have hf := hfound hp
      refine ⟨hdone.ready.trans (hf.ready.trans ?_), fun hd => ?_, fun hd => ?_⟩
      · exact if_congr (resetState_ready _ k) rfl rfl
      · obtain ⟨hstage, hin⟩ := hf.live hd
        refine ⟨(hdone.stage k).trans (hstage.trans ?_), hdone.inService.trans hin⟩
        rw [State.foundOutside]
        exact congrArg (fun c => { s.stage k with
            state := .closed, tripLatch := false, discharge := 0, disc := none, op := none, lastCause := c
            duty := recordDuty (s.cfg k).dutyLimit s.seconds (s.stage k).duty }) (if_congr (resetState_ready s k) rfl rfl)
      · obtain ⟨hstage, hin⟩ := hf.dead hd
        exact ⟨(hdone.stage k).trans hstage, hdone.inService.trans hin⟩

end Sys2Proof.Proofs
end

/-! ### The own intent at an issued open (R164, R34, R83) -/

section
namespace Sys2Proof.Machine

/-- R194: the end of a chain is nothing to a controller that is not SUSPENDED, but for its causes. -/
theorem settleChain_unsuspended {x : SwitchReport} {s : State} (h : s.vc.state ≠ .suspended) :
    (settleChain x s).vc.state = s.vc.state ∧ (settleChain x s).vc.low = s.vc.low ∧ (settleChain x s).vc.high = s.vc.high := by
  have hended (c : Chain) (e : ChainEnd) : (endChain c e s).vc.state = s.vc.state ∧ (endChain c e s).vc.low = s.vc.low ∧
      (endChain c e s).vc.high = s.vc.high := by
    obtain ⟨-, hvc, -⟩ := writeOrder_keeps c.panel c.tag e.outcome (e.detail c.index) .none
      { s with oi := { s.oi with chain := none, stepIndex := c.index, stepReason := e.reason } }
    rw [endChain, removeCause_kept]
    · exact ⟨congrArg (·.state) hvc, congrArg (·.low) hvc, congrArg (·.high) hvc⟩
    · rintro ⟨-, hs⟩
      exact h ((congrArg (·.state) hvc).symm.trans hs)
  have hadvanced (c : Chain) : (advanceChain c s).vc = s.vc := by
    unfold advanceChain
    dsimp only
    split
    · exact (writeOrder_keeps ..).2.1
    · rfl
  unfold settleChain
  split
  · exact ⟨rfl, rfl, rfl⟩
  · split
    · exact ⟨rfl, rfl, rfl⟩
    · split
      · split
        · exact hended _ _
        · split
          · rw [hadvanced]
            exact ⟨rfl, rfl, rfl⟩
          · exact hended _ _
      · exact ⟨rfl, rfl, rfl⟩

/-- R83: the same of a report beside any chain. -/
theorem report_quiets {x : SwitchReport} {s : State} (hs : s.vc.state = .watching) (hown : s.ix.own = none) :
    (report x s).ix = s.ix ∧ (report x s).vc.state = .quiet ∧ (report x s).vc.low = 0 ∧ (report x s).vc.high = 0 := by
  have hx : (exchangeReport x s).vc.state = .watching := by rw [exchangeReport_vc, hs]
  have hvc : (settleOrder x (reported x s)).vc = (enterQuiet (exchangeReport x s)).vc := by
    rw [settleOrder_vc, reported, controllerReport_watching hx]
  obtain ⟨hstate, hlow, hhigh⟩ := settleChain_unsuspended (x := x) (s := settleOrder x (reported x s)) (by rw [hvc]; nofun)
  rw [hvc] at hstate hlow hhigh
  refine ⟨?_, hstate, hlow, hhigh⟩
  rw [report_ix]
  unfold exchangeReport
  rw [hown, placeOutcome, refreshAccess_ix]
  exact congrArg (fun o => { s.ix with own := o }) hown.symm

/-- R164: with no own intent a change of state leaves the slot of the INTENT. -/
theorem changeStage_slot {k : StageId} {s : State} (h : s.unproposed k) (new : StageState) :
    (changeStage k new s).lc.intentSlot = s.lc.intentSlot := by
  have hix : (relayNotice k (s.stage k).state new (trigger (s.moveStage k new))).ix = s.ix :=
    (relayNotice_ix ..).1.trans (trigger_ix _)
  have hslot : (relayNotice k (s.stage k).state new (trigger (s.moveStage k new))).lc.intentSlot = s.lc.intentSlot :=
    (relayNotice_slot ..).2.trans (trigger_intentSlot _)
  have hnotice : changeStage k new s = rejudge (relayNotice k (s.stage k).state new (trigger (s.moveStage k new))) :=
    congrArg rejudge (exchangeNotice_unproposed (by unfold State.unproposed; rw [hix]; exact h))
  rw [hnotice]
  exact hslot

/-- R164, R162: an open in flight withdraws an own intent on its stage. -/
theorem issueOpen_withdraws {k : StageId} {s : State} {i : Intent} (hi : s.ix.own = some i) (hp : i.phase ≠ .committed)
    (hk : i.stage = k) (cause : Cause) (n : Nat) (hpos : s.position k ≠ .opened) :
    Withdrawn i .stageChanged s (issueOpen k cause n s) ∧
      (issueOpen k cause n s).vc = { s.vc with state := .watching, unserved := .stageChanged } := by
  rw [issueOpen_flight hpos]
  obtain ⟨hw, hvc⟩ := changeStage_withdraws (s := s.modStage k (s.opensWith k cause n)) .opening hi hp hk
  exact ⟨⟨⟨hw.own, hw.slot⟩, hw.outcome⟩, hvc⟩

/-- R34, R83: where it completes at once, its report follows. -/
theorem issueOpen_ends {k : StageId} {s : State} {i : Intent} (hi : s.ix.own = some i) (hp : i.phase ≠ .committed)
    (hk : i.stage = k) (cause : Cause) (n : Nat) (hpos : s.position k = .opened) : IntentEnded i s (issueOpen k cause n s) := by
  have hb : (s.position k == .opened) = true := by rw [hpos]; rfl
  simp only [issueOpen, hb, if_true, completeOpen]
  generalize hf : (fun r : Stage => _) = f
  obtain ⟨hw, hvc⟩ := changeStage_withdraws (s := s.modStage k f) .opening hi hp hk
  have hnone : (changeStage k .opening (s.modStage k f)).ix.own = none := by rw [hw.own]
  generalize changeStage k .opening (s.modStage k f) = w at hw hvc hnone
  generalize (if (w.stage k).tripLatch = true then StageState.lockout else .discharging) = new
  generalize (fun r : Stage => _) = g
  have hun : (w.modStage k g).unproposed k := fun j hj => by cases hnone.symm.trans hj
  obtain ⟨cvc, cix⟩ := changeStage_control hun new
  have cslot := changeStage_slot hun new
  obtain ⟨hix, hstate, hlow, hhigh⟩ := report_quiets (x := ⟨k, .opening, .executed, cause, n⟩)
    (s := changeStage k new (w.modStage k g)) ((congrArg (·.state) cvc).trans (congrArg (·.state) hvc))
    ((congrArg (·.own) cix).trans hnone)
  exact ⟨⟨(hix.trans cix).trans hw.own, (report_intentSlot _ _).trans (cslot.trans hw.slot)⟩, hstate, hlow, hhigh⟩

end Sys2Proof.Machine
end

/-! ### The open conditions in order (R68) -/

section
namespace Sys2Proof.Machine

/-- R64, R68: one condition of a table, judged before the rest. -/
theorem firstHolds_ite {p q : Prop} [Decidable q] {x : Reason} {rest : List (Prop × Reason)} {r : Option Reason} (h : p ↔ q)
    (hrest : ¬q → FirstHolds rest r) : FirstHolds ((p, x) :: rest) (if q then some x else r) := by
  by_cases hq : q
  · exact .inl ⟨h.mpr hq, if_pos hq⟩
  · rw [if_neg hq]
    exact .inr ⟨fun hp => hq (h.mp hp), hrest hq⟩

theorem openRefusal_configured {s : State} {k : StageId} {cause : Cause} (h : openRefusal s k.num cause = none) :
    s.configured k = true := by
  by_contra hc
  have hnone : stageOf s.settings.stageCount k.num = none := by
    rw [stageOf_none]
    have : ¬k.num ≤ s.settings.stageCount := by simpa [State.configured] using hc
    omega
  rw [openRefusal, hnone] at h
  cases h

theorem automaticOpen_iff (cause : Cause) : cause.automaticOpen = true ↔ cause = .autoLower ∨ cause = .fastOv ∨ cause = .harmShed := by
  cases cause <;> simp [Cause.automaticOpen]

/-- R68: Table 3-4 in its order. -/
theorem openRefusal_first {s : State} {k : StageId} (cause : Cause) (hk : s.configured k = true) :
    FirstHolds
      [((cause = .autoLower ∨ cause = .fastOv ∨ cause = .harmShed) ∧ s.blockSet.get k = true, .blocked),
       ((cause = .autoLower ∨ cause = .fastOv ∨ cause = .harmShed) ∧ (s.stage k).state ≠ .closed, .stageChanged),
       ((s.stage k).state = .absent, .absent),
       ((s.stage k).state = .ready ∨ (s.stage k).state = .discharging ∨ (s.stage k).state = .lockout ∨
         ((s.stage k).state.isFault = true ∧ (s.stage k).connected = false), .already)]
      (openRefusal s k.num cause) := by
  have hle : k.num ≤ s.settings.stageCount := by simpa [State.configured] using hk
  rw [openRefusal, stageOf_num hle]
  refine firstHolds_ite ?_ fun _ => firstHolds_ite ?_ fun _ => firstHolds_ite Iff.rfl fun _ => firstHolds_ite ?_ fun _ => rfl
  · rw [← automaticOpen_iff, Bool.and_eq_true]
  · rw [← automaticOpen_iff, Bool.and_eq_true, bne_iff_ne]
  · cases (s.stage k).state <;> simp [StageState.resting, StageState.isFault]

theorem requestOpen_passes {s : State} {k : StageId} {cause : Cause} (h : openRefusal s k.num cause = none) (n : Nat) :
    requestOpen k cause n s = actOpen k cause n s := by
  unfold requestOpen
  rw [h]

/-- R31, R40: an open request that passes on a stage that rests CLOSED or in FAULT issues an open. -/
theorem requestOpen_issues {s : State} {k : StageId} {cause : Cause} (h : openRefusal s k.num cause = none)
    (hst : (s.stage k).state = .closed ∨ (s.stage k).state.isFault = true) (n : Nat) :
    requestOpen k cause n s = issueOpen k cause n s := by
  rw [requestOpen_passes h]
  refine actOpen_issues ?_ _ _
  rcases ((openRefusal_none_iff s k cause (openRefusal_configured h)).mp h).2 with hc | hc | hc | hc
  · exact .inl hc
  · simp [hc, StageState.isFault] at hst
  · simp [hc, StageState.isFault] at hst
  · exact .inr hc

/-- R37: the cut of a close in flight. -/
theorem cutClose_eq (k : StageId) (op : Operation) (cause : Cause) (n : Nat) (s : State) :
    cutClose k op cause n s = { s with stages := s.stages.set k ((s.stage k).cutBy op cause n) } := by
  have hrecord (r : Stage) : { r with
      closeOut := false, pulse := none
      op := some (takeNumber (if (op.cut.isNone || cause.protective) = true then { op with cut := some cause } else op) n)
      lastCause := if (op.cut.isNone || cause.protective) = true then cause else r.lastCause } = r.cutBy op cause n := by
    have htaken : (op.cut.isNone || cause.protective) = true ↔ op.cut = none ∨ cause.protective = true := by
      simp [Option.isNone_iff_eq_none]
    unfold Stage.cutBy takeNumber Operation.numbered
    dsimp only
    by_cases ht : op.cut = none ∨ cause.protective = true
    · rw [if_pos (htaken.mpr ht), if_pos ht, if_pos (htaken.mpr ht), if_pos ht]
      split <;> rfl
    · rw [if_neg (fun h => ht (htaken.mp h)), if_neg ht, if_neg (fun h => ht (htaken.mp h)), if_neg ht]
      split <;> rfl
  rw [cutClose, modStage_stages]
  exact congrArg (fun r => { s with stages := s.stages.set k r }) (hrecord (s.stage k))

/-- R39: the absorption by an open in flight. -/
theorem absorbOpen_eq (k : StageId) (op : Operation) (cause : Cause) (n : Nat) (s : State) :
    absorbOpen k op cause n s = { s with stages := s.stages.set k ((s.stage k).absorbs op cause n) } := by
  have hop : takeNumber (if cause.protective = true then { op with cause := cause } else op) n =
      { op.numbered n with cause := if cause.protective then cause else op.cause } := by
    unfold takeNumber Operation.numbered
    by_cases hn : n ≠ 0 ∧ op.intent = 0
    · cases cause.protective <;> simp [hn]
    · rw [if_neg hn]
      cases cause.protective <;> exact if_neg hn
  rw [absorbOpen, modStage_stages, hop]
  rfl

theorem actOpen_cuts {s : State} {k : StageId} {op : Operation} (h : (s.stage k).state = .closing)
    (hop : (s.stage k).op = some op) (cause : Cause) (n : Nat) :
    actOpen k cause n s = { s with stages := s.stages.set k ((s.stage k).cutBy op cause n) } := by
  rw [← cutClose_eq, actOpen, h, hop]

theorem actOpen_absorbs {s : State} {k : StageId} {op : Operation} (h : (s.stage k).state = .opening)
    (hop : (s.stage k).op = some op) (cause : Cause) (n : Nat) :
    actOpen k cause n s = { s with stages := s.stages.set k ((s.stage k).absorbs op cause n) } := by
  rw [← absorbOpen_eq, actOpen, h, hop]

end Sys2Proof.Machine
end

section
namespace Sys2Proof.Proofs
open Machine

/-- Settles O30: the table as its chain of tests, and the issue, the cut or the absorption by the state. -/
theorem openRequestsAct : Obligations.OpenRequestsAct := by
  refine ⟨fun s k cause hk => ⟨openRefusal_none_iff s k cause hk, openRefusal_first cause hk⟩, fun s m cause hm => ?_,
    fun s k cause n r h => ?_, fun s k cause n h hst => ?_, fun s k new i hi => ⟨fun hp hk => changeStage_withdraws new hi hp hk, fun hn => ?_⟩,
    fun s k cause n op h hop => ⟨fun hst => ?_, fun hst => ?_⟩⟩
  · rw [openRefusal, stageOf_none.mpr hm]
  · unfold requestOpen
    rw [h]
  · have ht := requestOpen_issues h hst n
    have htaken := issueOpen_taken (.refl s) hst cause n
    intro t
    have heq : t = issueOpen k cause n s := ht
    rw [heq]
    exact ⟨htaken.stage, htaken.others, htaken.inService, htaken.ready, htaken.frame, htaken.outcome, fun i hi hp hk =>
      ⟨issueOpen_withdraws hi hp hk cause n, fun hpos =>
        let h := issueOpen_ends hi hp hk cause n hpos
        ⟨h.toIntentDropped, h.state, h.low, h.high⟩⟩⟩
  · have hun : s.unproposed k := fun j hj hjk => by
      obtain rfl := Option.some.inj (hi.symm.trans hj)
      exact hn.resolve_right (fun h => h hjk)
    exact (changeStage_control hun new).symm
  · exact (requestOpen_passes h n).trans (actOpen_cuts hst hop cause n)
  · exact (requestOpen_passes h n).trans (actOpen_absorbs hst hop cause n)

end Sys2Proof.Proofs
end

/-! ### Trip requests (R47) -/

section
namespace Sys2Proof.Machine

/-- R47: the record of a stage whose trip latch is set. -/
def State.latched (s : State) (k : StageId) : Stage := { s.stage k with tripLatch := true }

/-- R47: the state whose latch is set, before the trip acts. -/
def State.tripped (s : State) (k : StageId) : State := { s with stages := s.stages.set k (s.latched k) }

theorem tripped_stage (s : State) (k : StageId) : (s.tripped k).stage k = s.latched k := by
  simp [State.tripped, State.stage]

theorem tripped_others (s : State) (k : StageId) : OtherStages k s (s.tripped k) :=
  modStage_others s k fun r => { r with tripLatch := true }

theorem tripped_frame (s : State) (k : StageId) : SwitchFrame s (s.tripped k) :=
  modStage_frame k (fun r => { r with tripLatch := true }) s rfl

theorem requestTrip_eq {s : State} {k : StageId} (cause : Cause) (hk : s.configured k = true) (h : (s.stage k).state ≠ .absent) :
    requestTrip k cause s = match openRefusal (s.tripped k) k.num cause with
      | some _ => tripRefused k cause (s.tripped k)
      | none => actOpen k cause 0 (s.tripped k) := by
  unfold requestTrip
  rw [if_neg (by simp [h, hk])]
  rfl

theorem requestTrip_nothing {s : State} {k : StageId} (cause : Cause) (h : s.configured k = false ∨ (s.stage k).state = .absent) :
    requestTrip k cause s = s := if_pos h.symm

/-- R68: a trip is no automatic open. -/
theorem openRefusal_trip {s : State} {k : StageId} {cause : Cause} (hc : cause = .unbTrip ∨ cause = .unbHighset)
    (hk : s.configured k = true) : openRefusal (s.tripped k) k.num cause = none ↔
      (s.stage k).state = .closed ∨ (s.stage k).state = .closing ∨ (s.stage k).state = .opening ∨
        ((s.stage k).state.isFault = true ∧ (s.stage k).connected = true) := by
  rw [openRefusal_none_iff (s.tripped k) k cause hk, tripped_stage]
  refine ⟨And.right, fun h => ⟨fun ha => ?_, h⟩⟩
  rcases hc with rfl | rfl <;> simp at ha

/-- R66: a trip that passes acts as an open. -/
theorem requestTrip_passes {s : State} {k : StageId} {cause : Cause} (hc : cause = .unbTrip ∨ cause = .unbHighset)
    (hk : s.configured k = true) (h : (s.stage k).state = .closed ∨ (s.stage k).state = .closing ∨ (s.stage k).state = .opening ∨
      ((s.stage k).state.isFault = true ∧ (s.stage k).connected = true)) :
    requestTrip k cause s = actOpen k cause 0 (s.tripped k) := by
  have hne : (s.stage k).state ≠ .absent := by
    intro ha
    simp [ha, StageState.isFault] at h
  rw [requestTrip_eq cause hk hne, (openRefusal_trip hc hk).mpr h]

theorem requestTrip_refused {s : State} {k : StageId} {cause : Cause} (hc : cause = .unbTrip ∨ cause = .unbHighset)
    (hk : s.configured k = true) (hne : (s.stage k).state ≠ .absent)
    (h : ¬((s.stage k).state = .closed ∨ (s.stage k).state = .closing ∨ (s.stage k).state = .opening ∨
      ((s.stage k).state.isFault = true ∧ (s.stage k).connected = true))) :
    requestTrip k cause s = tripRefused k cause (s.tripped k) := by
  rw [requestTrip_eq cause hk hne]
  cases hr : openRefusal (s.tripped k) k.num cause with
  | some r => rfl
  | none => exact absurd ((openRefusal_trip hc hk).mp hr) h

/-- R47: what every trip request leaves. -/
structure TripTaken (k : StageId) (s t : State) : Prop where
  latch : (t.stage k).tripLatch = true
  others : OtherStages k s t
  frame : SwitchFrame s t
  ready : t.ready = if (s.stage k).state = .ready then s.ready.filter (· ≠ k) else s.ready
  inService : t.inService = if (s.stage k).state = .closed then s.inService.filter (· ≠ k) else s.inService

/-- R47: a trip that changes the record of a stage alone. -/
theorem recorded_taken {k : StageId} {s : State} {r : Stage} (hl : r.tripLatch = true) (hr : r.state = (s.stage k).state)
    (hready : (s.stage k).state ≠ .ready) (hclosed : (s.stage k).state ≠ .closed) :
    TripTaken k s { s with stages := s.stages.set k r } := by
  have hm := modStage_moved (k := k) (s := s) (f := fun _ => r) hr hready hclosed
  refine ⟨?_, hm.others, hm.frame, by rw [if_neg hready], by rw [if_neg hclosed]⟩
  exact (congrArg Stage.tripLatch hm.stage).trans hl

/-- R31, R40: a trip that opens its stage. -/
theorem opened_taken {k : StageId} {s : State} {cause : Cause}
    (h : OpenTaken k cause 0 (s.tripped k) (issueOpen k cause 0 (s.tripped k)))
    (hst : (s.stage k).state = .closed ∨ (s.stage k).state.isFault = true) :
    TripTaken k s (issueOpen k cause 0 (s.tripped k)) := by
  have hready : (s.stage k).state ≠ .ready := by
    intro hl
    simp [hl, StageState.isFault] at hst
  refine ⟨?_, fun j hj => (h.others j hj).trans (tripped_others s k j hj), (tripped_frame s k).trans h.frame, ?_, ?_⟩
  · rw [h.stage, State.openTaken]
    split
    · exact congrArg Stage.tripLatch (tripped_stage s k)
    · exact congrArg Stage.tripLatch (tripped_stage s k)
  · rw [if_neg hready]
    exact h.ready
  · rw [h.inService, tripped_stage]
    rfl

/-- R47: a stage that a trip brings into LOCKOUT, before its position is taken. -/
def tripLocked (k : StageId) (cause : Cause) (s : State) : State :=
  changeStage k .lockout ((s.tripped k).modStage k fun r => { r with lastCause := cause })

theorem tripRefused_locks {k : StageId} {cause : Cause} {s : State}
    (h : (s.stage k).state = .ready ∨ (s.stage k).state = .discharging) :
    tripRefused k cause (s.tripped k) = takePosition k (tripLocked k cause s) := by
  unfold tripRefused
  rw [tripped_stage]
  rcases h with h | h <;> (rw [State.latched, h]; rfl)

theorem tripLocked_moved {k : StageId} {s : State} (h : (s.stage k).state = .ready ∨ (s.stage k).state = .discharging)
    (cause : Cause) : Moved k { s.latched k with
      state := .lockout, lastCause := cause, op := none, disc := (s.stage k).disc.map fun d => { d with origin := .lockout } } s
      (tripLocked k cause s) := by
  have hm := changeStage_modified (k := k) (s := s) (new := .lockout)
    (f := fun r => { r with tripLatch := true, lastCause := cause }) rfl
  have heq : tripLocked k cause s = changeStage k .lockout (s.modStage k fun r => { r with tripLatch := true, lastCause := cause }) :=
    congrArg (changeStage k .lockout) (modStage_modStage s k (fun r => { r with tripLatch := true }) _)
  rw [heq]
  refine hm.record ?_
  rcases h with h | h <;> simp [Stage.moved, rediscrepancy, StageState.resting, State.latched, h]

theorem Moved.tripTaken {k : StageId} {r : Stage} {s t : State} (h : Moved k r s t) (hl : r.tripLatch = true)
    (hnew : r.state ≠ .ready ∧ r.state ≠ .closed) : TripTaken k s t :=
  ⟨by rw [h.stage, hl], h.others, h.frame, h.ready.trans (relist_left hnew.1 k _ _), h.inService.trans (relist_left hnew.2 k _ _)⟩

/-- R43: a stage in LOCKOUT with the record `r` that is found closed. -/
theorem Moved.enforced {k : StageId} {r : Stage} {s w : State} (h : Moved k r s w) (hr : r.state = .lockout)
    (hp : s.position k = .closed) : Moved k { r with
      state := .opening, lastCause := .lockoutEnforce, discharge := 0, disc := none, openOut := true
      op := some ⟨.opening, .lockoutEnforce, 0, s.ms, none⟩
      pulse := some (s.cfg k).pulseWidth, window := some (s.cfg k).operateWindow
      duty := recordDuty (s.cfg k).dutyLimit s.seconds r.duty } s (takePosition k w) := by
  have hw : (w.stage k).state = .lockout := by rw [h.stage, hr]
  have hpw : w.position k = .closed := by rw [h.frame.position, hp]
  obtain ⟨hm, -⟩ := enforceLockout_moved hw hpw
  rw [takePosition_locked hw hpw]
  refine ⟨hm.stage.trans ?_, fun j hj => (hm.others j hj).trans (h.others j hj), ?_, ?_, h.frame.trans hm.frame⟩
  · rw [State.enforced, h.stage, h.frame.cfg, State.seconds, h.frame.ms]
    rfl
  · rw [hm.ready, h.ready, h.stage, hr]
    simp [relist, State.enforced]
  · rw [hm.inService, h.inService, h.stage, hr]
    simp [relist, State.enforced]

/-- R45: the discrepancy timer goes on into LOCKOUT, or starts from it. -/
theorem lockedRecord_discrepant (s : State) (k : StageId) (cause : Cause) : ({ s.latched k with
      state := .lockout, lastCause := cause, op := none
      disc := (s.stage k).disc.map fun d => { d with origin := .lockout } } : Stage).discrepant = { s.latched k with
    state := .lockout, lastCause := cause, op := none
    disc := match (s.stage k).disc with
      | some d => some { d with origin := .lockout }
      | none => some ⟨.lockout, 0⟩ } := by
  unfold Stage.discrepant
  cases (s.stage k).disc <;> rfl

/-- A record written over the latched one. -/
theorem tripped_set (s : State) (k : StageId) (r : Stage) :
    { s.tripped k with stages := (s.tripped k).stages.set k r } = { s with stages := s.stages.set k r } :=
  modStage_modStage s k (fun _ => s.latched k) (fun _ => r)

theorem requestTrip_opens {s : State} {k : StageId} {cause : Cause} (hc : cause = .unbTrip ∨ cause = .unbHighset)
    (hk : s.configured k = true)
    (h : (s.stage k).state = .closed ∨ ((s.stage k).state.isFault = true ∧ (s.stage k).connected = true)) :
    requestTrip k cause s = issueOpen k cause 0 (s.tripped k) := by
  rw [requestTrip_passes hc hk (h.imp_right fun hf => .inr (.inr hf))]
  refine actOpen_issues ?_ cause 0
  rw [tripped_stage]
  exact h

theorem requestTrip_openTaken {s : State} {k : StageId} {cause : Cause} (hc : cause = .unbTrip ∨ cause = .unbHighset)
    (hk : s.configured k = true)
    (h : (s.stage k).state = .closed ∨ ((s.stage k).state.isFault = true ∧ (s.stage k).connected = true)) :
    OpenTaken k cause 0 (s.tripped k) (requestTrip k cause s) := by
  rw [requestTrip_opens hc hk h]
  refine issueOpen_taken (.refl _) ?_ cause 0
  rw [tripped_stage]
  exact h.imp id And.left

theorem requestTrip_cuts {s : State} {k : StageId} {cause : Cause} (hc : cause = .unbTrip ∨ cause = .unbHighset)
    (hk : s.configured k = true) {op : Operation} (h : (s.stage k).state = .closing) (hop : (s.stage k).op = some op) :
    requestTrip k cause s = { s with stages := s.stages.set k ((s.latched k).cutBy op cause 0) } := by
  have hstage := tripped_stage s k
  rw [requestTrip_passes hc hk (.inr (.inl h)), actOpen_cuts (by rw [hstage]; exact h) (by rw [hstage]; exact hop), hstage]
  exact tripped_set ..

theorem requestTrip_absorbs {s : State} {k : StageId} {cause : Cause} (hc : cause = .unbTrip ∨ cause = .unbHighset)
    (hk : s.configured k = true) {op : Operation} (h : (s.stage k).state = .opening) (hop : (s.stage k).op = some op) :
    requestTrip k cause s = { s with stages := s.stages.set k ((s.latched k).absorbs op cause 0) } := by
  have hstage := tripped_stage s k
  rw [requestTrip_passes hc hk (.inr (.inr (.inl h))), actOpen_absorbs (by rw [hstage]; exact h) (by rw [hstage]; exact hop), hstage]
  exact tripped_set ..

/-- A stage in flight without an operation, which no run brings. -/
theorem requestTrip_idle {s : State} {k : StageId} {cause : Cause} (hc : cause = .unbTrip ∨ cause = .unbHighset)
    (hk : s.configured k = true) (h : (s.stage k).state = .closing ∨ (s.stage k).state = .opening) (hop : (s.stage k).op = none) :
    requestTrip k cause s = s.tripped k := by
  rw [requestTrip_passes hc hk (h.elim (fun h => .inr (.inl h)) fun h => .inr (.inr (.inl h))), actOpen, tripped_stage]
  have hnone : (s.latched k).op = none := hop
  rcases h with h | h <;> (rw [show (s.latched k).state = _ from h, hnone])

theorem requestTrip_fault {s : State} {k : StageId} {cause : Cause} (hc : cause = .unbTrip ∨ cause = .unbHighset)
    (hk : s.configured k = true) (h : (s.stage k).state.isFault = true) (hn : (s.stage k).connected = false) :
    requestTrip k cause s = { s with stages := s.stages.set k { s.latched k with lastCause := cause } } := by
  cases hst : (s.stage k).state with
  | fault kind =>
    have hlatched : ((s.tripped k).stage k).state = .fault kind := by rw [tripped_stage]; exact hst
    rw [requestTrip_refused hc hk (by rw [hst]; nofun) (by simp [hst, hn]), tripRefused, hlatched]
    exact modStage_modStage s k (fun r => { r with tripLatch := true }) fun r => { r with lastCause := cause }
  | _ => simp [hst, StageState.isFault] at h

theorem requestTrip_locked {s : State} {k : StageId} {cause : Cause} (hc : cause = .unbTrip ∨ cause = .unbHighset)
    (hk : s.configured k = true) (h : (s.stage k).state = .lockout) : requestTrip k cause s = s.tripped k := by
  rw [requestTrip_refused hc hk (by rw [h]; decide) (by simp [h, StageState.isFault]), tripRefused, tripped_stage, State.latched, h]

theorem requestTrip_locks {s : State} {k : StageId} {cause : Cause} (hc : cause = .unbTrip ∨ cause = .unbHighset)
    (hk : s.configured k = true) (h : (s.stage k).state = .ready ∨ (s.stage k).state = .discharging) :
    requestTrip k cause s = takePosition k (tripLocked k cause s) := by
  rw [requestTrip_refused hc hk, tripRefused_locks h]
  · rcases h with h | h <;> rw [h] <;> decide
  · rcases h with h | h <;> simp [h, StageState.isFault]

/-- R47: the latch is set, and the lists follow, in every state. -/
theorem requestTrip_taken {s : State} {k : StageId} {cause : Cause} (hc : cause = .unbTrip ∨ cause = .unbHighset)
    (hk : s.configured k = true) (hne : (s.stage k).state ≠ .absent) : TripTaken k s (requestTrip k cause s) := by
  have hflight (h : (s.stage k).state = .closing ∨ (s.stage k).state = .opening) : (s.stage k).state ≠ .ready ∧
      (s.stage k).state ≠ .closed := by rcases h with h | h <;> rw [h] <;> decide
  have hlocks (h : (s.stage k).state = .ready ∨ (s.stage k).state = .discharging) : TripTaken k s (requestTrip k cause s) := by
    have hm := tripLocked_moved h cause
    rw [requestTrip_locks hc hk h]
    cases hp : s.position k with
    | opened =>
      rw [takePosition_opened (by rw [hm.frame.position, hp])]
      exact hm.tripTaken rfl ⟨nofun, nofun⟩
    | closed => exact (hm.enforced rfl hp).tripTaken rfl ⟨nofun, nofun⟩
    | transit => exact (hm.discrepant rfl (.inl hp)).tripTaken rfl ⟨nofun, nofun⟩
    | bad => exact (hm.discrepant rfl (.inr hp)).tripTaken rfl ⟨nofun, nofun⟩
  cases hst : (s.stage k).state with
  | absent => exact absurd hst hne
  | ready => exact hlocks (.inl hst)
  | discharging => exact hlocks (.inr hst)
  | closed =>
    rw [requestTrip_opens hc hk (.inl hst)]
    exact opened_taken (requestTrip_opens hc hk (.inl hst) ▸ requestTrip_openTaken hc hk (.inl hst)) (.inl hst)
  | closing =>
    obtain ⟨hready, hclosed⟩ := hflight (.inl hst)
    cases hop : (s.stage k).op with
    | none => rw [requestTrip_idle hc hk (.inl hst) hop]; exact recorded_taken rfl rfl hready hclosed
    | some op => rw [requestTrip_cuts hc hk hst hop]; exact recorded_taken rfl rfl hready hclosed
  | opening =>
    obtain ⟨hready, hclosed⟩ := hflight (.inr hst)
    cases hop : (s.stage k).op with
    | none => rw [requestTrip_idle hc hk (.inr hst) hop]; exact recorded_taken rfl rfl hready hclosed
    | some op => rw [requestTrip_absorbs hc hk hst hop]; exact recorded_taken rfl rfl hready hclosed
  | lockout =>
    rw [requestTrip_locked hc hk hst]
    exact recorded_taken rfl rfl (by rw [hst]; decide) (by rw [hst]; decide)
  | fault kind =>
    have hfault : (s.stage k).state.isFault = true := by rw [hst]; rfl
    cases hconn : (s.stage k).connected with
    | true =>
      have hopens := requestTrip_opens hc hk (.inr ⟨hfault, hconn⟩)
      rw [hopens]
      exact opened_taken (hopens ▸ requestTrip_openTaken hc hk (.inr ⟨hfault, hconn⟩)) (.inr hfault)
    | false =>
      rw [requestTrip_fault hc hk hfault hconn]
      exact recorded_taken rfl rfl (by rw [hst]; nofun) (by rw [hst]; nofun)

end Sys2Proof.Machine
end

section
namespace Sys2Proof.Proofs
open Machine

/-- Settles O31: the act of the trip in each state, on the state whose latch is set. -/
theorem tripRequestsTaken : Obligations.TripRequestsTaken := by
  refine ⟨fun s k cause hc hk hne => ?_, fun s k cause h => requestTrip_nothing cause h⟩
  have ht := requestTrip_taken hc hk hne
  refine ⟨ht.latch, ht.others, ht.frame, ht.ready, ht.inService, fun h => (requestTrip_openTaken hc hk h).stage,
    fun op h hop => requestTrip_cuts hc hk h hop, fun op h hop => requestTrip_absorbs hc hk h hop,
    fun h hn => requestTrip_fault hc hk h hn, fun h => ?_, fun h => requestTrip_locked hc hk h,
    fun i hi hp hik => ⟨fun h => ?_, fun h hpos => ?_⟩⟩
  · have hm := tripLocked_moved h cause
    rw [requestTrip_locks hc hk h]
    cases hp : s.position k with
    | opened =>
      rw [takePosition_opened (by rw [hm.frame.position, hp])]
      exact hm.stage
    | closed => exact (hm.enforced rfl hp).stage
    | transit => exact (hm.discrepant rfl (.inl hp)).stage.trans (lockedRecord_discrepant s k cause)
    | bad => exact (hm.discrepant rfl (.inr hp)).stage.trans (lockedRecord_discrepant s k cause)
  · rw [requestTrip_opens hc hk (.inl h)]
    by_cases hpos : s.position k = .opened
    · have he := issueOpen_ends (s := s.tripped k) hi hp hik cause 0 hpos
      exact ⟨he.own, he.slot⟩
    · obtain ⟨hw, -⟩ := issueOpen_withdraws (s := s.tripped k) hi hp hik cause 0 hpos
      exact ⟨hw.own, hw.slot⟩
  · have hm := tripLocked_moved h cause
    rw [requestTrip_locks hc hk h, takePosition_opened (by rw [hm.frame.position, hpos])]
    obtain ⟨hw, hvc⟩ :=
      changeStage_withdraws (s := (s.tripped k).modStage k fun r => { r with lastCause := cause }) .lockout hi hp hik
    exact ⟨⟨⟨hw.own, hw.slot⟩, hw.outcome⟩, hvc⟩

end Sys2Proof.Proofs
end

/-! ### The close test in order (R64) -/

section
namespace Sys2Proof.Machine

/-- R64, R68: there is no reason exactly when no condition of the table holds. -/
theorem FirstHolds.none_iff : ∀ {l : List (Prop × Reason)} {r : Option Reason}, FirstHolds l r → (r = none ↔ ∀ p ∈ l, ¬p.1)
  | [], r, h => by
    have hnone : r = none := h
    simp [hnone]
  | (p, x) :: rest, r, h => by
    rcases h with ⟨hp, rfl⟩ | ⟨hp, h⟩
    · simp [hp]
    · simp [h.none_iff, hp]

theorem anyMoving_iff (s : State) : s.anyMoving = true ↔
    ∃ j, s.configured j = true ∧ ((s.stage j).state = .closing ∨ (s.stage j).state = .opening) := by
  simp [State.anyMoving, mem_stageIds]

/-- R109, with measurement VALID. -/
theorem guardVerdict_valid {s : State} (h : ¬s.port.lost = true) (k : StageId) : guardVerdict s k =
    if s.watchSet.any (fun x => inBand (s.candidateIndex k) x s.settings.guard) = true then some .resonance else none :=
  if_neg h

/-- R64: Table 3-2 from its condition 2 on, as a chain of tests. -/
theorem stageCloseTest_eq (s : State) (k : StageId) (cause : Cause) (n : Nat) : stageCloseTest s k cause n =
    if (s.stage k).state = .absent then some .absent
    else if (s.stage k).state = .closed ∨ (s.stage k).state = .closing ∨ (s.stage k).state = .opening then some .already
    else if (s.stage k).state = .discharging then some .discharging
    else if (s.stage k).state = .lockout ∨ (s.stage k).tripLatch = true then some .lockout
    else if (s.stage k).state.isFault = true then some .fault
    else if (s.inputs.get k).attention.active = true then some .attention
    else if (s.anyMoving || (s.vc.state == .executing && !s.ownCommitment cause n)) = true then some .busy
    else if s.vc.deadLine = true then some .deadLine
    else if s.port.lost = true then some .measLost
    else if (s.cfg k).dutyLimit ≤ (s.stage k).duty.length then some .duty
    else guardVerdict s k := by
  unfold stageCloseTest
  dsimp only
  cases hst : (s.stage k).state <;> simp [StageState.isFault]

/-- Conditions 2 to 6 of Table 3-2 leave READY alone. -/
theorem StageState.ready_iff (st : StageState) : st = .ready ↔
    ¬st = .absent ∧ ¬(st = .closed ∨ st = .closing ∨ st = .opening) ∧ ¬st = .discharging ∧ ¬st = .lockout ∧
      ¬st.isFault = true := by
  cases st <;> simp [StageState.isFault]

theorem ownCommitment_iff (s : State) (cause : Cause) (n : Nat) : s.ownCommitment cause n = true ↔ cause = .autoRaise ∧
    ((∃ i, s.ix.own = some i ∧ i.number = n) ∨ (s.ix.own = none ∧ s.ix.isolated = true ∧ n = 0)) := by
  unfold State.ownCommitment
  cases s.ix.own <;> simp

/-- R64: Table 3-2 in its order. -/
theorem closeTest_first {s : State} {k : StageId} (cause : Cause) (n : Nat) (hk : s.configured k = true) :
    FirstHolds
      [(cause = .autoRaise ∧ s.blockSet.get k = true, .blocked),
       (cause = .autoRaise ∧ s.harmAlarm = true, .harmBlock),
       ((s.stage k).state = .absent, .absent),
       ((s.stage k).state = .closed ∨ (s.stage k).state = .closing ∨ (s.stage k).state = .opening, .already),
       ((s.stage k).state = .discharging, .discharging),
       ((s.stage k).state = .lockout ∨ (s.stage k).tripLatch = true, .lockout),
       ((s.stage k).state.isFault = true, .fault),
       ((s.inputs.get k).attention.active = true, .attention),
       ((∃ j, s.configured j = true ∧ ((s.stage j).state = .closing ∨ (s.stage j).state = .opening)) ∨
         (s.vc.state = .executing ∧ s.ownCommitment cause n = false), .busy),
       (s.vc.deadLine = true, .deadLine),
       (s.port.lost = true, .measLost),
       ((s.cfg k).dutyLimit ≤ (s.stage k).duty.length, .duty),
       (∃ h ∈ s.watchSet, distance (s.candidateIndex k) (10 * h) ≤ s.settings.guard, .resonance)]
      (closeTest s k.num cause n) := by
  have hle : k.num ≤ s.settings.stageCount := by simpa [State.configured] using hk
  rw [closeTest, stageOf_num hle]
  dsimp only
  rw [stageCloseTest_eq]
  refine firstHolds_ite Iff.rfl fun _ => firstHolds_ite Iff.rfl fun _ => firstHolds_ite Iff.rfl fun _ =>
    firstHolds_ite Iff.rfl fun _ => firstHolds_ite Iff.rfl fun _ => firstHolds_ite Iff.rfl fun _ =>
    firstHolds_ite Iff.rfl fun _ => firstHolds_ite Iff.rfl fun _ => firstHolds_ite ?_ fun _ => firstHolds_ite Iff.rfl fun _ =>
    firstHolds_ite Iff.rfl fun hvalid => firstHolds_ite Iff.rfl fun _ => ?_
  · rw [Bool.or_eq_true, anyMoving_iff, Bool.and_eq_true, beq_iff_eq, Bool.not_eq_true']
  · rw [guardVerdict_valid hvalid]
    refine firstHolds_ite ?_ fun _ => rfl
    simp [inBand]

end Sys2Proof.Machine
end

section
namespace Sys2Proof.Proofs
open Machine

/-- Settles O18: a pass is the table without a condition that holds. -/
theorem closeTestPasses : Obligations.CloseTestPasses := by
  refine ⟨fun s k cause n hk => ⟨?_, closeTest_first cause n hk⟩, fun s m cause n hm => ?_, fun s cause n => ?_⟩
  · rw [(closeTest_first cause n hk).none_iff]
    simp only [List.forall_mem_cons, List.not_mem_nil, false_implies, implies_true, and_true]
    rw [StageState.ready_iff]
    constructor
    · rintro ⟨hblocked, hharm, habsent, halready, hdischarging, hlockout, hfault, hattention, hbusy, hdead, hlost, hduty, hguard⟩
      grind
    · rintro ⟨hraise, ⟨habsent, halready, hdischarging, hlockout, hfault⟩, hlatch, hattention, hmoving, hown, hdead, hlost, hduty, hguard⟩
      grind
  · rw [closeTest, stageOf_none.mpr hm]
    exact firstHolds_ite Iff.rfl fun _ => .inl ⟨trivial, rfl⟩
  · exact ownCommitment_iff s cause n

end Sys2Proof.Proofs
end

/-! ### The raise walk (R63, R85) -/

section
namespace Sys2Proof.Machine

theorem pruneDuty_pruneDuty (now : Nat) (l : List Nat) : pruneDuty now (pruneDuty now l) = pruneDuty now l :=
  List.dropWhile_idempotent _ l

theorem prune_stage (s : State) (k : StageId) :
    (s.prune k).stage k = { s.stage k with duty := pruneDuty s.seconds (s.stage k).duty } := modStage_stage ..

theorem prune_state (s : State) (k j : StageId) : ((s.prune k).stage j).state = (s.stage j).state :=
  modStage_states rfl j

/-- The inquiries of a walk about the stages of a list: each has been pruned, and nothing else is changed. -/
structure Walked (l : List StageId) (s w : State) : Prop where
  rest : w = { s with stages := w.stages }
  stage : ∀ j, w.stage j = if j ∈ l then (s.prune j).stage j else s.stage j

theorem walked_nil (s : State) : Walked [] s s := ⟨rfl, fun _ => rfl⟩

theorem Walked.seconds {l : List StageId} {s w : State} (h : Walked l s w) : w.seconds = s.seconds := by rw [h.rest]; rfl

theorem Walked.position {l : List StageId} {s w : State} (h : Walked l s w) (k : StageId) : w.position k = s.position k := by
  rw [h.rest]; rfl

/-- Pruning twice at one moment is pruning once. -/
theorem Walked.pruned {l : List StageId} {s w : State} (h : Walked l s w) (k : StageId) :
    (w.prune k).stage k = (s.prune k).stage k := by
  rw [prune_stage, h.seconds, h.stage]
  by_cases hk : k ∈ l
  · rw [if_pos hk, prune_stage]
    simp only [pruneDuty_pruneDuty]
  · rw [if_neg hk, prune_stage]

theorem Walked.prune {l : List StageId} {s w : State} (h : Walked l s w) (k : StageId) : Walked (l ++ [k]) s (w.prune k) := by
  refine ⟨congrArg (fun u : State => { u with stages := (w.prune k).stages }) h.rest, fun j => ?_⟩
  by_cases hj : j = k
  · subst hj
    rw [h.pruned, if_pos (List.mem_append_right l List.mem_cons_self)]
  · have hsame : (w.prune k).stage j = w.stage j := modStage_stage_ne w _ hj
    simp only [hsame, h.stage, List.mem_append, List.mem_singleton, hj, or_false]

/-- What the close test of one stage reads of the others: their states. -/
structure OtherDuty (k : StageId) (s w : State) : Prop where
  rest : w = { s with stages := w.stages }
  own : w.stage k = s.stage k
  state : ∀ j, (w.stage j).state = (s.stage j).state

theorem OtherDuty.figure {k : StageId} {s w : State} (h : OtherDuty k s w) : w.figure = s.figure := by
  have hids : w.stageIds = s.stageIds := by rw [h.rest]; rfl
  have hcfg (j : StageId) : w.cfg j = s.cfg j := by rw [h.rest]; rfl
  simp only [State.figure, Stage.connected, hids, hcfg, h.state]
  rfl

theorem OtherDuty.anyMoving {k : StageId} {s w : State} (h : OtherDuty k s w) : w.anyMoving = s.anyMoving := by
  have hids : w.stageIds = s.stageIds := by rw [h.rest]; rfl
  simp only [State.anyMoving, hids, h.state]

theorem OtherDuty.candidateIndex {k : StageId} {s w : State} (h : OtherDuty k s w) (j : StageId) :
    w.candidateIndex j = s.candidateIndex j := by
  have hq : w.qEff = s.qEff := by
    unfold State.qEff
    rw [h.figure, h.rest]
  unfold State.candidateIndex
  rw [hq, h.rest]
  rfl

theorem OtherDuty.closeTest {k : StageId} {s w : State} (h : OtherDuty k s w) (cause : Cause) (n : Nat) :
    closeTest w k.num cause n = closeTest s k.num cause n := by
  have hguard : guardVerdict w k = guardVerdict s k := by
    unfold guardVerdict
    rw [h.candidateIndex, h.rest]
    rfl
  have htest : stageCloseTest w k cause n = stageCloseTest s k cause n := by
    rw [stageCloseTest_eq, stageCloseTest_eq, h.own, h.anyMoving, hguard, h.rest]
    rfl
  have hjudge (j : StageId) (hj : stageOf s.settings.stageCount k.num = some j) : j = k := num_inj (stageOf_some hj).1
  have hcount : w.settings = s.settings := by rw [h.rest]
  have hblock : w.blockSet = s.blockSet := by rw [h.rest]
  have hharm : w.harmAlarm = s.harmAlarm := by rw [h.rest]; rfl
  simp only [Machine.closeTest, hcount, hblock, hharm]
  cases hst : stageOf s.settings.stageCount k.num with
  | none => rfl
  | some j =>
    obtain rfl := hjudge j hst
    simp only [htest]

theorem Walked.otherDuty {l : List StageId} {s w : State} (h : Walked l s w) (k : StageId) :
    OtherDuty k (s.prune k) (w.prune k) := by
  refine ⟨congrArg (fun u : State => { u with stages := (w.prune k).stages }) h.rest, h.pruned k, fun j => ?_⟩
  rw [prune_state, prune_state, h.stage]
  split
  · rw [prune_stage]
  · rfl

/-- R63: the verdict on a stage does not depend on the inquiries before. -/
theorem Walked.closeTest {l : List StageId} {s w : State} (h : Walked l s w) (k : StageId) (cause : Cause) (n : Nat) :
    closeTest (w.prune k) k.num cause n = closeTest (s.prune k) k.num cause n := (h.otherDuty k).closeTest cause n

/-- R85: a stage of the walk that is refused. -/
theorem raiseWalk_refused {k : StageId} {s : State} {r : Reason} (h : closeTest (s.prune k) k.num .autoRaise 0 = some r)
    (rest : List StageId) : raiseWalk (k :: rest) s =
      ((raiseWalk rest (s.prune k)).1, (raiseWalk rest (s.prune k)).2.1, some r) := by
  simp only [raiseWalk, h]

theorem raiseWalk_passed {k : StageId} {s : State} (h : closeTest (s.prune k) k.num .autoRaise 0 = none)
    (rest : List StageId) : raiseWalk (k :: rest) s = (s.prune k, some k, none) := by
  simp only [raiseWalk, h]

/-- R85: the walk ends at the first stage that passes. -/
theorem raiseWalk_passes {s : State} {k : StageId} (rest : List StageId) (hk : closeTest (s.prune k) k.num .autoRaise 0 = none) :
    ∀ {pre done : List StageId} {w : State}, Walked done s w →
      (∀ j ∈ pre, closeTest (s.prune j) j.num .autoRaise 0 ≠ none) →
      ∃ v, Walked (done ++ pre) s v ∧ (raiseWalk (pre ++ k :: rest) w).1 = v.prune k ∧
        (raiseWalk (pre ++ k :: rest) w).2.1 = some k
  | [], done, w, hw, _ => by
    refine ⟨w, by rwa [List.append_nil], ?_⟩
    rw [List.nil_append, raiseWalk_passed ((hw.closeTest k _ _).trans hk)]
    exact ⟨rfl, rfl⟩
  | a :: pre, done, w, hw, hpre => by
    obtain ⟨r, hr⟩ := Option.ne_none_iff_exists'.mp (hpre a List.mem_cons_self)
    obtain ⟨v, hv, h1, h2⟩ := raiseWalk_passes rest hk (hw.prune a) fun j hj => hpre j (List.mem_cons_of_mem a hj)
    refine ⟨v, by simpa using hv, ?_⟩
    rw [List.cons_append, raiseWalk_refused ((hw.closeTest a _ _).trans hr)]
    exact ⟨h1, h2⟩

/-- R85: a walk without a stage that passes. -/
theorem raiseWalk_refuses {s : State} : ∀ {l done : List StageId} {w : State}, Walked done s w →
    (∀ j ∈ l, closeTest (s.prune j) j.num .autoRaise 0 ≠ none) →
    Walked (done ++ l) s (raiseWalk l w).1 ∧ (raiseWalk l w).2.1 = none
  | [], done, w, hw, _ => ⟨by rwa [List.append_nil], rfl⟩
  | a :: l, done, w, hw, hl => by
    obtain ⟨r, hr⟩ := Option.ne_none_iff_exists'.mp (hl a List.mem_cons_self)
    obtain ⟨h1, h2⟩ := raiseWalk_refuses (hw.prune a) fun j hj => hl j (List.mem_cons_of_mem a hj)
    rw [raiseWalk_refused ((hw.closeTest a _ _).trans hr)]
    exact ⟨by simpa using h1, h2⟩

end Sys2Proof.Machine
end

/-! ### The demand (R84 to R88, R154) -/

section
namespace Sys2Proof.Machine

theorem demand_raises {s : State} (h : s.settings.threshold ≤ s.vc.low) (hp : s.peerIntent .close = false)
    (hh : s.harmAlarm = false) : demand s = demandRaise s := by
  simp [demand, h, hp, hh]

theorem demand_lowers {s : State} (hl : s.vc.low < s.settings.threshold) (hh : s.settings.threshold ≤ s.vc.high)
    (hp : s.peerIntent .opening = false) : demand s = demandLower s := by
  simp [demand, Nat.not_le.mpr hl, hh, hp]

/-- R85, R88: a walk that finds its stage. -/
theorem demandRaise_found {s w : State} {k : StageId} (h1 : (raiseWalk (unblocked s s.ready) s).1 = w)
    (h2 : (raiseWalk (unblocked s s.ready) s).2.1 = some k) : demandRaise s =
      if s.ix.isolated then issueClose k .autoRaise 0 (enterExecuting k .close 0 w) else propose .close k w := by
  unfold demandRaise
  revert h1 h2
  generalize raiseWalk (unblocked s s.ready) s = x
  obtain ⟨a, b, c⟩ := x
  rintro rfl rfl
  rfl

/-- R154, R155: what a proposal sets. -/
structure Proposed (dir : Direction) (k : StageId) (s t : State) : Prop where
  vc : t.vc = { s.vc with state := .proposing, unserved := .none }
  ix : t.ix = { s.ix with
    own := some ⟨s.ix.nextNumber, dir, k, (s.cfg k).size, s.settings.holdOff, .queued false 0⟩
    nextNumber := if s.ix.nextNumber < 255 then s.ix.nextNumber + 1 else 1 }
  slot : t.lc.intentSlot = some ⟨s.ix.nextNumber, dir, k, (s.cfg k).size, s.settings.position, s.settings.holdOff⟩
  stages : t.stages = s.stages
  ready : t.ready = s.ready
  inService : t.inService = s.inService

theorem propose_proposed (dir : Direction) (k : StageId) (s : State) : Proposed dir k s (propose dir k s) := by
  obtain ⟨a, l, heq⟩ := refreshAccess_only { s with
    ix := { s.ix with
      own := some ⟨s.ix.nextNumber, dir, k, (s.cfg k).size, s.settings.holdOff, .queued false 0⟩
      nextNumber := nextIntent s.ix.nextNumber }
    vc := { s.vc with state := .proposing, unserved := .none }
    lc := { s.lc with
      intentSlot := some ⟨s.ix.nextNumber, dir, k, (s.cfg k).size, s.settings.position, s.settings.holdOff⟩ } }
  have hplaced : propose dir k s = _ := heq
  rw [hplaced]
  exact ⟨rfl, rfl, rfl, rfl, rfl, rfl⟩

end Sys2Proof.Machine
end

section
namespace Sys2Proof.Machine

/-- R85: a raise walk from the start whose stages before the `k` are refused, and which `k` passes. -/
theorem raiseWalk_chooses {s : State} {pre rest : List StageId} {k : StageId} (hl : unblocked s s.ready = pre ++ k :: rest)
    (hpre : ∀ j ∈ pre, closeTest (s.prune j) j.num .autoRaise 0 ≠ none) (hk : closeTest (s.prune k) k.num .autoRaise 0 = none) :
    ∃ v, Walked pre s v ∧ k ∉ pre ∧ demandRaise s =
      if s.ix.isolated then issueClose k .autoRaise 0 (enterExecuting k .close 0 (v.prune k)) else propose .close k (v.prune k) := by
  obtain ⟨v, hv, h1, h2⟩ := raiseWalk_passes rest hk (walked_nil s) hpre
  rw [← hl] at h1 h2
  exact ⟨v, hv, fun hmem => hpre k hmem hk, demandRaise_found h1 h2⟩

/-- R30, R59: the record of a close issued at the end of a walk. -/
theorem Walked.closeIssued {l : List StageId} {s w : State} (h : Walked l s w) {k : StageId} (hk : k ∉ l) (cause : Cause) (n : Nat) :
    w.closeIssued k cause n = s.closeIssued k cause n := by
  unfold State.closeIssued
  rw [h.stage, if_neg hk, h.seconds, h.rest]
  rfl

/-- R88: the controller's own close, of an ISOLATED station, on the state a walk leaves. -/
theorem Walked.raises {l : List StageId} {s w : State} (h : Walked l s w) {k : StageId} (hk : k ∉ l)
    (htest : Machine.closeTest (s.prune k) k.num .autoRaise 0 = none) :
    OtherStages k w (issueClose k .autoRaise 0 (enterExecuting k .close 0 (w.prune k))) ∧
    (s.ix.own = none → s.position k ≠ .closed →
      let t := issueClose k .autoRaise 0 (enterExecuting k .close 0 (w.prune k))
      t.vc = { s.vc with state := .executing, unserved := .none, ownOp := some ⟨k, .close, 0⟩ } ∧ t.ix = s.ix ∧
      t.stage k = s.closeIssued k .autoRaise 0 ∧ t.ready = s.ready.filter (· ≠ k)) := by
  have hframe := enterExecuting_frame k .close 0 (w.prune k)
  obtain ⟨j, hj, hpass⟩ := closeTest_none htest
  obtain rfl : j = k := num_inj (stageOf_some hj).1
  obtain ⟨hready, hlive⟩ := closeTest_pruned (s := s) hj htest
  have hwready : (w.stage j).state = .ready := by rw [h.stage, if_neg hk, hready]
  have hixs : (enterExecuting j .close 0 (w.prune j)).ix = s.ix := by rw [h.rest]; rfl
  have hvcs : (enterExecuting j .close 0 (w.prune j)).vc =
      { s.vc with state := .executing, unserved := .none, ownOp := some ⟨j, .close, 0⟩ } := by rw [h.rest]; rfl
  refine ⟨?_, fun hown hp => ?_⟩
  · by_cases hp : w.position j = .closed
    · have hthere := (issueClose_there (k := j) (s := enterExecuting j .close 0 (w.prune j))
        (((hframe.stage j).symm ▸ prune_state w j j).trans hwready) ((hframe.position j).trans hp)
        (by rw [hvcs]; exact hlive) .autoRaise 0).1
      exact fun i hi => (hthere.others i hi).trans ((hframe.stage i).trans (modStage_stage_ne w _ hi))
    · exact (issueClose_issued hframe hwready hp .autoRaise 0).others
  · have hwp : w.position j ≠ .closed := by rwa [h.position]
    have hissued := issueClose_issued hframe hwready hwp .autoRaise 0
    have hcontrol := issueClose_flight_control (s := enterExecuting j .close 0 (w.prune j)) (k := j)
      (by rw [hframe.position]; exact hwp) (by intro i hi; rw [hixs, hown] at hi; cases hi) .autoRaise 0
    refine ⟨hcontrol.1.trans hvcs, hcontrol.2.trans hixs, hissued.stage.trans (h.closeIssued hk ..), ?_⟩
    have hlist : w.ready = s.ready := by rw [h.rest]
    rw [hissued.ready, hlist]

/-- R86, R154: the candidate of a lower is proposed. -/
theorem demandLower_proposes {s : State} {k : StageId} {rest : List StageId} (hl : unblocked s s.inService = k :: rest)
    (hiso : s.ix.isolated = false) : demandLower s = propose .opening k s := by
  simp [demandLower, hl, hiso]

/-- R86, R88: of an ISOLATED station it is opened at once. -/
theorem demandLower_opens {s : State} {k : StageId} {rest : List StageId} (hl : unblocked s s.inService = k :: rest)
    (hiso : s.ix.isolated = true) (h : openRefusal s k.num .autoLower = none) :
    demandLower s = actOpen k .autoLower 0 (enterExecuting k .opening 0 s) := by
  simp [demandLower, hl, hiso, h]

/-- R87: or its refusal is the reason. -/
theorem demandLower_refused {s : State} {k : StageId} {rest : List StageId} {r : Reason} (hl : unblocked s s.inService = k :: rest)
    (hiso : s.ix.isolated = true) (h : openRefusal s k.num .autoLower = some r) :
    demandLower s = { s with vc := { s.vc with unserved := r } } := by
  simp [demandLower, hl, hiso, h]

/-- R88: the controller's own open, of an ISOLATED station. -/
theorem executing_opens {s : State} {k : StageId} (h : openRefusal s k.num .autoLower = none) :
    actOpen k .autoLower 0 (enterExecuting k .opening 0 s) = issueOpen k .autoLower 0 (enterExecuting k .opening 0 s) :=
  actOpen_issues (s := enterExecuting k .opening 0 s) (.inl (openRefusal_lower h)) _ _

end Sys2Proof.Machine
end

section
namespace Sys2Proof.Proofs
open Machine

/-- Settles O16: the walk and its choice, then the proposal or the own operation. -/
theorem demandProposes : Obligations.DemandProposes := by
  refine ⟨fun s pre k rest hlow hpeer hharm hl hpre hk => ?_, fun s k rest hlow hhigh hpeer hl => ?_⟩
  · obtain ⟨v, hv, hkpre, heq⟩ := raiseWalk_chooses hl hpre hk
    have hdemand := (demand_raises hlow hpeer hharm).trans heq
    have hframe := demand_frame s
    have hp := propose_proposed .close k (v.prune k)
    obtain ⟨hothers, hissued⟩ := hv.raises hkpre hk
    have hvc : (v.prune k).vc = s.vc := by rw [hv.rest]; rfl
    have hix : (v.prune k).ix = s.ix := by rw [hv.rest]; rfl
    have hsettings : (v.prune k).settings = s.settings := by rw [hv.rest]; rfl
    have hready : (v.prune k).ready = s.ready := by rw [hv.rest]; rfl
    refine ⟨hframe, fun j hj => ?_, fun hiso => ?_, fun hiso hown hpos => ?_⟩
    · rw [hdemand, ← hv.stage]
      split
      · exact hothers j hj
      · exact (congrArg (Four.get · j) hp.stages).trans (modStage_stage_ne v _ hj)
    · rw [hdemand, if_neg (by rw [hiso]; decide)]
      refine ⟨by rw [hp.vc, hvc], ?_, ?_, ?_, hp.ready.trans hready⟩
      · rw [hp.ix, hix, State.cfg, hsettings]
        rfl
      · rw [hp.slot, hix, State.cfg, hsettings]
        rfl
      · exact (congrArg (Four.get · k) hp.stages).trans (hv.pruned k)
    · rw [hdemand, if_pos hiso]
      exact hissued hown hpos
  · have hframe := demand_frame s
    have hdemand := demand_lowers hlow hhigh hpeer
    have hp := propose_proposed .opening k s
    refine ⟨hframe, ?_, fun hiso => ?_, fun hiso hown hrefusal hpos => ?_⟩
    · rw [hdemand]
      cases hiso : s.ix.isolated with
      | false =>
        rw [demandLower_proposes hl hiso]
        exact fun j _ => congrArg (Four.get · j) hp.stages
      | true =>
        cases hrefusal : openRefusal s k.num .autoLower with
        | none =>
          rw [demandLower_opens hl hiso hrefusal, executing_opens hrefusal]
          exact (issueOpen_taken (enterExecuting_frame k .opening 0 s) (.inl (openRefusal_lower hrefusal)) _ _).others
        | some r =>
          rw [demandLower_refused hl hiso hrefusal]
          exact fun _ _ => rfl
    · rw [hdemand, demandLower_proposes hl hiso]
      exact ⟨hp.vc, hp.ix, hp.slot, congrArg (Four.get · k) hp.stages, hp.inService⟩
    · have heq : demand s = issueOpen k .autoLower 0 (enterExecuting k .opening 0 s) := by
        rw [hdemand, demandLower_opens hl hiso hrefusal, executing_opens hrefusal]
      have hissued := issueOpen_issued (enterExecuting_frame k .opening 0 s) (.inl (openRefusal_lower hrefusal)) hpos .autoLower 0
      have hcontrol := issueOpen_flight_control (s := enterExecuting k .opening 0 s) (k := k) hpos
        (fun i hi => absurd (hown.symm.trans hi) (Option.some_ne_none i).symm) .autoLower 0
      rw [heq]
      exact ⟨hcontrol.1, hcontrol.2, hissued.stage, hissued.inService.trans (if_pos (openRefusal_lower hrefusal))⟩

end Sys2Proof.Proofs
end

section
namespace Sys2Proof.Machine

/-- R78: below the band. -/
theorem accumulators_below {c : Settings} {v : Nat} (hv : v < c.vset - c.halfBand) (low high : Nat) :
    updateAccumulators c v low high = (min c.threshold (low + (c.vset - c.halfBand - v)), 0) := if_pos hv

/-- R78: above the band. -/
theorem accumulators_above {c : Settings} {v : Nat} (hv : c.vset + c.halfBand < v) (low high : Nat) :
    updateAccumulators c v low high = (0, min c.threshold (high + (v - (c.vset + c.halfBand)))) := by
  have hnot : ¬v < c.vset - c.halfBand := by omega
  rw [updateAccumulators, if_neg hnot, if_pos hv, Nat.sub_sub]

/-- R78: within the band, both ends of it included. -/
theorem accumulators_within {c : Settings} {v : Nat} (hv : c.vset - c.halfBand ≤ v) (hv' : v ≤ c.vset + c.halfBand)
    (low high : Nat) : updateAccumulators c v low high = (low - c.decay, high - c.decay) := by
  rw [updateAccumulators, if_neg (Nat.not_lt.mpr hv), if_neg (Nat.not_lt.mpr hv')]

/-- R85, R87: a walk that finds no stage. -/
theorem demandRaise_unserved {s : State} {r : Reason} (h : (raiseWalk (unblocked s s.ready) s).2.1 = none)
    (hr : (raiseWalk (unblocked s s.ready) s).2.2.getD .noneReady = r) : demandRaise s =
      { (raiseWalk (unblocked s s.ready) s).1 with
        vc := { (raiseWalk (unblocked s s.ready) s).1.vc with unserved := r } } := by
  unfold demandRaise
  revert h hr
  generalize raiseWalk (unblocked s s.ready) s = x
  obtain ⟨a, found, refusal⟩ := x
  rintro rfl rfl
  cases refusal <;> rfl

/-- R87: the first refusal of a walk in which every stage is refused is the reason. -/
theorem demandRaise_refused {s : State} {k : StageId} {rest : List StageId} {r : Reason} (hl : unblocked s s.ready = k :: rest)
    (hk : closeTest (s.prune k) k.num .autoRaise 0 = some r)
    (hrest : ∀ j ∈ rest, closeTest (s.prune j) j.num .autoRaise 0 ≠ none) :
    ∃ w, Walked (k :: rest) s w ∧ demandRaise s = { w with vc := { w.vc with unserved := r } } := by
  have hall : ∀ j ∈ k :: rest, closeTest (s.prune j) j.num .autoRaise 0 ≠ none :=
    List.forall_mem_cons.mpr ⟨by rw [hk]; exact Option.some_ne_none r, hrest⟩
  obtain ⟨hw, hnone⟩ := raiseWalk_refuses (walked_nil s) hall
  rw [← hl] at hw hnone
  exact ⟨_, by simpa [hl] using hw, demandRaise_unserved hnone (by rw [hl, raiseWalk_refused hk]; rfl)⟩

end Sys2Proof.Machine
end

section
namespace Sys2Proof.Proofs
open Machine

/-- Settles O17: the update of the accumulators by the band, and each condition that holds a demand back. -/
theorem demandHeldBack : Obligations.DemandHeldBack := by
  refine ⟨fun c v low high hband => ?_, fun s hlow => ⟨fun hp => ?_, fun hp hh => ?_, fun hp hh hl => ?_, fun k rest r hp hh hl hk hrest => ?_⟩,
    fun s hlow hhigh => ⟨fun hp => ?_, fun hp hl => ?_⟩, fun s hlow hhigh => ?_⟩
  · exact ⟨fun hv => Prod.ext_iff.mp (accumulators_below hv low high),
      fun hv => (Prod.ext_iff.mp (accumulators_above hv low high)).symm,
      fun hv hv' => Prod.ext_iff.mp (accumulators_within hv hv' low high)⟩
  · simp [demand, hlow, hp]
  · simp [demand, hlow, hp, hh]
  · rw [demand_raises hlow hp hh]
    have hunserved := demandRaise_unserved (s := s) (by rw [hl]; rfl) rfl
    rw [hl] at hunserved
    exact hunserved
  · obtain ⟨w, hw, heq⟩ := demandRaise_refused hl hk hrest
    rw [demand_raises hlow hp hh, heq]
    exact ⟨congrArg (fun u : State => { u with stages := w.stages, vc := { u.vc with unserved := r } }) hw.rest, hw.stage⟩
  · simp [demand, Nat.not_le.mpr hlow, hhigh, hp]
  · rw [demand_lowers hlow hhigh hp, demandLower, hl]
  · simp [demand, Nat.not_le.mpr hlow, Nat.not_le.mpr hhigh]

end Sys2Proof.Proofs
end

/-! ### Switching under the cause DEAD_LINE (R75, R83, R94) -/

section
namespace Sys2Proof.Machine

/-- While DEAD_LINE stands as a cause: it goes on standing; and a suspended controller and an Intent Exchange without an own
intent are left alone. -/
structure DeadKept (s t : State) : Prop where
  cause : s.vc.causes.deadLine = true → t.vc.causes.deadLine = true
  ix : s.ix.own = none → t.ix = s.ix ∧ t.lc.intentSlot = s.lc.intentSlot
  vc : s.vc.causes.deadLine = true → s.ix.own = none → s.vc.state = .suspended →
    t.vc.state = .suspended ∧ t.vc.low = s.vc.low ∧ t.vc.high = s.vc.high

theorem DeadKept.of_same {s t : State} (hvc : t.vc = s.vc) (hix : t.ix = s.ix) (hslot : t.lc.intentSlot = s.lc.intentSlot) :
    DeadKept s t := by
  refine ⟨fun h => ?_, fun _ => ⟨hix, hslot⟩, fun _ _ h => ?_⟩
  · rw [hvc, h]
  · rw [hvc]
    exact ⟨h, rfl, rfl⟩

theorem DeadKept.trans {s t u : State} (h : DeadKept s t) (h' : DeadKept t u) : DeadKept s u := by
  have hnone (hown : s.ix.own = none) : t.ix.own = none := by rw [(h.ix hown).1, hown]
  refine ⟨h'.cause ∘ h.cause, fun hown => ?_, fun hc hown hs => ?_⟩
  · exact ⟨((h'.ix (hnone hown)).1).trans (h.ix hown).1, ((h'.ix (hnone hown)).2).trans (h.ix hown).2⟩
  · obtain ⟨hstate, hlow, hhigh⟩ := h.vc hc hown hs
    obtain ⟨hstate', hlow', hhigh'⟩ := h'.vc (h.cause hc) (hnone hown) hstate
    exact ⟨hstate', hlow'.trans hlow, hhigh'.trans hhigh⟩

theorem changeStage_causes (k : StageId) (new : StageState) (s : State) : (changeStage k new s).vc.causes = s.vc.causes := by
  refine (exchangeNotice_keeps ..).2.2.trans ?_
  rw [(relayNotice_slot ..).1, trigger_vc]
  rfl

theorem changeStage_deadKept (k : StageId) (new : StageState) (s : State) : DeadKept s (changeStage k new s) := by
  have hun (hown : s.ix.own = none) : s.unproposed k := fun i hi => by cases hown.symm.trans hi
  refine ⟨fun h => ?_, fun hown => ⟨(changeStage_control (hun hown) new).2, changeStage_slot (hun hown) new⟩,
    fun _ hown hs => ?_⟩
  · rw [changeStage_causes, h]
  · rw [(changeStage_control (hun hown) new).1]
    exact ⟨hs, rfl, rfl⟩

theorem modified_deadKept (k : StageId) (new : StageState) (f : Stage → Stage) (s : State) :
    DeadKept s (changeStage k new (s.modStage k f)) :=
  DeadKept.trans (t := s.modStage k f) (.of_same rfl rfl rfl) (changeStage_deadKept ..)

theorem endChain_deadKept (c : Chain) (e : ChainEnd) (s : State) : DeadKept s (endChain c e s) := by
  obtain ⟨-, hvc, -, hix, -, -, -, hslot⟩ := writeOrder_keeps c.panel c.tag e.outcome (e.detail c.index) .none
    { s with oi := { s.oi with chain := none, stepIndex := c.index, stepReason := e.reason } }
  unfold endChain
  generalize writeOrder c.panel c.tag e.outcome (e.detail c.index) .none
    { s with oi := { s.oi with chain := none, stepIndex := c.index, stepReason := e.reason } } = w at hvc hix hslot
  obtain ⟨-, -, rix, rcauses, -, -, rslot, -⟩ := removeCause_keeps .chainActive w
  refine ⟨fun h => ?_, fun _ => ⟨rix.trans hix, rslot.trans hslot⟩, fun h _ hs => ?_⟩
  · rw [rcauses, hvc]
    exact h
  · have hstays : ¬(w.vc.causes = Suspension.chainActive.only ∧ w.vc.state = .suspended) := by
      rintro ⟨honly, -⟩
      rw [hvc] at honly
      have hoff : s.vc.causes.deadLine = false := congrArg CauseSet.deadLine honly
      exact absurd (h.symm.trans hoff) (by decide)
    rw [removeCause_kept hstays]
    exact ⟨(congrArg (·.state) hvc).trans hs, congrArg (·.low) hvc, congrArg (·.high) hvc⟩

theorem writeOrder_deadKept (panel tag : Nat) (o : OrderOutcome) (d : Nat) (m : SettleMark) (s : State) :
    DeadKept s (writeOrder panel tag o d m s) := by
  obtain ⟨-, hvc, -, hix, -, -, -, hslot⟩ := writeOrder_keeps panel tag o d m s
  exact .of_same hvc hix hslot

theorem settleChain_deadKept (x : SwitchReport) (s : State) : DeadKept s (settleChain x s) := by
  have hadvance (c : Chain) : DeadKept s (advanceChain c s) := by
    unfold advanceChain
    dsimp only
    split
    · refine DeadKept.trans ?_ (writeOrder_deadKept ..)
      exact .of_same rfl rfl rfl
    · exact .of_same rfl rfl rfl
  unfold settleChain
  split
  · exact .of_same rfl rfl rfl
  · split
    · exact .of_same rfl rfl rfl
    · split
      · split
        · exact endChain_deadKept ..
        · split
          · exact hadvance _
          · exact endChain_deadKept ..
      · exact .of_same rfl rfl rfl

theorem report_unowned_ix {x : SwitchReport} {s : State} (h : s.ix.own = none) : (report x s).ix = s.ix := by
  rw [report_ix]
  unfold exchangeReport
  rw [h, placeOutcome, refreshAccess_ix]
  exact congrArg (fun o => { s.ix with own := o }) h.symm

theorem report_deadKept (x : SwitchReport) (s : State) : DeadKept s (report x s) := by
  have hkept := settleChain_deadKept x (settleOrder x (reported x s))
  have hcauses : (settleOrder x (reported x s)).vc.causes = s.vc.causes := by rw [settleOrder_vc, reported_causes]
  refine ⟨fun h => hkept.cause (by rw [hcauses, h]), fun hown => ⟨report_unowned_ix hown, report_intentSlot x s⟩,
    fun h hown hs => ?_⟩
  have hx : (exchangeReport x s).vc.state = .suspended := by rw [exchangeReport_vc, hs]
  have hvc : (settleOrder x (reported x s)).vc = s.vc := by
    rw [settleOrder_vc, reported, controllerReport_nothing (.inr (.inl hx)), exchangeReport_vc]
  have hix : (settleOrder x (reported x s)).ix.own = none := by
    rw [← settleChain_ix x, ← report_eq, report_unowned_ix hown, hown]
  have hstill := hkept.vc (by rw [hvc, h]) hix (by rw [hvc, hs])
  rw [hvc] at hstill
  exact hstill

theorem issueOpen_deadKept (k : StageId) (cause : Cause) (n : Nat) (s : State) : DeadKept s (issueOpen k cause n s) := by
  unfold issueOpen
  dsimp only
  generalize hf : (fun r : Stage => _) = f
  have hissued := modified_deadKept k .opening f s
  generalize changeStage k .opening (s.modStage k f) = w at hissued
  split
  · exact hissued.trans ((modified_deadKept ..).trans (report_deadKept _ _))
  · exact hissued

theorem requestOpen_deadKept (k : StageId) (cause : Cause) (n : Nat) (s : State) : DeadKept s (requestOpen k cause n s) := by
  unfold requestOpen actOpen
  split
  · exact .of_same rfl rfl rfl
  · split
    · exact issueOpen_deadKept ..
    · split
      · exact .of_same rfl rfl rfl
      · exact .of_same rfl rfl rfl
    · split
      · exact .of_same rfl rfl rfl
      · exact .of_same rfl rfl rfl
    · split
      · exact issueOpen_deadKept ..
      · exact .of_same rfl rfl rfl
    · exact .of_same rfl rfl rfl

end Sys2Proof.Machine
end

/-! ### The declaration of a dead line (R94) -/

section
namespace Sys2Proof.Machine

/-- R94: what the declaration makes of a stage. -/
def State.deadOpened (s : State) (k : StageId) : Stage :=
  match (s.stage k).state with
  | .closed => s.openTaken k .deadLine 0
  | .closing =>
    match (s.stage k).op with
    | some op => (s.stage k).cutBy op .deadLine 0
    | none => s.stage k
  | _ => s.stage k

theorem SwitchFrame.openTaken {s w : State} (h : SwitchFrame s w) {k : StageId} (hk : w.stage k = s.stage k) (cause : Cause)
    (n : Nat) : w.openTaken k cause n = s.openTaken k cause n := by
  have hms : w.ms = s.ms := h.ms
  have hfull : w.fullDischarge k = s.fullDischarge k := by unfold State.fullDischarge; rw [h.cfg]
  unfold State.openTaken State.openCompleted State.openIssued
  rw [h.position, hk, h.cfg, hms, hfull]

/-- R94: the request to one of its targets, on the state that the requests before it have left. -/
theorem deadLine_request {s w : State} {k : StageId} (h : SwitchFrame s w) (hconf : s.configured k = true)
    (hk : w.stage k = s.stage k) (hst : (s.stage k).state = .closed ∨ (s.stage k).state = .closing) :
    (requestOpen k .deadLine 0 w).stage k = s.deadOpened k ∧ OtherStages k w (requestOpen k .deadLine 0 w) := by
  have hpass : openRefusal w k.num .deadLine = none := by
    refine (openRefusal_none_iff w k .deadLine (by rw [h.configured, hconf])).mpr ⟨(by rintro (h | h | h) <;> cases h), ?_⟩
    rw [hk]
    rcases hst with hst | hst
    · exact .inl hst
    · exact .inr (.inl hst)
  rw [requestOpen_passes hpass]
  unfold State.deadOpened
  rcases hst with hst | hst
  · have hwst : (w.stage k).state = .closed := by rw [hk, hst]
    have htaken := issueOpen_taken (NoticeFrame.refl w) (.inl hwst) .deadLine 0
    rw [actOpen_issues (.inl hwst), hst]
    exact ⟨htaken.stage.trans (h.openTaken hk ..), htaken.others⟩
  · have hwst : (w.stage k).state = .closing := by rw [hk, hst]
    rw [hst]
    cases hop : (s.stage k).op with
    | none =>
      have hnothing : actOpen k .deadLine 0 w = w := by
        unfold actOpen
        rw [hwst, hk, hop]
      rw [hnothing]
      exact ⟨hk, fun _ _ => rfl⟩
    | some op =>
      rw [actOpen_cuts hwst (by rw [hk, hop])]
      refine ⟨?_, fun j hj => Four.get_set_ne _ _ hj⟩
      exact (Four.get_set_same ..).trans (by rw [hk])

/-- R94: the requests to all its targets. -/
theorem deadLine_requests {s : State} : ∀ {l : List StageId} {w : State}, l.Nodup → SwitchFrame s w →
    (∀ k ∈ l, s.configured k = true ∧ w.stage k = s.stage k ∧ ((s.stage k).state = .closed ∨ (s.stage k).state = .closing)) →
    ∀ k, (l.foldl (fun acc k => requestOpen k .deadLine 0 acc) w).stage k = if k ∈ l then s.deadOpened k else w.stage k
  | [], w, _, _, _, k => by simp
  | a :: l, w, hnd, hw, hl, k => by
    obtain ⟨ha, hnd⟩ := List.nodup_cons.mp hnd
    obtain ⟨⟨hconf, hsame, hst⟩, hl⟩ := List.forall_mem_cons.mp hl
    obtain ⟨hstage, hothers⟩ := deadLine_request hw hconf hsame hst
    have hframe := hw.trans (requestOpen_frame a .deadLine 0 w)
    have hne (j : StageId) (hj : j ∈ l) : j ≠ a := fun he => ha (he ▸ hj)
    rw [List.foldl_cons, deadLine_requests hnd hframe fun j hj => ⟨(hl j hj).1, (hothers j (hne j hj)).trans (hl j hj).2.1, (hl j hj).2.2⟩]
    by_cases hk : k = a
    · subst hk
      rw [if_neg ha, if_pos List.mem_cons_self, hstage]
    · simp only [List.mem_cons, hk, false_or]
      rw [hothers k hk]

end Sys2Proof.Machine
end

section
namespace Sys2Proof.Machine

theorem mem_live (s : State) (k : StageId) : k ∈ (snapshot s).live ↔
    s.configured k = true ∧ ((s.stage k).state = .closed ∨ (s.stage k).state = .closing) := by
  simp [snapshot, mem_stageIds]

theorem live_nodup (s : State) : (snapshot s).live.Nodup := (stageIds_nodup s).filter _

/-- R94: the controller's own part of the declaration. -/
def State.deadDeclared (s : State) : State := { s with vc := { s.vc with deadLine := true, deadRun := 0, restore := 0 } }

/-- R94: the state on which the requests of the declaration go out. -/
def State.deadSuspended (s : State) : State := trigger (addCause .deadLine s.deadDeclared)

/-- R94: the requests of the declaration. -/
def State.deadRequested (live : List StageId) (s : State) : State :=
  live.foldl (fun acc k => requestOpen k .deadLine 0 acc) s.deadSuspended

theorem declareDead_eq (live : List StageId) (s : State) : declareDead live s = chainDeadLine (s.deadRequested live) := rfl

theorem deadSuspended_frame (s : State) : NoticeFrame s.deadDeclared s.deadSuspended :=
  (addCause_frame .deadLine s.deadDeclared).trans (trigger_frame _)

theorem deadSuspended_cause (s : State) : s.deadSuspended.vc.causes.deadLine = true := by
  rw [State.deadSuspended, trigger_vc, (addCause_keeps ..).2.2.1]
  rfl

theorem deadRequested_frame (live : List StageId) (s : State) : SwitchFrame s.deadSuspended (s.deadRequested live) :=
  foldl_switch _ (fun t k => requestOpen_frame k .deadLine 0 t) live _

theorem deadRequested_deadKept (live : List StageId) (s : State) : DeadKept s.deadSuspended (s.deadRequested live) := by
  unfold State.deadRequested
  generalize s.deadSuspended = w
  induction live generalizing w with
  | nil => exact .of_same rfl rfl rfl
  | cons a l ih => exact (requestOpen_deadKept a .deadLine 0 w).trans (ih _)

theorem chainDeadLine_deadKept (s : State) : DeadKept s (chainDeadLine s) := by
  unfold chainDeadLine
  split
  · exact endChain_deadKept ..
  · exact .of_same rfl rfl rfl

theorem chainDeadLine_ends (s : State) : (chainDeadLine s).oi.chain = none := by
  unfold chainDeadLine
  split
  · rw [endChain_oi]
  · assumption

theorem chainDeadLine_outcomeSlot (s : State) : (chainDeadLine s).lc.outcomeSlot = s.lc.outcomeSlot := by
  unfold chainDeadLine
  split
  · obtain ⟨-, -, -, -, -, hslot, -⟩ := removeCause_keeps .chainActive
      (writeOrder _ _ _ _ .none { s with oi := { s.oi with chain := none, stepIndex := _, stepReason := _ } })
    obtain ⟨-, -, -, -, -, -, hslot', -⟩ := writeOrder_keeps _ _ _ _ .none { s with oi := { s.oi with chain := none, stepIndex := _, stepReason := _ } }
    exact hslot.trans hslot'
  · rfl

/-- R94: the first request of all finds an own proposal withdrawn. -/
theorem deadSuspended_withdraws {s : State} {i : Intent} (h : Proposes i s) :
    Withdrawn i .deadLine s s.deadSuspended ∧ s.deadSuspended.vc.state = .suspended ∧ s.deadSuspended.vc.low = 0 ∧
      s.deadSuspended.vc.high = 0 := by
  have hp : Proposes i s.deadDeclared := ⟨h.control, h.state, h.own, h.uncommitted⟩
  have hw := addCause_withdraws .deadLine hp
  obtain ⟨hstate, hlow, hhigh, -⟩ := addCause_suspends .deadLine (s := s.deadDeclared) h.control
    (by rw [show s.deadDeclared.vc.state = .proposing from h.state]; decide)
  unfold State.deadSuspended
  rw [trigger_vc]
  refine ⟨⟨⟨(trigger_ix _).trans hw.own, (trigger_intentSlot _).trans hw.slot⟩, (trigger_outcomeSlot _).trans hw.outcome⟩,
    hstate, hlow, hhigh⟩

/-- R34: a request whose open is in flight, or a cut, places no OUTCOME. -/
theorem requestOpen_silent {s : State} {k : StageId} (hown : s.ix.own = none) (hst : (s.stage k).state = .closed → s.position k ≠ .opened)
    (hfault : (s.stage k).state.isFault = false) (cause : Cause) (n : Nat) :
    (requestOpen k cause n s).lc.outcomeSlot = s.lc.outcomeSlot := by
  unfold requestOpen actOpen
  split
  · rfl
  · split
    next hc =>
      rw [issueOpen_flight (hst hc)]
      exact changeStage_outcomeSlot k .opening (s.modStage k _) fun i hi => absurd (hown.symm.trans hi) (Option.some_ne_none i).symm
    · split <;> rfl
    · split <;> rfl
    next hf => simp [hf, StageState.isFault] at hfault
    · rfl

end Sys2Proof.Machine
end

section
namespace Sys2Proof.Machine

/-- R34, R94: with no breaker open at its target the requests of the declaration place no OUTCOME. -/
theorem deadLine_silent {s : State} (hpos : ∀ k, (s.stage k).state = .closed → s.position k ≠ .opened) :
    ∀ {l : List StageId} {w : State}, l.Nodup → SwitchFrame s w → w.ix.own = none →
    (∀ k ∈ l, s.configured k = true ∧ w.stage k = s.stage k ∧ ((s.stage k).state = .closed ∨ (s.stage k).state = .closing)) →
    (l.foldl (fun acc k => requestOpen k .deadLine 0 acc) w).lc.outcomeSlot = w.lc.outcomeSlot
  | [], w, _, _, _, _ => rfl
  | a :: l, w, hnd, hw, hown, hl => by
    obtain ⟨ha, hnd⟩ := List.nodup_cons.mp hnd
    obtain ⟨⟨hconf, hsame, hst⟩, hl⟩ := List.forall_mem_cons.mp hl
    have hothers := (deadLine_request hw hconf hsame hst).2
    have hframe := hw.trans (requestOpen_frame a .deadLine 0 w)
    have hne (j : StageId) (hj : j ∈ l) : j ≠ a := fun he => ha (he ▸ hj)
    have hnone : (requestOpen a .deadLine 0 w).ix.own = none := by
      rw [((requestOpen_deadKept a .deadLine 0 w).ix hown).1, hown]
    rw [List.foldl_cons, deadLine_silent hpos hnd hframe hnone
      fun j hj => ⟨(hl j hj).1, (hothers j (hne j hj)).trans (hl j hj).2.1, (hl j hj).2.2⟩]
    refine requestOpen_silent hown (fun hc => ?_) ?_ _ _
    · rw [hw.position]
      exact hpos a (by rw [← hsame, hc])
    · rw [hsame]
      rcases hst with hst | hst <;> rw [hst] <;> rfl

/-- R94: the targets of the declaration, as they stand at its requests. -/
theorem live_targets {s : State} (k : StageId) (hk : k ∈ (snapshot s).live) : s.deadDeclared.configured k = true ∧
    s.deadSuspended.stage k = s.deadDeclared.stage k ∧
    ((s.deadDeclared.stage k).state = .closed ∨ (s.deadDeclared.stage k).state = .closing) :=
  ⟨((mem_live s k).mp hk).1, (deadSuspended_frame s).stage k, ((mem_live s k).mp hk).2⟩

theorem declareDead_stage (s : State) (k : StageId) : (declareDead (snapshot s).live s).stage k =
    if k ∈ (snapshot s).live then s.deadOpened k else s.stage k := by
  rw [declareDead_eq, (chainDeadLine_frame _).stage]
  refine (deadLine_requests (live_nodup s) (deadSuspended_frame s).toSwitchFrame live_targets k).trans ?_
  rw [(deadSuspended_frame s).stage]
  rfl

/-- R96: the controller's own part of the end of a dead line. -/
def State.deadEnded (s : State) : State := { s with vc := { s.vc with deadLine := false, deadRun := 0, restore := 0 } }

theorem endDead_vc (s : State) : (endDead s).vc = (removeCause .deadLine s.deadEnded).vc := trigger_vc _

/-- R94, R162: what the declaration leaves of an own proposal. -/
theorem declareDead_withdraws {s : State} {i : Intent} (h : Proposes i s) : IntentDropped i s (declareDead (snapshot s).live s) ∧
    (declareDead (snapshot s).live s).vc.state = .suspended ∧ (declareDead (snapshot s).live s).vc.low = 0 ∧
    (declareDead (snapshot s).live s).vc.high = 0 ∧
    ((∀ k, (s.stage k).state = .closed → s.position k ≠ .opened) → Withdrawn i .deadLine s (declareDead (snapshot s).live s)) := by
  obtain ⟨hw, hstate, hlow, hhigh⟩ := deadSuspended_withdraws h
  have hkept := (deadRequested_deadKept (snapshot s).live s).trans (chainDeadLine_deadKept _)
  have hnone : s.deadSuspended.ix.own = none := by rw [hw.own]
  obtain ⟨hix, hslot⟩ := hkept.ix hnone
  obtain ⟨hstate', hlow', hhigh'⟩ := hkept.vc (deadSuspended_cause s) hnone hstate
  have hdropped : IntentDropped i s (declareDead (snapshot s).live s) := ⟨hix.trans hw.own, hslot.trans hw.slot⟩
  refine ⟨hdropped, hstate', hlow'.trans hlow, hhigh'.trans hhigh, fun hpos => ⟨hdropped, ?_⟩⟩
  rw [declareDead_eq, chainDeadLine_outcomeSlot]
  exact (deadLine_silent (s := s.deadDeclared) hpos (live_nodup s) (deadSuspended_frame s).toSwitchFrame hnone live_targets).trans
    hw.outcome

end Sys2Proof.Machine
end

section
namespace Sys2Proof.Proofs
open Machine

/-- Settles O19: the declaration, its requests and its withdrawal; the counts; the end. -/
theorem deadLineDeclaredAndEnded : Obligations.DeadLineDeclaredAndEnded := by
  refine ⟨fun s hs hlive hlow hrun => ?_, fun s live hlive => ⟨fun hlow hrun => ?_, fun hhigh => ?_⟩,
    fun s live hdead htime => ⟨fun hhigh hrun => ?_, fun hlow => ?_, fun hhigh hrun => ?_⟩⟩
  · have heq : deadLineTest (snapshot s).live s = declareDead (snapshot s).live s := by
      simp [deadLineTest, hlive, hlow, show 3 ≤ s.vc.deadRun + 1 by omega]
    rw [heq]
    have hcontrol := ((deadSuspended_frame s).toSwitchFrame.trans (deadRequested_frame (snapshot s).live s)).trans
      (chainDeadLine_frame _).toSwitchFrame |>.control
    have hkept := (deadRequested_deadKept (snapshot s).live s).trans (chainDeadLine_deadKept _)
    obtain ⟨hframe, htold⟩ := declareDead_told (snapshot s).live s
    have hconf (k : StageId) (h : (s.stage k).state ≠ .absent) := hs.configured k h
    refine ⟨hcontrol.deadLine, hcontrol.deadRun, hcontrol.restore, hkept.cause (deadSuspended_cause s), chainDeadLine_ends _,
      htold, fun i hi => declareDead_withdraws hi, hframe, fun k => ?_⟩
    rw [declareDead_stage]
    simp only [mem_live]
    refine ⟨fun hst => ?_, fun op hst hop => ?_, fun hclosed hclosing => ?_⟩
    · rw [if_pos ⟨hconf k (by rw [hst]; decide), .inl hst⟩, State.deadOpened, hst]
    · rw [if_pos ⟨hconf k (by rw [hst]; decide), .inr hst⟩, State.deadOpened, hst, hop]
    · rw [if_neg fun h => h.2.elim hclosed hclosing]
  · simp [deadLineTest, hlive, hlow, show ¬3 ≤ s.vc.deadRun + 1 by omega]
  · simp [deadLineTest, hlive, Nat.not_lt.mpr hhigh]
  · simp [deadLineTest, hdead, hhigh, Nat.not_le.mpr hrun]
  · simp [deadLineTest, hdead, Nat.not_le.mpr hlow, Nat.not_le.mpr htime]
  · have heq : deadLineTest live s = endDead s := by simp [deadLineTest, hdead, hhigh, hrun]
    rw [heq]
    have hnotice := (removeCause_frame .deadLine s.deadEnded).trans (trigger_frame _)
    have hcontrol := hnotice.control
    obtain ⟨hframe, htold⟩ := endDead_told s
    obtain ⟨hoi, hur, hix, hcauses, -⟩ := removeCause_keeps .deadLine s.deadEnded
    refine ⟨hcontrol.deadLine, hcontrol.deadRun, hcontrol.restore, htold, ?_, fun hc hst => ?_, fun hc => ?_, hframe,
      hnotice.stages, hnotice.ready, hnotice.inService, (trigger_oi _).trans hoi, (trigger_ix _).trans hix, (trigger_ur _).trans hur⟩
    · rw [endDead_vc, hcauses]
      rfl
    · obtain ⟨hquiet, hlow, hhigh, hsettle, -⟩ := removeCause_quiet (c := .deadLine) (s := s.deadEnded) hc hst
      rw [endDead_vc]
      exact ⟨hquiet, hlow, hhigh, hsettle⟩
    · rw [endDead_vc, removeCause_kept fun h => hc h.1]
      rfl

end Sys2Proof.Proofs
end

/-! ### Fast overvoltage (R92) -/

section
namespace Sys2Proof.Machine

/-- R83, R159: a report is nothing to a proposal on its way. -/
theorem report_proposing {x : SwitchReport} {s : State} {i : Intent} (hs : s.vc.state = .proposing) (hi : s.ix.own = some i)
    (hp : i.phase ≠ .committed) : (report x s).ix = s.ix ∧ (report x s).vc.state = .proposing := by
  have hx : (exchangeReport x s).vc.state = .proposing := by rw [exchangeReport_vc, hs]
  have hvc : (settleOrder x (reported x s)).vc = s.vc := by
    rw [settleOrder_vc, reported, controllerReport_nothing (.inl hx), exchangeReport_vc]
  refine ⟨?_, ?_⟩
  · rw [report_ix]
    unfold exchangeReport
    rw [hi, placeOutcome, refreshAccess_ix]
    dsimp only
    rw [if_neg fun h => hp h.1, ← hi]
  · obtain ⟨hstate, -, -⟩ := settleChain_unsuspended (x := x) (s := settleOrder x (reported x s)) (by rw [hvc, hs]; decide)
    rw [report_eq, hstate, hvc, hs]

/-- R164: an open of another stage is nothing to a proposal. -/
theorem issueOpen_proposing {k : StageId} {s : State} {i : Intent} (hs : s.vc.state = .proposing) (hi : s.ix.own = some i)
    (hp : i.phase ≠ .committed) (hk : i.stage ≠ k) (cause : Cause) (n : Nat) :
    (issueOpen k cause n s).ix = s.ix ∧ (issueOpen k cause n s).vc.state = .proposing := by
  have hmoved (w : State) (f : Stage → Stage) (new : StageState) (hw : w.ix = s.ix ∧ w.vc.state = .proposing) :
      (changeStage k new (w.modStage k f)).ix = s.ix ∧ (changeStage k new (w.modStage k f)).vc.state = .proposing := by
    obtain ⟨hvc, hix⟩ := changeStage_control (s := w.modStage k f) (k := k)
      (fun j hj he => absurd (Option.some.inj (hi.symm.trans ((congrArg (·.own) hw.1).symm.trans hj)) ▸ he) hk) new
    exact ⟨hix.trans hw.1, (congrArg (·.state) hvc).trans hw.2⟩
  unfold issueOpen
  dsimp only
  generalize (fun r : Stage => _) = f
  have hissued := hmoved s f .opening ⟨rfl, hs⟩
  generalize changeStage k .opening (s.modStage k f) = w at hissued
  split
  · unfold completeOpen
    dsimp only
    generalize (fun r : Stage => _) = g
    generalize (if (w.stage k).tripLatch = true then StageState.lockout else .discharging) = new
    obtain ⟨hix, hstate⟩ := hmoved w g new hissued
    obtain ⟨rix, rstate⟩ := report_proposing (x := ⟨k, .opening, .executed, cause, n⟩) hstate
      ((congrArg (·.own) hix).trans hi) hp
    exact ⟨rix.trans hix, rstate⟩
  · exact hissued

theorem requestOpen_proposing {k : StageId} {s : State} {i : Intent} (hs : s.vc.state = .proposing) (hi : s.ix.own = some i)
    (hp : i.phase ≠ .committed) (hk : i.stage ≠ k) (cause : Cause) (n : Nat) :
    (requestOpen k cause n s).ix = s.ix ∧ (requestOpen k cause n s).vc.state = .proposing := by
  have hissued := issueOpen_proposing hs hi hp hk cause n
  unfold requestOpen actOpen
  split
  · exact ⟨rfl, hs⟩
  · split
    · exact hissued
    · split <;> exact ⟨rfl, hs⟩
    · split <;> exact ⟨rfl, hs⟩
    · split
      · exact hissued
      · exact ⟨rfl, hs⟩
    · exact ⟨rfl, hs⟩

/-- R92: the cycles of the run at which a stage is opened. -/
def State.fovActs (s : State) : Prop := s.vc.fovRun = 3 ∨ (s.vc.fovRun = 4 ∧ 59 ≤ s.vc.fovRep)

/-- R92: the counts at such a cycle. -/
def State.fovCounted (s : State) : State := { s with vc := { s.vc with fovRun := 4, fovRep := 0 } }

theorem fastOvTest_opens {s : State} (inService : List StageId) (hp : s.permitted = true) (hv : s.settings.fastOv ≤ s.store.vhi)
    (h : s.fovActs) : fastOvTest inService s = overvoltageWithdraw (fastOpen inService s.fovCounted) := by
  unfold State.fovCounted
  rcases h with hrun | ⟨hrun, hrep⟩
  · simp [fastOvTest, hp, hv, hrun]
  · simp [fastOvTest, hp, hv, hrun, show 60 ≤ s.vc.fovRep + 1 by omega]

theorem fastOpen_first {s : State} {inService rest : List StageId} {k : StageId} (h : unblocked s inService = k :: rest) :
    fastOpen inService s = requestOpen k .fastOv 0 s := by
  unfold fastOpen
  rw [h]

theorem fastOpen_none {s : State} {inService : List StageId} (h : unblocked s inService = []) : fastOpen inService s = s := by
  unfold fastOpen
  rw [h]

theorem overvoltageWithdraw_withdraws {s : State} {i : Intent} (hs : s.vc.state = .proposing) (hi : s.ix.own = some i)
    (hd : i.dir = .close) : overvoltageWithdraw s = withdraw .overvoltage s := by
  unfold overvoltageWithdraw
  rw [hi]
  exact if_pos ⟨hd, hs⟩

theorem overvoltageWithdraw_nothing {s : State} (hs : s.vc.state ≠ .proposing) : overvoltageWithdraw s = s := by
  unfold overvoltageWithdraw
  split
  · exact if_neg fun h => hs h.2
  · rfl

end Sys2Proof.Machine
end

section
namespace Sys2Proof.Machine

/-- R92: the withdrawal of a close intent, after the open of another stage. -/
theorem fastOpen_proposing {s : State} {inService : List StageId} {i : Intent} (hs : s.vc.state = .proposing)
    (hi : s.ix.own = some i) (hp : i.phase ≠ .committed) (hin : i.stage ∉ inService) :
    (fastOpen inService s).ix = s.ix ∧ (fastOpen inService s).vc.state = .proposing := by
  cases hl : unblocked s inService with
  | nil =>
    rw [fastOpen_none hl]
    exact ⟨rfl, hs⟩
  | cons k rest =>
    have hmem : k ∈ unblocked s inService := hl ▸ List.mem_cons_self
    rw [fastOpen_first hl]
    exact requestOpen_proposing hs hi hp (fun he => hin (he ▸ (List.mem_filter.mp hmem).1)) _ _

/-- R92: a cycle of the run at which no stage is opened. -/
theorem fastOvTest_counts {s : State} (inService : List StageId) (hp : s.permitted = true) (hv : s.settings.fastOv ≤ s.store.vhi)
    (hrun : s.vc.fovRun = 4) (hrep : s.vc.fovRep < 59) :
    fastOvTest inService s = overvoltageWithdraw { s with vc := { s.vc with fovRep := s.vc.fovRep + 1 } } := by
  simp [fastOvTest, hp, hv, hrun, show ¬60 ≤ s.vc.fovRep + 1 by omega]

/-- R92: from the fourth cycle on the withdrawal is judged with the proposal as it stood. -/
theorem fastOvTest_proposing {s : State} {inService : List StageId} {i : Intent} (hp : s.permitted = true)
    (hv : s.settings.fastOv ≤ s.store.vhi) (hrun : s.vc.fovRun = 3 ∨ s.vc.fovRun = 4) (hs : s.vc.state = .proposing)
    (hi : s.ix.own = some i) (hphase : i.phase ≠ .committed) (hin : i.stage ∉ inService) :
    ∃ w, fastOvTest inService s = overvoltageWithdraw w ∧ w.ix = s.ix ∧ w.vc.state = .proposing := by
  by_cases hact : s.fovActs
  · exact ⟨_, fastOvTest_opens inService hp hv hact, fastOpen_proposing (s := s.fovCounted) hs hi hphase hin⟩
  · have hcount : s.vc.fovRun = 4 ∧ s.vc.fovRep < 59 := by
      unfold State.fovActs at hact
      omega
    exact ⟨_, fastOvTest_counts inService hp hv hcount.1 hcount.2, rfl, hs⟩

end Sys2Proof.Machine
end

section
namespace Sys2Proof.Proofs
open Machine

/-- Settles O20: the open, the withdrawal, the counts of the run. -/
theorem fastOvervoltageOpens : Obligations.FastOvervoltageOpens := by
  refine ⟨fun s inService k rest hp hv hrun hl hconf hst => ?_, fun s inService i hp hv hrun hs hi hd hphase hin => ?_,
    fun s inService hp hv hs => ⟨fun hrun hrep => ?_, fun hrun hl => ?_⟩, fun s inService => ⟨fun hp hv hrun => ?_, fun h => ?_⟩⟩
  · have hframe := fastOvTest_frame inService s
    have hblock : s.blockSet.get k = false := by
      have hmem : k ∈ unblocked s inService := hl ▸ List.mem_cons_self
      simpa using (List.mem_filter.mp hmem).2
    have hpass : openRefusal s.fovCounted k.num .fastOv = none :=
      (openRefusal_none_iff s.fovCounted k .fastOv hconf).mpr ⟨fun _ => ⟨hblock, hst⟩, .inl hst⟩
    have heq : fastOvTest inService s = overvoltageWithdraw (issueOpen k .fastOv 0 s.fovCounted) := by
      rw [fastOvTest_opens inService hp hv hrun, fastOpen_first (s := s.fovCounted) hl, requestOpen_issues hpass (.inl hst)]
    have htaken := issueOpen_taken (NoticeFrame.refl s.fovCounted) (.inl hst) .fastOv 0
    have hnotice := overvoltageWithdraw_frame (issueOpen k .fastOv 0 s.fovCounted)
    have hcontrol := (htaken.frame.trans hnotice.toSwitchFrame).control
    rw [heq] at hframe ⊢
    exact ⟨hcontrol.fovRun, hcontrol.fovRep, fun j hj => (hnotice.stage j).trans (htaken.others j hj),
      hnotice.inService.trans (htaken.inService.trans (if_pos hst)), (hnotice.stage k).trans htaken.stage, hframe⟩
  · have hframe := fastOvTest_frame inService s
    obtain ⟨w, heq, hix, hstate⟩ := fastOvTest_proposing hp hv hrun hs hi hphase hin
    have hiw : w.ix.own = some i := by rw [hix, hi]
    rw [overvoltageWithdraw_withdraws hstate hiw hd] at heq
    obtain ⟨hquiet, hlow, hhigh, hix', hslot⟩ := withdraw_quiet (r := .overvoltage) trivial hiw hphase
    rw [hix] at hix'
    rw [heq] at hframe ⊢
    exact ⟨hix', hquiet, hlow, hhigh, hslot, hframe⟩
  · exact (fastOvTest_counts inService hp hv hrun hrep).trans (overvoltageWithdraw_nothing hs)
  · rw [fastOvTest_opens inService hp hv hrun, fastOpen_none (s := s.fovCounted) hl]
    exact overvoltageWithdraw_nothing hs
  · simp [fastOvTest, hp, hv, show s.vc.fovRun < 4 by omega, show ¬s.vc.fovRun + 1 = 4 by omega]
  · have hnot : ¬(s.permitted && decide (s.settings.fastOv ≤ s.store.vhi)) = true := by
      rcases h with h | h
      · simp [h]
      · simp [Nat.not_le.mpr h]
    exact if_neg hnot

end Sys2Proof.Proofs
end

/-! ### The figures of an unbalance (R15, R23) -/

section
namespace Sys2Proof.Machine

/-- The clamp of the magnitude lies below the range in which the root is exact. -/
theorem clamped_isqrt {m n : Nat} (hm : m < 2 ^ 20) : min m (isqrt n) = min m (Nat.sqrt n) := by
  rw [isqrt_eq_min, ← Nat.min_assoc]
  congr 1
  omega

/-- R15. -/
theorem magnitudeOf_eq (p : Phasor) : magnitudeOf p = min 65535 (Nat.sqrt (p.re.natAbs ^ 2 + p.im.natAbs ^ 2)) := by
  rw [magnitudeOf, clamped_isqrt (by norm_num), sumSquares, Nat.pow_two, Nat.pow_two]

end Sys2Proof.Machine
end

/-! ### One entry of the relay after a cycle (R119 to R125) -/

section
namespace Sys2Proof.Machine

variable (c : StageSettings) (u : Nat) (e : RelayEntry)

/-- The entry after steps 2 and 3, a trip not yet sent. -/
def RelayEntry.judged (c : StageSettings) (u : Nat) (e : RelayEntry) : RelayEntry := tripUpdate c u (alarmUpdate c u e)

theorem alarmUpdate_counts : alarmUpdate c u e = { e with
    alarmCount := (alarmUpdate c u e).alarmCount, alarm := (alarmUpdate c u e).alarm } := by
  unfold alarmUpdate
  split
  · rfl
  · split <;> rfl

theorem judgedEntry_eq : e.judged c u = { e with
    alarmCount := (alarmUpdate c u e).alarmCount, alarm := (alarmUpdate c u e).alarm
    tripCount := if c.tripLevel ≤ u then e.tripCount + 1 else 0
    highCount := if 2 * c.tripLevel ≤ u then e.highCount + 1 else 0 } := by
  unfold RelayEntry.judged
  rw [alarmUpdate_counts]
  rfl

variable {c u e}

theorem judgeEntry_blanked (h : 0 < e.blanking) : judgeEntry c u e = ({ e with blanking := e.blanking - 1 }, none) := if_pos h

theorem judgeEntry_sent (hb : e.blanking = 0) (hs : e.tripSent = true) : judgeEntry c u e = (e, none) := by
  rw [judgeEntry, if_neg (by omega), if_pos hs]

theorem judgeEntry_trips {cause : Cause} (hb : e.blanking = 0) (hs : e.tripSent = false) (h : tripDue c (e.judged c u) = some cause) :
    judgeEntry c u e = ({ e.judged c u with tripCount := 0, highCount := 0, tripSent := true }, some cause) := by
  rw [judgeEntry, if_neg (by omega), if_neg (by simp [hs])]
  dsimp only
  rw [show tripDue c (tripUpdate c u (alarmUpdate c u e)) = some cause from h]
  rfl

theorem judgeEntry_untripped (hb : e.blanking = 0) (hs : e.tripSent = false) (h : tripDue c (e.judged c u) = none) :
    judgeEntry c u e = (e.judged c u, none) := by
  rw [judgeEntry, if_neg (by omega), if_neg (by simp [hs])]
  dsimp only
  rw [show tripDue c (tripUpdate c u (alarmUpdate c u e)) = none from h]
  rfl

/-- R125: the cause of the trip that an entry sends. -/
theorem judgeEntry_cause (hb : e.blanking = 0) (hs : e.tripSent = false) : (judgeEntry c u e).2 = tripDue c (e.judged c u) := by
  cases h : tripDue c (e.judged c u) with
  | none => rw [judgeEntry_untripped hb hs h]
  | some cause => rw [judgeEntry_trips hb hs h]

/-- R119, R125: an entry that is blanked, or has sent its trip, sends none. -/
theorem judgeEntry_silent (h : ¬(e.blanking = 0 ∧ e.tripSent = false)) : (judgeEntry c u e).2 = none := by
  by_cases hb : e.blanking = 0
  · rw [judgeEntry_sent hb (by simpa [hb] using h)]
  · rw [judgeEntry_blanked (Nat.pos_of_ne_zero hb)]

/-- R124: the high-set run stands at two. -/
theorem judged_high (hh : e.highCount ≤ 1) : 2 ≤ (e.judged c u).highCount ↔ 2 * c.tripLevel ≤ u ∧ e.highCount = 1 := by
  rw [judgedEntry_eq]
  dsimp only
  split <;> omega

/-- R123: the trip run stands at its delay. -/
theorem judged_trip (hd : 2 ≤ c.tripDelay) : c.tripDelay ≤ (e.judged c u).tripCount ↔
    c.tripLevel ≤ u ∧ c.tripDelay ≤ e.tripCount + 1 := by
  rw [judgedEntry_eq]
  dsimp only
  split <;> omega

theorem tripDue_highset (hh : e.highCount ≤ 1) :
    tripDue c (e.judged c u) = some .unbHighset ↔ 2 * c.tripLevel ≤ u ∧ e.highCount = 1 := by
  rw [← judged_high hh]
  unfold tripDue
  split
  next h => simp [h]
  next h => split <;> simp [h]

theorem tripDue_trip (hd : 2 ≤ c.tripDelay) (hh : e.highCount ≤ 1) : tripDue c (e.judged c u) = some .unbTrip ↔
    ¬(2 * c.tripLevel ≤ u ∧ e.highCount = 1) ∧ c.tripLevel ≤ u ∧ c.tripDelay ≤ e.tripCount + 1 := by
  rw [← judged_high hh, ← judged_trip hd]
  unfold tripDue
  split
  next h => simp [h]
  next h => split <;> simp [*]

/-- R119, R123 to R125: the judgement leaves the null and the service of the entry. -/
theorem judgeEntry_keeps : (judgeEntry c u e).1.null = e.null ∧ (judgeEntry c u e).1.inService = e.inService := by
  have hjudged : (e.judged c u).null = e.null ∧ (e.judged c u).inService = e.inService := by
    rw [judgedEntry_eq]
    exact ⟨rfl, rfl⟩
  by_cases hb : e.blanking = 0
  · by_cases hs : e.tripSent = true
    · rw [judgeEntry_sent hb hs]
      exact ⟨rfl, rfl⟩
    · cases hdue : tripDue c (e.judged c u) with
      | none => rw [judgeEntry_untripped hb (by simpa using hs) hdue]; exact hjudged
      | some cause => rw [judgeEntry_trips hb (by simpa using hs) hdue]; exact hjudged
  · rw [judgeEntry_blanked (Nat.pos_of_ne_zero hb)]
    exact ⟨rfl, rfl⟩

/-- R125: a trip is sent once, and clears the counts. -/
theorem judgeEntry_told (h : (judgeEntry c u e).2.isSome = true) : (judgeEntry c u e).1.tripSent = true ∧
    (judgeEntry c u e).1.tripCount = 0 ∧ (judgeEntry c u e).1.highCount = 0 := by
  by_cases hj : e.blanking = 0 ∧ e.tripSent = false
  · obtain ⟨cause, hdue⟩ := Option.isSome_iff_exists.mp h
    rw [judgeEntry_cause hj.1 hj.2] at hdue
    rw [judgeEntry_trips hj.1 hj.2 hdue]
    exact ⟨rfl, rfl, rfl⟩
  · rw [judgeEntry_silent hj] at h
    cases h

/-- R121: a trip leaves the alarm as the cycle has set it. -/
theorem judgeEntry_alarm (hb : e.blanking = 0) (hs : e.tripSent = false) :
    (judgeEntry c u e).1.alarmCount = (alarmUpdate c u e).alarmCount ∧ (judgeEntry c u e).1.alarm = (alarmUpdate c u e).alarm := by
  have hjudged : (e.judged c u).alarmCount = (alarmUpdate c u e).alarmCount ∧ (e.judged c u).alarm = (alarmUpdate c u e).alarm :=
    ⟨rfl, rfl⟩
  cases hdue : tripDue c (e.judged c u) with
  | none => rw [judgeEntry_untripped hb hs hdue]; exact hjudged
  | some cause => rw [judgeEntry_trips hb hs hdue]; exact hjudged

/-! The alarm of an entry by the level of the cycle (R121). -/

theorem alarmUpdate_above (h : c.alarmLevel ≤ u) : alarmUpdate c u e = { e with
    alarmCount := min c.alarmDelay (e.alarmCount + 1), alarm := e.alarm || min c.alarmDelay (e.alarmCount + 1) == c.alarmDelay } := if_pos h

theorem alarmUpdate_below (h : u < c.alarmLevel * 15 / 16) : alarmUpdate c u e = { e with alarmCount := 0, alarm := false } := by
  rw [alarmUpdate, if_neg (by omega), if_pos h]

theorem alarmUpdate_between (h : c.alarmLevel * 15 / 16 ≤ u) (h' : u < c.alarmLevel) : alarmUpdate c u e = e := by
  rw [alarmUpdate, if_neg (by omega), if_neg (by omega)]

/-- R121: cycles in a row at the level, up to the alarm delay, from a count that has not reached it. -/
theorem foldl_alarmUpdate {us : List Nat} (hus : ∀ x ∈ us, c.alarmLevel ≤ x) (hlen : e.alarmCount + us.length ≤ c.alarmDelay)
    (ha : e.alarm = true ↔ e.alarmCount = c.alarmDelay) :
    (us.foldl (fun x v => alarmUpdate c v x) e).alarmCount = e.alarmCount + us.length ∧
    ((us.foldl (fun x v => alarmUpdate c v x) e).alarm = true ↔ e.alarmCount + us.length = c.alarmDelay) := by
  induction us generalizing e with
  | nil => exact ⟨rfl, ha⟩
  | cons x us ih =>
    obtain ⟨hx, hus⟩ := List.forall_mem_cons.mp hus
    rw [List.length_cons] at hlen ⊢
    have hcount : min c.alarmDelay (e.alarmCount + 1) = e.alarmCount + 1 := by omega
    have hstep := alarmUpdate_above (e := e) hx
    rw [hcount] at hstep
    have hclear : e.alarm = false := by
      rw [Bool.eq_false_iff, ne_eq, ha]
      omega
    have h := ih (e := alarmUpdate c x e) hus (by rw [hstep]; dsimp only; omega) (by rw [hstep]; simp [hclear])
    rw [List.foldl_cons]
    rw [hstep] at h ⊢
    dsimp only at h
    rw [show e.alarmCount + (us.length + 1) = e.alarmCount + 1 + us.length by omega]
    exact h

end Sys2Proof.Machine
end

/-! ### The judgement and the capture (R120, R122, R129, R130) -/

section
namespace Sys2Proof.Machine

theorem trigger_eq (s : State) : trigger s = { s with lc := { s.lc with triggerDelay := s.delayTriggered } } := by
  obtain ⟨d, hd⟩ := trigger_lc s
  have htold : (trigger s).lc.triggerDelay = s.delayTriggered := trigger_triggered s
  rw [hd] at htold
  subst htold
  rw [← hd]
  unfold trigger
  split <;> rfl

theorem writeOrder_eq (panel tag : Nat) (o : OrderOutcome) (d : Nat) (m : SettleMark) (s : State) :
    writeOrder panel tag o d m s = { s with
      oi := { s.oi with last := ⟨panel, tag, o, d⟩, mark := m }, lc := { s.lc with triggerDelay := s.delayTriggered } } :=
  trigger_eq _

/-- R129, R130: the order record and the trigger that the end of a capture leaves. -/
theorem captureEnded_eq (c : Capture) (o : OrderOutcome) (d : Nat) (s : State) : captureEnded c o d s = { s with
    oi := if s.oi.mark = .capture then { s.oi with last := ⟨c.panel, c.tag, o, d⟩, mark := .none } else s.oi
    lc := { s.lc with triggerDelay := if s.oi.mark = .capture then s.delayTriggered else s.lc.triggerDelay } } := by
  unfold captureEnded
  by_cases h : s.oi.mark = .capture
  · rw [if_pos h, if_pos h, if_pos h, writeOrder_eq]
  · rw [if_neg h, if_neg h, if_neg h]

/-- R130: a capture of the stage is abandoned. -/
theorem abandonCapture_named {s : State} {c : Capture} (h : s.ur.capture = some c) :
    abandonCapture c.stage s = captureEnded c .failed Reason.stageChanged.code { s with ur := { s.ur with capture := none } } := by
  unfold abandonCapture
  rw [h]
  exact if_pos rfl

/-- R129: the capture of a judgement, before any trip and any completion of it. -/
def State.relayJudged (s : State) : State :=
  { s with ur := ⟨.ofFn fun k => (relayEntry s k).1, captureStep s.store s.ur⟩ }

/-- R120: what the relay holds when the notice of a judgement is judged. -/
def State.relaySettled (s : State) : State := settleCapture s.relayJudged fun k => (relayEntry s k).2

theorem relayJudge_eq (s : State) : relayJudge s = unbalanceNotice s.unbAlarm s.relaySettled := rfl

theorem settleCapture_none {s : State} (h : s.ur.capture = none) (trips : StageId → Option Cause) : settleCapture s trips = s := by
  unfold settleCapture
  rw [h]

theorem settleCapture_tripped {s : State} {c : Capture} {trips : StageId → Option Cause} (h : s.ur.capture = some c)
    (ht : (trips c.stage).isSome = true) : settleCapture s trips = abandonCapture c.stage s := by
  unfold settleCapture
  rw [h]
  exact if_pos ht

theorem settleCapture_done {s : State} {c : Capture} {trips : StageId → Option Cause} (h : s.ur.capture = some c)
    (ht : trips c.stage = none) (hn : 16 ≤ c.count) (hin : (s.ur.entries.get c.stage).inService = true) : settleCapture s trips =
      captureEnded c .done 0 { s.modEntry c.stage (RelayEntry.install c) with
        ur := { (s.modEntry c.stage (RelayEntry.install c)).ur with capture := none } } := by
  unfold settleCapture
  rw [h]
  dsimp only
  rw [if_neg (by simp [ht]), if_pos ⟨hn, hin⟩]

theorem settleCapture_goes {s : State} {c : Capture} {trips : StageId → Option Cause} (h : s.ur.capture = some c)
    (ht : trips c.stage = none) (hn : ¬(16 ≤ c.count ∧ (s.ur.entries.get c.stage).inService = true)) : settleCapture s trips = s := by
  unfold settleCapture
  rw [h]
  dsimp only
  rw [if_neg (by simp [ht]), if_neg hn]

/-- R129, R130: what the settling of a capture may change. -/
theorem settleCapture_only (s : State) (trips : StageId → Option Cause) : ∃ ur oi d,
    settleCapture s trips = { s with ur := ur, oi := oi, lc := { s.lc with triggerDelay := d } } ∧
      ∀ k, (∀ c, s.ur.capture = some c → c.stage ≠ k) → ur.entries.get k = s.ur.entries.get k := by
  cases hc : s.ur.capture with
  | none => exact ⟨s.ur, s.oi, s.lc.triggerDelay, settleCapture_none hc trips, fun _ _ => rfl⟩
  | some c =>
    cases ht : trips c.stage with
    | some cause =>
      rw [settleCapture_tripped hc (by rw [ht]; rfl), abandonCapture_named hc, captureEnded_eq]
      exact ⟨_, _, _, rfl, fun _ _ => rfl⟩
    | none =>
      by_cases hn : 16 ≤ c.count ∧ (s.ur.entries.get c.stage).inService = true
      · rw [settleCapture_done hc ht hn.1 hn.2, captureEnded_eq]
        exact ⟨_, _, _, rfl, fun k hk => Four.get_set_ne _ _ (hk c rfl).symm⟩
      · exact ⟨s.ur, s.oi, s.lc.triggerDelay, settleCapture_goes hc ht hn, fun _ _ => rfl⟩

/-- R120, R122: what the judgement may change. -/
theorem relaySettled_only (s : State) : ∃ ur oi d,
    s.relaySettled = { s with ur := ur, oi := oi, lc := { s.lc with triggerDelay := d } } ∧
      ∀ k, (∀ c, s.ur.capture = some c → c.stage ≠ k) → ur.entries.get k = (relayEntry s k).1 := by
  obtain ⟨ur, oi, d, heq, hentry⟩ := settleCapture_only s.relayJudged fun k => (relayEntry s k).2
  refine ⟨ur, oi, d, heq, fun k hk => (hentry k fun c hc => ?_).trans (Four.get_ofFn ..)⟩
  obtain ⟨c', hc', rfl⟩ := Option.map_eq_some_iff.mp hc
  split
  · exact hk c' hc'
  · exact hk c' hc'

/-- R122: a station alarm that stands as before hands no notice. -/
theorem unbalanceNotice_same {b : Bool} {s : State} (h : s.unbAlarm = b) : unbalanceNotice b s = s := if_pos h

theorem unbalanceNotice_changed {b : Bool} {s : State} (h : s.unbAlarm ≠ b) : unbalanceNotice b s = { s with
    lc := { s.lc with triggerDelay := s.delayTriggered }, alarm := s.alarmDue, healthy := s.healthyDue } := by
  unfold unbalanceNotice
  rw [if_neg h, trigger_eq]
  rfl

theorem unbalanceNotice_unbAlarm (b : Bool) (s : State) : (unbalanceNotice b s).unbAlarm = s.unbAlarm := by
  obtain ⟨d, al, he, heq⟩ := unbalanceNotice_only b s
  rw [heq]
  rfl

theorem relayEntry_unconfigured {s : State} {k : StageId} (h : s.configured k = false) :
    relayEntry s k = (s.ur.entries.get k, none) := by
  unfold relayEntry
  rw [if_neg (by simp [h])]

theorem relayEntry_resting {s : State} {k : StageId} (h : s.configured k = true) (hin : (s.ur.entries.get k).inService = false) :
    relayEntry s k = ({ s.ur.entries.get k with
      latestU := unbalance (s.store.neutral.get k) (s.ur.entries.get k).null }, none) := by
  unfold relayEntry
  dsimp only
  rw [if_pos h, if_neg (by simp [hin])]

theorem relayEntry_serving {s : State} {k : StageId} (h : s.configured k = true) (hin : (s.ur.entries.get k).inService = true) :
    relayEntry s k = judgeEntry (s.cfg k) (unbalance (s.store.neutral.get k) (s.ur.entries.get k).null) { s.ur.entries.get k with
      latestU := unbalance (s.store.neutral.get k) (s.ur.entries.get k).null } := by
  unfold relayEntry
  dsimp only
  rw [if_pos h, if_pos hin]

end Sys2Proof.Machine
end

/-! ### The arrival of the trips (R47, R125, R126) -/

section
namespace Sys2Proof.Machine

/-- R43, R45: the record of a READY or DISCHARGING stage that a trip has brought into LOCKOUT, its position taken. -/
def State.lockedRecord (s : State) (k : StageId) (cause : Cause) : Stage :=
  match s.position k with
  | .opened => { s.latched k with
      state := .lockout, lastCause := cause, op := none, disc := (s.stage k).disc.map fun d => { d with origin := .lockout } }
  | .closed => { s.latched k with
      state := .opening, lastCause := .lockoutEnforce, discharge := 0, disc := none, openOut := true
      op := some ⟨.opening, .lockoutEnforce, 0, s.ms, none⟩
      pulse := some (s.cfg k).pulseWidth, window := some (s.cfg k).operateWindow
      duty := recordDuty (s.cfg k).dutyLimit s.seconds (s.stage k).duty }
  | _ => { s.latched k with
      state := .lockout, lastCause := cause, op := none
      disc := match (s.stage k).disc with
        | some d => some { d with origin := .lockout }
        | none => some ⟨.lockout, 0⟩ }

/-- R47: the record of a configured stage that a trip has reached, by its state. -/
def State.tripRecord (s : State) (k : StageId) (cause : Cause) : Stage :=
  match (s.stage k).state with
  | .absent => s.stage k
  | .ready | .discharging => s.lockedRecord k cause
  | .closed => (s.tripped k).openTaken k cause 0
  | .closing =>
    match (s.stage k).op with
    | some op => (s.latched k).cutBy op cause 0
    | none => s.latched k
  | .opening =>
    match (s.stage k).op with
    | some op => (s.latched k).absorbs op cause 0
    | none => s.latched k
  | .fault _ =>
    if (s.stage k).connected = true then (s.tripped k).openTaken k cause 0 else { s.latched k with lastCause := cause }
  | .lockout => s.latched k

/-- A record written over a stage is read back. -/
theorem set_stage (s : State) (k : StageId) (r : Stage) : State.stage { s with stages := s.stages.set k r } k = r :=
  Four.get_set_same ..

theorem requestTrip_locked_stage {s : State} {k : StageId} {cause : Cause} (hc : cause = .unbTrip ∨ cause = .unbHighset)
    (hk : s.configured k = true) (h : (s.stage k).state = .ready ∨ (s.stage k).state = .discharging) :
    (requestTrip k cause s).stage k = s.lockedRecord k cause := by
  have hm := tripLocked_moved h cause
  rw [requestTrip_locks hc hk h, State.lockedRecord]
  cases hp : s.position k with
  | opened =>
    rw [takePosition_opened (by rw [hm.frame.position, hp])]
    exact hm.stage
  | closed => exact (hm.enforced rfl hp).stage
  | transit => exact (hm.discrepant rfl (.inl hp)).stage.trans (lockedRecord_discrepant s k cause)
  | bad => exact (hm.discrepant rfl (.inr hp)).stage.trans (lockedRecord_discrepant s k cause)

theorem requestTrip_stage {s : State} {k : StageId} {cause : Cause} (hc : cause = .unbTrip ∨ cause = .unbHighset)
    (hk : s.configured k = true) : (requestTrip k cause s).stage k = s.tripRecord k cause := by
  unfold State.tripRecord
  cases hst : (s.stage k).state with
  | absent => rw [requestTrip_nothing cause (.inr hst)]
  | ready => exact requestTrip_locked_stage hc hk (.inl hst)
  | discharging => exact requestTrip_locked_stage hc hk (.inr hst)
  | closed => exact (requestTrip_openTaken hc hk (.inl hst)).stage
  | closing =>
    cases hop : (s.stage k).op with
    | some op => rw [requestTrip_cuts hc hk hst hop, set_stage]
    | none => rw [requestTrip_idle hc hk (.inl hst) hop, tripped_stage]
  | opening =>
    cases hop : (s.stage k).op with
    | some op => rw [requestTrip_absorbs hc hk hst hop, set_stage]
    | none => rw [requestTrip_idle hc hk (.inr hst) hop, tripped_stage]
  | lockout => rw [requestTrip_locked hc hk hst, tripped_stage]
  | fault kind =>
    have hfault : (s.stage k).state.isFault = true := by rw [hst]; rfl
    cases hconn : (s.stage k).connected with
    | true => exact (requestTrip_openTaken hc hk (.inr ⟨hfault, hconn⟩)).stage
    | false => rw [requestTrip_fault hc hk hfault hconn, set_stage]; rfl

/-- R47: what a trip makes of a stage is read from the stage itself, its position, its settings and the clock. -/
theorem SwitchFrame.tripRecord {s w : State} (h : SwitchFrame s w) {k : StageId} (hk : w.stage k = s.stage k) (cause : Cause) :
    w.tripRecord k cause = s.tripRecord k cause := by
  have hms : w.ms = s.ms := h.ms
  have hsec : w.seconds = s.seconds := by unfold State.seconds; rw [hms]
  have hlatched : w.latched k = s.latched k := by unfold State.latched; rw [hk]
  have hlocked : w.lockedRecord k cause = s.lockedRecord k cause := by
    unfold State.lockedRecord
    rw [h.position, h.cfg, hms, hsec, hlatched, hk]
  have hopened : (w.tripped k).openTaken k cause 0 = (s.tripped k).openTaken k cause 0 := by
    have hpos : (w.tripped k).position k = (s.tripped k).position k := h.position k
    have hcfg : (w.tripped k).cfg k = (s.tripped k).cfg k := h.cfg k
    have hms' : (w.tripped k).ms = (s.tripped k).ms := hms
    unfold State.openTaken State.openCompleted State.openIssued State.fullDischarge
    rw [hpos, tripped_stage, tripped_stage, hlatched, hcfg, hms']
  unfold State.tripRecord
  rw [hlocked, hopened, hlatched, hk]

/-- R47: every other stage is left as it was. -/
theorem requestTrip_others {s : State} {k : StageId} {cause : Cause} (hc : cause = .unbTrip ∨ cause = .unbHighset) :
    OtherStages k s (requestTrip k cause s) := by
  by_cases h : s.configured k = false ∨ (s.stage k).state = .absent
  · rw [requestTrip_nothing cause h]
    exact fun _ _ => rfl
  · obtain ⟨hk, hne⟩ := not_or.mp h
    exact (requestTrip_taken hc (by simpa using hk) hne).others

/-- R125: one trip of the relay's turn. -/
def sendTrip (trips : Four (Option Cause)) (s : State) (k : StageId) : State :=
  match trips.get k with
  | some cause => requestTrip k cause s
  | none => s

theorem sendTrip_frame (trips : Four (Option Cause)) (s : State) (k : StageId) : SwitchFrame s (sendTrip trips s k) := by
  unfold sendTrip
  split
  · exact requestTrip_frame ..
  · exact .refl s

theorem sendTrip_others {trips : Four (Option Cause)} (ht : ∀ k c, trips.get k = some c → c = .unbTrip ∨ c = .unbHighset)
    (s : State) (k : StageId) : OtherStages k s (sendTrip trips s k) := by
  unfold sendTrip
  split
  next cause h => exact requestTrip_others (ht k cause h)
  · exact fun _ _ => rfl

/-- R125, R126: each trip acts on its stage as the arrival finds it, which the trips of other stages have left alone. -/
theorem foldl_sendTrip {s : State} {trips : Four (Option Cause)}
    (ht : ∀ k c, trips.get k = some c → c = .unbTrip ∨ c = .unbHighset) : ∀ {l : List StageId} {w : State}, l.Nodup →
    SwitchFrame s w → (∀ k ∈ l, s.configured k = true ∧ w.stage k = s.stage k) → ∀ k,
    (∀ cause, k ∈ l → trips.get k = some cause → (l.foldl (sendTrip trips) w).stage k = s.tripRecord k cause) ∧
    (k ∉ l ∨ trips.get k = none → (l.foldl (sendTrip trips) w).stage k = w.stage k)
  | [], w, _, _, _, k => ⟨fun _ hk => absurd hk List.not_mem_nil, fun _ => rfl⟩
  | a :: l, w, hnd, hw, hl, k => by
    obtain ⟨ha, hnd⟩ := List.nodup_cons.mp hnd
    obtain ⟨⟨hconf, hsame⟩, hl⟩ := List.forall_mem_cons.mp hl
    have hothers := sendTrip_others ht w a
    have hne (j : StageId) (hj : j ∈ l) : j ≠ a := fun he => ha (he ▸ hj)
    obtain ⟨hin, hout⟩ := foldl_sendTrip ht hnd (hw.trans (sendTrip_frame trips w a))
      (fun j hj => ⟨(hl j hj).1, (hothers j (hne j hj)).trans (hl j hj).2⟩) k
    rw [List.foldl_cons]
    refine ⟨fun cause hk hcause => ?_, fun h => ?_⟩
    · rcases List.mem_cons.mp hk with rfl | hk
      · rw [hout (.inl ha), sendTrip, hcause]
        exact (requestTrip_stage (ht k cause hcause) (by rw [hw.configured, hconf])).trans (hw.tripRecord hsame cause)
      · exact hin cause hk hcause
    · by_cases hka : k = a
      · subst hka
        have hnone := h.resolve_left fun hn => hn List.mem_cons_self
        rw [hout (.inr hnone), sendTrip, hnone]
      · exact (hout (h.imp_left fun hn hmem => hn (List.mem_cons_of_mem a hmem))).trans (hothers k hka)

/-- R182: a notice of the judgement is a bulletin trigger. -/
theorem relayJudge_triggered {s : State} (h : (relayJudge s).unbAlarm ≠ s.unbAlarm) : Triggered s (relayJudge s) :=
  (relayJudge_frame s).news.resolve_right fun hnews => h hnews.1.unbalance

theorem judgeEntry_sends {c : StageSettings} {u : Nat} {e : RelayEntry} {cause : Cause} : (judgeEntry c u e).2 = some cause ↔
    e.blanking = 0 ∧ e.tripSent = false ∧ tripDue c (e.judged c u) = some cause := by
  by_cases hj : e.blanking = 0 ∧ e.tripSent = false
  · rw [judgeEntry_cause hj.1 hj.2]
    simp [hj]
  · rw [judgeEntry_silent hj]
    simpa using fun hb hs => absurd ⟨hb, hs⟩ hj

theorem sendTrips_stage {trips : Four (Option Cause)} (ht : ∀ k c, trips.get k = some c → c = .unbTrip ∨ c = .unbHighset)
    (s : State) (k : StageId) :
    (∀ cause, s.configured k = true → trips.get k = some cause → (sendTrips trips s).stage k = (requestTrip k cause s).stage k) ∧
    (s.configured k = false ∨ trips.get k = none → (sendTrips trips s).stage k = s.stage k) := by
  obtain ⟨hin, hout⟩ := foldl_sendTrip ht (stageIds_nodup s) (.refl s) (fun j hj => ⟨mem_stageIds.mp hj, rfl⟩) k
  have heq : sendTrips trips s = s.stageIds.foldl (sendTrip trips) s := rfl
  refine ⟨fun cause hk hcause => ?_, fun h => ?_⟩
  · rw [heq, hin cause (mem_stageIds.mpr hk) hcause, requestTrip_stage (ht k cause hcause) hk]
  · rw [heq, hout (h.imp_left fun hk hmem => ?_)]
    exact absurd (hk.symm.trans (mem_stageIds.mp hmem)) (by decide)

end Sys2Proof.Machine
end

section
namespace Sys2Proof.Proofs
open Machine

/-- Settles O24: the figure, the judgement of an entry and of the station, the arrival of the trips. -/
theorem unbalanceTrips : Obligations.UnbalanceTrips := by
  refine ⟨fun c u e hd hh => ⟨?_, ?_, judgeEntry_told, judgeEntry_blanked, judgeEntry_keeps⟩, fun p n => magnitudeOf_eq _,
    fun s k => ⟨relayEntry_unconfigured, relayEntry_resting, relayEntry_serving⟩, fun s hnone => ?_, fun s => ?_,
    fun s k => Four.get_ofFn .., fun trips s ht => ⟨sendTrips_frame trips s, sendTrips_stage ht s⟩⟩
  · rw [judgeEntry_sends, tripDue_highset hh]
  · rw [judgeEntry_sends, tripDue_trip hd hh]
  · have hsettled : s.relaySettled = { s with ur := { entries := .ofFn fun k => (relayEntry s k).1, capture := none } } := by
      have hstep : captureStep s.store s.ur = none := by rw [captureStep, hnone]; rfl
      unfold State.relaySettled State.relayJudged
      rw [hstep]
      exact settleCapture_none rfl _
    rw [relayJudge_eq, hsettled]
    exact ⟨fun h => unbalanceNotice_same h, fun h => unbalanceNotice_changed h⟩
  · obtain ⟨ur, oi, d, heq, hentry⟩ := relaySettled_only s
    obtain ⟨d', al, he, hnotice⟩ := unbalanceNotice_only s.unbAlarm s.relaySettled
    refine ⟨relayJudge_frame s, ?_, ?_, ?_, fun k hk => ?_, fun h => ?_, fun h => ?_⟩
    · rw [relayJudge_eq, hnotice, heq]
    · rw [relayJudge_eq, hnotice, heq]
    · rw [relayJudge_eq, hnotice, heq]
    · rw [relayJudge_eq, hnotice, heq]
      exact hentry k hk
    · rw [relayJudge_eq, unbalanceNotice_unbAlarm] at h
      rw [relayJudge_eq, unbalanceNotice_same h, heq]
      exact ⟨rfl, rfl⟩
    · have htold : Triggered s (relayJudge s) := relayJudge_triggered h
      have hlc : (relayJudge s).lc = { s.lc with triggerDelay := (relayJudge s).lc.triggerDelay } := by
        rw [relayJudge_eq, hnotice, heq]
      rw [show (relayJudge s).lc.triggerDelay = s.delayTriggered from htold] at hlc
      rw [relayJudge_eq, unbalanceNotice_unbAlarm] at h
      refine ⟨?_, ?_, hlc⟩
      · rw [relayJudge_eq, unbalanceNotice_changed h]
        rfl
      · rw [relayJudge_eq, unbalanceNotice_changed h]
        rfl

end Sys2Proof.Proofs
end

/-! ### The course of a capture (R129, R130) -/

section
namespace Sys2Proof.Machine

/-- R130: the order record that an abandoned capture leaves. -/
theorem abandonCapture_ends {s : State} {c : Capture} (h : s.ur.capture = some c) :
    (abandonCapture c.stage s).ur = { s.ur with capture := none } ∧ (abandonCapture c.stage s).oi =
      if s.oi.mark = .capture then { s.oi with last := ⟨c.panel, c.tag, .failed, 21⟩, mark := .none } else s.oi := by
  rw [abandonCapture_named h, captureEnded_eq]
  exact ⟨rfl, rfl⟩

/-- R129: a capture whose stage is in service gathers the cycle's phasor. -/
theorem captureStep_gathers {st : Store} {r : Relay} {c : Capture} (hc : r.capture = some c)
    (hin : (r.entries.get c.stage).inService = true) : captureStep st r = some { c with
      count := c.count + 1, reSum := c.reSum + (st.neutral.get c.stage).re, imSum := c.imSum + (st.neutral.get c.stage).im } := by
  unfold captureStep
  rw [hc]
  exact congrArg some (if_pos hin)

theorem relayEntry_inService (s : State) (k : StageId) : (relayEntry s k).1.inService = (s.ur.entries.get k).inService := by
  cases hk : s.configured k with
  | false => rw [relayEntry_unconfigured hk]
  | true =>
    cases hin : (s.ur.entries.get k).inService with
    | false => rw [relayEntry_resting hk hin]; exact hin
    | true => rw [relayEntry_serving hk hin]; exact judgeEntry_keeps.2.trans hin

theorem relayJudge_ur (s : State) : (relayJudge s).ur = s.relaySettled.ur := (unbalanceNotice_keeps ..).2

theorem relayJudge_oi (s : State) : (relayJudge s).oi = s.relaySettled.oi := (unbalanceNotice_keeps ..).1

end Sys2Proof.Machine
end

section
namespace Sys2Proof.Proofs
open Machine

/-- Settles O25: the alarm of an entry by its level, and the capture through a judgement, a trip and an exit from CLOSED. -/
theorem unbalanceAlarmAndCapture : Obligations.UnbalanceAlarmAndCapture := by
  refine ⟨fun c u e hb hs => ⟨fun hu => ?_, fun hu => ?_, fun hu hu' => ?_⟩, fun c us e hcount ha hdelay hlen hus => ?_,
    fun s c hc hconf hin htrip => ?_, fun s c trips hc ht => ?_, fun s c new hc hnew => ?_⟩
  · obtain ⟨hcount, halarm⟩ := judgeEntry_alarm (c := c) (u := u) hb hs
    rw [hcount, halarm, alarmUpdate_above hu]
    refine ⟨rfl, ?_⟩
    simp only [Bool.or_eq_true, beq_iff_eq]
    exact or_congr_right min_eq_left_iff
  · obtain ⟨hcount, halarm⟩ := judgeEntry_alarm (c := c) (u := u) hb hs
    rw [hcount, halarm, alarmUpdate_below hu]
    exact ⟨rfl, rfl⟩
  · obtain ⟨hcount, halarm⟩ := judgeEntry_alarm (c := c) (u := u) hb hs
    rw [hcount, halarm, alarmUpdate_between hu hu']
    exact ⟨rfl, rfl⟩
  · have h := foldl_alarmUpdate (c := c) (e := e) hus (by omega) (by rw [ha, hcount]; simp; omega)
    rwa [hcount, Nat.zero_add] at h
  · have hcapture : s.relayJudged.ur.capture = some { c with
        count := c.count + 1, reSum := c.reSum + (s.store.neutral.get c.stage).re
        imSum := c.imSum + (s.store.neutral.get c.stage).im } := captureStep_gathers hc hin
    have hserving : (s.relayJudged.ur.entries.get c.stage).inService = true := by
      rw [show s.relayJudged.ur.entries.get c.stage = (relayEntry s c.stage).1 from Four.get_ofFn .., relayEntry_inService, hin]
    refine ⟨fun hn => ?_, fun hn => ?_, relayJudge_frame s⟩
    · have hsettled : s.relaySettled = s.relayJudged :=
        settleCapture_goes hcapture htrip fun h => absurd h.1 (by dsimp only; omega)
      rw [relayJudge_ur, relayJudge_oi, hsettled]
      exact ⟨hcapture, rfl⟩
    · have hsettled := settleCapture_done (trips := fun k => (relayEntry s k).2) hcapture htrip (by dsimp only; omega) hserving
      rw [captureEnded_eq] at hsettled
      have hsettled' : s.relaySettled = _ := hsettled
      rw [relayJudge_ur, relayJudge_oi, hsettled']
      have hentry := Four.get_set_same s.relayJudged.ur.entries c.stage (RelayEntry.install { c with
        count := c.count + 1, reSum := c.reSum + (s.store.neutral.get c.stage).re
        imSum := c.imSum + (s.store.neutral.get c.stage).im } (s.relayJudged.ur.entries.get c.stage))
      exact ⟨rfl, congrArg RelayEntry.null hentry, congrArg RelayEntry.alarm hentry, congrArg RelayEntry.alarmCount hentry,
        congrArg RelayEntry.tripCount hentry, congrArg RelayEntry.highCount hentry, rfl⟩
  · have hframe := abandonCapture_frame c.stage s
    obtain ⟨hur, hoi⟩ := abandonCapture_ends hc
    rw [settleCapture_tripped hc ht]
    exact ⟨hur, hframe, hoi⟩
  · have hleft : (s.modEntry c.stage RelayEntry.leaveService).ur.capture = some c := hc
    obtain ⟨hur, hoi⟩ := abandonCapture_ends hleft
    have hexit : relayNotice c.stage .closed new s =
        unbalanceNotice s.unbAlarm (abandonCapture c.stage (s.modEntry c.stage RelayEntry.leaveService)) := by
      rw [relayNotice, if_neg hnew.symm, if_neg hnew, if_pos rfl]
    have hframe := relayNotice_frame c.stage .closed new s
    rw [hexit] at hframe ⊢
    obtain ⟨noi, nur⟩ := unbalanceNotice_keeps s.unbAlarm (abandonCapture c.stage (s.modEntry c.stage RelayEntry.leaveService))
    intro t
    rw [show t.ur = _ from nur, show t.oi = _ from noi, hur, hoi]
    refine ⟨rfl, ?_, hframe, rfl⟩
    have hentry := Four.get_set_same s.ur.entries c.stage (s.ur.entries.get c.stage).leaveService
    exact (congrArg RelayEntry.null hentry :)

end Sys2Proof.Proofs
end

/-! ### The monitor's cycle (R100 to R103, R112, R113) -/

section
namespace Sys2Proof.Machine

theorem sixZip_toList {α β γ : Type} (f : α → β → γ) (x : Six α) (y : Six β) :
    (Six.zipWith f x y).toList = List.zipWith f x.toList y.toList := rfl

/-- R101: each slot's alarm takes its own step. -/
theorem monitorAlarms_slot {c : Settings} {st : Store} {m : Monitor} {j : Nat} {slot : Slot} {h : Nat} {a : SlotAlarm}
    (hslot : c.slots.toList[j]? = some slot) (hh : st.h.toList[j]? = some h) (ha : m.slots.toList[j]? = some a) :
    (monitorAlarms c st m).slots.toList[j]? = some (slotStep c slot h a) := by
  have hpair : (Six.zipWith Prod.mk st.h m.slots).toList[j]? = some (h, a) := by
    rw [sixZip_toList, List.getElem?_zipWith, hh, ha]
  rw [monitorAlarms, sixZip_toList, List.getElem?_zipWith, hslot, hpair]

theorem slotStep_unused (c : Settings) {slot : Slot} (h : slot.order = none) (x : Nat) (a : SlotAlarm) : slotStep c slot x a = a := by
  unfold slotStep
  rw [h]
  rfl

theorem shedStep_unused (delay : Nat) (permitted : Bool) {slot : Slot} (h : slot.order = none) (a : SlotAlarm) :
    shedStep delay permitted slot a = a := by
  unfold shedStep
  rw [h]
  rfl

theorem shedStep_used (delay : Nat) (permitted : Bool) {slot : Slot} (h : slot.order.isSome = true) (a : SlotAlarm) :
    shedStep delay permitted slot a =
      { a with shed := if a.alarm = true ∧ permitted = true then min delay (a.shed + 1) else 0 } := by
  have hused : slot.order.isNone = false := by simpa using h
  unfold shedStep
  rw [hused]
  cases a.alarm <;> cases permitted <;> rfl

theorem qualifies_iff (c : Settings) (index : Nat) (slot : Slot) (a : SlotAlarm) : qualifies c index slot a = true ↔
    ∃ h, slot.order = some h ∧ a.shed = c.shedDelay ∧ distance index (10 * h) ≤ c.guard := by
  unfold qualifies
  cases slot.order <;> simp [inBand]

/-- R101, R102: step 1 on the state. -/
def State.alarmed (s : State) : State := { s with hm := monitorAlarms s.settings s.store s.hm }

/-- R112: the monitor after steps 1 and 2. -/
def State.shedMonitor (s : State) : Monitor := { monitorAlarms s.settings s.store s.hm with
  slots := Six.zipWith (shedStep s.settings.shedDelay s.permitted) s.settings.slots
    (monitorAlarms s.settings s.store s.hm).slots }

/-- R113: the slots that qualify. -/
def State.shedMarks (s : State) : Six Bool :=
  Six.zipWith (qualifies s.settings s.presentIndex) s.settings.slots s.shedMonitor.slots

/-- R103: the state that step 3 finds. -/
def State.counted (s : State) : State :=
  if s.alarmed.harmAlarm = s.harmAlarm then { s with hm := s.shedMonitor }
  else { s with
    hm := s.shedMonitor, lc := { s.lc with triggerDelay := s.delayTriggered }, alarm := s.alarmed.alarmDue, healthy := s.healthyDue }

theorem counted_eq (s : State) : shedCounted (harmonicNotice s.harmAlarm s.alarmed) = s.counted := by
  unfold harmonicNotice State.counted
  by_cases h : s.alarmed.harmAlarm = s.harmAlarm
  · rw [if_pos h, if_pos h]
    rfl
  · rw [if_neg h, if_neg h, trigger_eq]
    rfl

theorem monitorCycle_eq {s : State} (hw : s.store.weak = false) (x : Snapshot) :
    monitorCycle x s = shedTest x.inService s.counted := by
  rw [← counted_eq, monitorCycle, if_neg (by simp [hw])]
  rfl

/-- The monitor after steps 1 and 2, beside any news of its alarm. -/
def State.monitored (s : State) (d : Option Nat) (al he : Bool) : State :=
  { s with hm := s.shedMonitor, lc := { s.lc with triggerDelay := d }, alarm := al, healthy := he }

/-- R103: the notice changes no more than the trigger delay and the outputs. -/
theorem counted_only (s : State) : ∃ d al he, s.counted = s.monitored d al he := by
  unfold State.counted
  split
  · exact ⟨s.lc.triggerDelay, s.alarm, s.healthy, rfl⟩
  · exact ⟨_, _, _, rfl⟩

/-- R113: the state on which the shed is requested. -/
def State.shedding (s : State) (d : Option Nat) (al he : Bool) : State := { s with
  hm := { s.shedMonitor with
    slots := Six.zipWith (fun q a => if q then { a with shed := 0 } else a) s.shedMarks s.shedMonitor.slots }
  lc := { s.lc with triggerDelay := d }, alarm := al, healthy := he }

/-- R113: no slot qualifies, or no stage is left to shed. -/
theorem shedTest_idle {s : State} {inService : List StageId}
    (h : (∀ b ∈ (Six.zipWith (qualifies s.settings s.presentIndex) s.settings.slots s.hm.slots).toList, b = false) ∨
      unblocked s inService = []) : shedTest inService s = s := by
  unfold shedTest
  dsimp only
  rcases h with h | h
  · refine if_neg ?_
    rw [List.any_eq_true]
    rintro ⟨b, hb, hid⟩
    rw [h b hb] at hid
    cases hid
  · rw [h]
    exact ite_self _

/-- R113: the newest-closed unblocked stage is shed. -/
theorem shedTest_sheds {s : State} {inService : List StageId} {k : StageId}
    (h : true ∈ (Six.zipWith (qualifies s.settings s.presentIndex) s.settings.slots s.hm.slots).toList)
    (hk : (unblocked s inService).getLast? = some k) : shedTest inService s = requestOpen k .harmShed 0 { s with hm := { s.hm with
      slots := Six.zipWith (fun q a => if q then { a with shed := 0 } else a)
        (Six.zipWith (qualifies s.settings s.presentIndex) s.settings.slots s.hm.slots) s.hm.slots } } := by
  unfold shedTest
  dsimp only
  rw [if_pos (List.any_eq_true.mpr ⟨true, h, rfl⟩)]
  obtain ⟨rest, hrest⟩ := List.head?_eq_some_iff.mp (List.head?_reverse.trans hk)
  rw [hrest]

end Sys2Proof.Machine
end

section
namespace Sys2Proof.Proofs
open Machine

/-- Settles O23: the steps of each slot and of the THD alarm, then the cycle without and with a shed. -/
theorem monitorTakesCycle : Obligations.MonitorTakesCycle := by
  refine ⟨fun x s hw => if_pos hw, fun c st m => ⟨fun ha hx => ?_, fun ha hx => ?_, fun ha hx => ?_, fun ha hx => ?_,
      fun j slot h a hslot hh hm => ?_⟩,
    fun delay permitted slot a h => shedStep_used delay permitted h a, fun delay permitted slot a h => shedStep_unused delay permitted h a,
    qualifies_iff, fun x s hw => ⟨fun h => ?_, fun k hmark hk hconf hst => ?_⟩⟩
  · have hstep := alarmStep_above (p := c.persistence) (hysteresis := c.hysteresis) (run := m.thdRun) hx
    rw [← hstep, ← ha]
    rfl
  · have hstep := alarmStep_not_above (p := c.persistence) (hysteresis := c.hysteresis) (run := m.thdRun) hx
    rw [← hstep, ← ha]
    rfl
  · have hstep := alarmStep_below_clear (p := c.persistence) (limit := c.thdLimit) (run := m.thdRun) hx
    rw [← hstep, ← ha]
    rfl
  · have hstep := alarmStep_not_below_clear (p := c.persistence) (limit := c.thdLimit) (run := m.thdRun) hx
    rw [← hstep, ← ha]
    rfl
  · have hslots := monitorAlarms_slot hslot hh hm
    exact ⟨hslots, fun hunused => by rw [hslots, slotStep_unused c hunused]⟩
  · rw [monitorCycle_eq hw]
    obtain ⟨d, al, he, heq⟩ := counted_only s
    refine (shedTest_idle ?_).trans rfl
    rw [heq]
    exact h
  · have hframe := monitorCycle_frame x s
    obtain ⟨d, al, he, heq⟩ := counted_only s
    have hmoved : monitorCycle x s = issueOpen k .harmShed 0 (s.shedding d al he) := by
      have hblock : s.blockSet.get k = false := by
        have hmem : k ∈ unblocked s x.inService := List.mem_of_getLast? hk
        simpa using (List.mem_filter.mp hmem).2
      have hpass : openRefusal (s.shedding d al he) k.num .harmShed = none :=
        (openRefusal_none_iff (s.shedding d al he) k .harmShed hconf).mpr ⟨fun _ => ⟨hblock, hst⟩, .inl hst⟩
      rw [monitorCycle_eq hw, heq]
      exact (shedTest_sheds (s := s.monitored d al he) hmark hk).trans (requestOpen_issues hpass (.inl hst) 0)
    have htaken := issueOpen_taken (NoticeFrame.refl (s.shedding d al he)) (.inl hst) .harmShed 0
    rw [hmoved] at hframe ⊢
    exact ⟨htaken.frame.hm, htaken.stage, htaken.others, htaken.inService.trans (if_pos hst), hframe⟩

end Sys2Proof.Proofs
end

/-! ### What no event of an evaluated cycle touches: the port, the store, the cause MEAS_LOST (R8, R10, R12) -/

section
namespace Sys2Proof.Machine

/-- The port and the store are left, and MEAS_LOST neither joins the causes nor leaves them. -/
structure MeasureKept (s t : State) : Prop where
  port : t.port = s.port
  store : t.store = s.store
  cause : t.vc.causes.measLost = s.vc.causes.measLost

theorem MeasureKept.refl (s : State) : MeasureKept s s := ⟨rfl, rfl, rfl⟩

theorem MeasureKept.trans {s t u : State} (h : MeasureKept s t) (h' : MeasureKept t u) : MeasureKept s u :=
  ⟨h'.port.trans h.port, h'.store.trans h.store, h'.cause.trans h.cause⟩

/-- A switching event that leaves the causes. -/
theorem SwitchFrame.measureKept {s t : State} (h : SwitchFrame s t) (hc : t.vc.causes = s.vc.causes) : MeasureKept s t :=
  ⟨h.port, h.store, congrArg CauseSet.measLost hc⟩

theorem MeasureKept.foldl {α : Type} {f : State → α → State} (hf : ∀ s a, MeasureKept s (f s a)) (l : List α) (s : State) :
    MeasureKept s (l.foldl f s) := by
  induction l generalizing s with
  | nil => exact .refl s
  | cons a l ih => exact (hf s a).trans (ih _)

theorem modStage_measureKept (k : StageId) (f : Stage → Stage) (s : State) : MeasureKept s (s.modStage k f) := ⟨rfl, rfl, rfl⟩

/-- A change of one stage's record and then of its state. -/
theorem changed_measureKept (k : StageId) (new : StageState) (f : Stage → Stage) (s : State) :
    MeasureKept s (changeStage k new (s.modStage k f)) :=
  (modStage_measureKept k f s).trans ((changeStage_frame ..).measureKept (changeStage_causes ..))

theorem endChain_measureKept (c : Chain) (e : ChainEnd) (s : State) : MeasureKept s (endChain c e s) := by
  have hframe := endChain_frame c e s
  exact ⟨hframe.port, hframe.store, by rw [endChain_causes]⟩

theorem settleChain_measureKept (x : SwitchReport) (s : State) : MeasureKept s (settleChain x s) := by
  unfold settleChain
  split
  · exact .refl s
  · split
    · exact .refl s
    · split
      · split
        · exact endChain_measureKept ..
        · split
          · exact (advanceChain_frame ..).toSwitchFrame.measureKept (advanceChain_causes ..)
          · exact endChain_measureKept ..
      · exact .refl s

theorem report_measureKept (x : SwitchReport) (s : State) : MeasureKept s (report x s) := by
  have hreported := (reported_frame x s).toSwitchFrame.measureKept (reported_causes x s)
  have hsettled := (settleOrder_frame x (reported x s)).toSwitchFrame.measureKept
    (congrArg Controller.causes (settleOrder_vc x (reported x s)))
  exact (hreported.trans hsettled).trans (settleChain_measureKept ..)

theorem completeOpen_measureKept (k : StageId) (op : Operation) (timed : Bool) (s : State) :
    MeasureKept s (completeOpen k op timed s) := by
  unfold completeOpen
  exact (changed_measureKept ..).trans (report_measureKept ..)

theorem issueOpen_measureKept (k : StageId) (cause : Cause) (n : Nat) (s : State) : MeasureKept s (issueOpen k cause n s) := by
  unfold issueOpen
  dsimp only
  exact guarded (P := MeasureKept s) (changed_measureKept ..) fun _ => (changed_measureKept ..).trans (completeOpen_measureKept ..)

theorem actOpen_measureKept (k : StageId) (cause : Cause) (n : Nat) (s : State) : MeasureKept s (actOpen k cause n s) := by
  unfold actOpen
  split
  · exact issueOpen_measureKept ..
  · split
    · exact ⟨rfl, rfl, rfl⟩
    · exact .refl s
  · split
    · exact ⟨rfl, rfl, rfl⟩
    · exact .refl s
  · exact guarded (P := MeasureKept s) (.refl s) fun _ => issueOpen_measureKept ..
  · exact .refl s

theorem requestOpen_measureKept (k : StageId) (cause : Cause) (n : Nat) (s : State) : MeasureKept s (requestOpen k cause n s) := by
  unfold requestOpen
  split
  · exact .refl s
  · exact actOpen_measureKept ..

theorem deadLineNotice_measureKept (k : StageId) (s : State) : MeasureKept s (deadLineNotice k s) :=
  guarded (P := MeasureKept s) (.refl s) fun _ => requestOpen_measureKept ..

theorem completeClose_measureKept (k : StageId) (op : Operation) (timed : Bool) (s : State) :
    MeasureKept s (completeClose k op timed s) := by
  unfold completeClose
  dsimp only
  refine MeasureKept.trans ?_ (deadLineNotice_measureKept ..)
  split
  · exact ((changed_measureKept ..).trans (report_measureKept ..)).trans (issueOpen_measureKept ..)
  · exact (changed_measureKept ..).trans (report_measureKept ..)

theorem issueClose_measureKept (k : StageId) (cause : Cause) (n : Nat) (s : State) : MeasureKept s (issueClose k cause n s) := by
  have hduty : MeasureKept s (s.addDuty k) := modStage_measureKept ..
  unfold issueClose
  dsimp only
  exact guarded (P := MeasureKept s) (hduty.trans (changed_measureKept ..)) fun _ =>
    (hduty.trans (changed_measureKept ..)).trans (completeClose_measureKept ..)

theorem externalClose_measureKept (k : StageId) (s : State) : MeasureKept s (externalClose k s) := by
  have hduty : MeasureKept s (s.addExternalDuty k) := modStage_measureKept ..
  exact (hduty.trans ((changed_measureKept ..).trans (report_measureKept ..))).trans (deadLineNotice_measureKept ..)

theorem takePosition_measureKept (k : StageId) (s : State) : MeasureKept s (takePosition k s) := by
  have hduty : MeasureKept s (s.addExternalDuty k) := modStage_measureKept ..
  unfold takePosition
  dsimp only
  split
  · split
    · exact guarded (P := MeasureKept s) (externalClose_measureKept ..) fun _ => hduty.trans (issueOpen_measureKept ..)
    · exact modStage_measureKept ..
    · exact modStage_measureKept ..
    · exact .refl s
  · exact .refl s

theorem tripRefused_measureKept (k : StageId) (cause : Cause) (s : State) : MeasureKept s (tripRefused k cause s) := by
  unfold tripRefused
  split
  · exact (changed_measureKept ..).trans (takePosition_measureKept ..)
  · exact (changed_measureKept ..).trans (takePosition_measureKept ..)
  · exact modStage_measureKept ..
  · exact .refl s

theorem requestTrip_measureKept (k : StageId) (cause : Cause) (s : State) : MeasureKept s (requestTrip k cause s) := by
  unfold requestTrip
  split
  · exact .refl s
  · dsimp only
    split
    · exact (modStage_measureKept ..).trans (tripRefused_measureKept ..)
    · exact (modStage_measureKept ..).trans (actOpen_measureKept ..)

theorem pruneRequest_measureKept (s : State) (dir : Direction) (n : Nat) : MeasureKept s (pruneRequest s dir n) := by
  unfold pruneRequest pruneFor
  split
  · split
    · exact modStage_measureKept ..
    · exact .refl s
  · exact .refl s

theorem actRequest_measureKept (dir : Direction) (k : StageId) (cause : Cause) (s : State) :
    MeasureKept s (actRequest dir k cause s) := by
  unfold actRequest
  split
  · exact issueClose_measureKept ..
  · exact actOpen_measureKept ..

/-- R193: the step of a chain, issued or refused. -/
theorem serveStep_measureKept (s : State) : MeasureKept s (serveStep s) := by
  unfold serveStep
  split
  · exact .refl s
  next c _ =>
    split
    · exact .refl s
    next st _ =>
      split
      · exact .refl s
      · have hprune := pruneRequest_measureKept s st.dir st.stage
        unfold serveSwitch
        split
        · exact endChain_measureKept ..
        · dsimp only
          split
          · exact hprune.trans (endChain_measureKept ..)
          · split
            · exact (hprune.trans (u := { pruneRequest s st.dir st.stage with oi.chain := some { c with operating := true } })
                ⟨rfl, rfl, rfl⟩).trans (actRequest_measureKept ..)
            · exact hprune

theorem settleDue_measureKept (s : State) : MeasureKept s (settleDue s) := by
  have hserve (n : Nat) (t : State) : MeasureKept t (serveDue n t) := by
    induction n generalizing t with
    | zero => exact .refl t
    | succ n ih => exact guarded (P := MeasureKept t) (.refl t) fun _ => (serveStep_measureKept t).trans (ih _)
  exact hserve 6 s

/-! The three blocks' turns. -/

theorem declareDead_measureKept (live : List StageId) (s : State) : MeasureKept s (declareDead live s) := by
  have hframe := (deadSuspended_frame s).toSwitchFrame
  have hsuspended : MeasureKept s s.deadSuspended := by
    refine ⟨hframe.port, hframe.store, ?_⟩
    rw [State.deadSuspended, trigger_vc, (addCause_keeps ..).2.2.1]
    rfl
  have hrequested : MeasureKept s.deadSuspended (s.deadRequested live) :=
    .foldl (fun t k => requestOpen_measureKept k .deadLine 0 t) live _
  rw [declareDead_eq]
  refine (hsuspended.trans hrequested).trans ?_
  unfold chainDeadLine
  split
  · exact endChain_measureKept ..
  · exact .refl _

theorem endDead_measureKept (s : State) : MeasureKept s (endDead s) := by
  have hframe := ((removeCause_frame .deadLine s.deadEnded).trans (trigger_frame _)).toSwitchFrame
  refine ⟨hframe.port, hframe.store, ?_⟩
  rw [endDead_vc, (removeCause_keeps ..).2.2.2.1]
  rfl

theorem deadLineTest_measureKept (live : List StageId) (s : State) : MeasureKept s (deadLineTest live s) := by
  unfold deadLineTest
  split
  · exact guarded (P := MeasureKept s) ⟨rfl, rfl, rfl⟩ fun _ => endDead_measureKept s
  · exact guarded (P := MeasureKept s) ⟨rfl, rfl, rfl⟩ fun _ => declareDead_measureKept live s

theorem withdraw_measureKept (r : Reason) (s : State) : MeasureKept s (withdraw r s) :=
  (withdraw_frame r s).toSwitchFrame.measureKept (withdraw_keeps r s).2.2.1

theorem overvoltageWithdraw_measureKept (s : State) : MeasureKept s (overvoltageWithdraw s) := by
  unfold overvoltageWithdraw
  split
  · exact guarded (P := MeasureKept s) (.refl s) fun _ => withdraw_measureKept ..
  · exact .refl s

theorem fastOpen_measureKept (inService : List StageId) (s : State) : MeasureKept s (fastOpen inService s) := by
  unfold fastOpen
  split
  · exact requestOpen_measureKept ..
  · exact .refl s

theorem fastOvTest_measureKept (inService : List StageId) (s : State) : MeasureKept s (fastOvTest inService s) := by
  have hcounted (vc : Controller) (h : vc.causes = s.vc.causes) : MeasureKept s { s with vc := vc } :=
    ⟨rfl, rfl, congrArg CauseSet.measLost h⟩
  have hopen (vc : Controller) (h : vc.causes = s.vc.causes) :
      MeasureKept s (overvoltageWithdraw (fastOpen inService { s with vc := vc })) :=
    ((hcounted vc h).trans (fastOpen_measureKept ..)).trans (overvoltageWithdraw_measureKept _)
  unfold fastOvTest
  split
  · split
    · exact guarded (P := MeasureKept s) ⟨rfl, rfl, rfl⟩ fun _ => hopen _ rfl
    · exact guarded (P := MeasureKept s) ((hcounted { s.vc with fovRep := s.vc.fovRep + 1 } rfl).trans (overvoltageWithdraw_measureKept _)) fun _ => hopen _ rfl
  · exact ⟨rfl, rfl, rfl⟩

theorem prune_measureKept (k : StageId) (s : State) : MeasureKept s (s.prune k) := modStage_measureKept ..

theorem raiseWalk_measureKept (l : List StageId) (s : State) : MeasureKept s (raiseWalk l s).1 := by
  induction l generalizing s with
  | nil => exact .refl s
  | cons k rest ih =>
    unfold raiseWalk
    dsimp only
    split
    · exact prune_measureKept ..
    · exact (prune_measureKept k s).trans (ih _)

theorem propose_measureKept (dir : Direction) (k : StageId) (s : State) : MeasureKept s (propose dir k s) := by
  have hcontrol := propose_control dir k s
  exact ⟨hcontrol.port, hcontrol.store, by rw [(propose_proposed dir k s).vc]⟩

theorem demandRaise_measureKept (s : State) : MeasureKept s (demandRaise s) := by
  have hwalk := raiseWalk_measureKept (unblocked s s.ready) s
  unfold demandRaise
  split
  next w k r heq =>
    rw [heq] at hwalk
    have henter : MeasureKept w (enterExecuting k .close 0 w) := ⟨rfl, rfl, rfl⟩
    exact guarded (P := MeasureKept s) (hwalk.trans (propose_measureKept ..)) fun _ =>
      (hwalk.trans henter).trans (issueClose_measureKept ..)
  next w r heq =>
    rw [heq] at hwalk
    exact hwalk.trans ⟨rfl, rfl, rfl⟩
  next w heq =>
    rw [heq] at hwalk
    exact hwalk.trans ⟨rfl, rfl, rfl⟩

theorem demandLower_measureKept (s : State) : MeasureKept s (demandLower s) := by
  have henter (k : StageId) : MeasureKept s (enterExecuting k .opening 0 s) := ⟨rfl, rfl, rfl⟩
  unfold demandLower
  split
  · split
    · split
      · exact (henter _).trans (actOpen_measureKept ..)
      · exact ⟨rfl, rfl, rfl⟩
    · exact propose_measureKept ..
  · exact ⟨rfl, rfl, rfl⟩

theorem demand_measureKept (s : State) : MeasureKept s (demand s) := by
  unfold demand
  split
  · split
    · exact ⟨rfl, rfl, rfl⟩
    · exact guarded (P := MeasureKept s) (demandRaise_measureKept s) fun _ => ⟨rfl, rfl, rfl⟩
  · split
    · exact guarded (P := MeasureKept s) (demandLower_measureKept s) fun _ => ⟨rfl, rfl, rfl⟩
    · exact ⟨rfl, rfl, rfl⟩

theorem accumulate_measureKept (s : State) : MeasureKept s (accumulate s) := by
  unfold accumulate
  split
  · generalize updateAccumulators s.settings s.store.vctl s.vc.low s.vc.high = p
    exact MeasureKept.trans (t := { s with vc := { s.vc with low := p.1, high := p.2 } }) ⟨rfl, rfl, rfl⟩ (demand_measureKept _)
  · exact .refl s

theorem monitorCycle_measureKept (x : Snapshot) (s : State) : MeasureKept s (monitorCycle x s) := by
  cases hw : s.store.weak with
  | true => rw [show monitorCycle x s = s from if_pos hw]; exact .refl s
  | false =>
    obtain ⟨d, al, he, heq⟩ := counted_only s
    have hcounted : MeasureKept s s.counted := by
      rw [heq]
      exact ⟨rfl, rfl, rfl⟩
    rw [monitorCycle_eq hw]
    refine hcounted.trans ?_
    generalize s.counted = w
    unfold shedTest
    dsimp only
    split
    · split
      · refine MeasureKept.trans ?_ (requestOpen_measureKept ..)
        exact ⟨rfl, rfl, rfl⟩
      · exact .refl w
    · exact .refl w

theorem relayJudge_measureKept (s : State) : MeasureKept s (relayJudge s) := by
  obtain ⟨ur, oi, d, heq, -⟩ := relaySettled_only s
  obtain ⟨d', al, he, hnotice⟩ := unbalanceNotice_only s.unbAlarm s.relaySettled
  rw [relayJudge_eq, hnotice, heq]
  exact ⟨rfl, rfl, rfl⟩

theorem evaluateBlock_measureKept (x : Snapshot) (s : State) (b : CycleBlock) : MeasureKept s (evaluateBlock x s b) := by
  cases b with
  | voltage => exact ((deadLineTest_measureKept ..).trans (fastOvTest_measureKept ..)).trans (accumulate_measureKept _)
  | harmonic => exact monitorCycle_measureKept ..
  | unbalance =>
    refine .foldl (fun t k => ?_) _ _
    split
    · exact requestTrip_measureKept ..
    · exact .refl t

/-- R12: the whole evaluation. -/
theorem evaluated_measureKept (x : Snapshot) (o : CycleOrder) (s : State) :
    MeasureKept s (settleDue (o.blocks.foldl (evaluateBlock x) (relayJudge s))) :=
  ((relayJudge_measureKept s).trans (.foldl (evaluateBlock_measureKept x) _ _)).trans (settleDue_measureKept _)

end Sys2Proof.Machine
end

/-! ### The evaluated cycle (R2, R10, R12) -/

section
namespace Sys2Proof.Machine

/-- R2, R10, R12: the store and the port of an accepted cycle that is evaluated. -/
def State.cycleStored (s : State) (w : SampleSet) (r : Run) : State := { s with
  store := computeStore s.settings r.sets r.clipped
  port := { s.port with
    run := some (newRun s.settings w), markTimer := some (markTimeout s.strap), discards := 0, lost := false
    recovery := if s.port.lost then 0 else s.port.recovery } }

/-- R10: the state that the blocks take the cycle on. -/
def State.cycleTaken (s : State) (w : SampleSet) (r : Run) : State :=
  if s.port.lost then rejudge (removeCause .measLost (s.cycleStored w r)) else s.cycleStored w r

theorem markedSet_evaluates (w : SampleSet) (o : CycleOrder) {s : State} {r : Run} (h : s.port.run = some r) (hr : r.count = 32)
    (hl : s.port.lost = true → 9 ≤ s.port.recovery) : markedSet w o s = evaluate o (s.cycleTaken w r) := by
  rw [markedSet_accept w o h hr, acceptCycle, State.cycleTaken]
  cases hlost : s.port.lost with
  | true =>
    have hten : 10 ≤ (runBegun w s).port.recovery + 1 := Nat.succ_le_succ (hl hlost)
    rw [if_pos (show (runBegun w s).port.lost = true from hlost), if_pos rfl]
    dsimp only
    rw [if_pos hten, declareRecovered]
    congr 3
    simp [State.cycleStored, runBegun, hlost]
  | false =>
    rw [if_neg (by rw [show (runBegun w s).port.lost = false from hlost]; decide), if_neg (by decide)]
    dsimp only
    congr 1
    simp [State.cycleStored, runBegun, hlost]

theorem cycleTaken_valid {s : State} (h : s.port.lost = false) (w : SampleSet) (r : Run) : s.cycleTaken w r = s.cycleStored w r := by
  unfold State.cycleTaken
  rw [if_neg (by rw [h]; decide)]

theorem cycleTaken_recovered {s : State} (h : s.port.lost = true) (w : SampleSet) (r : Run) :
    s.cycleTaken w r = rejudge (removeCause .measLost (s.cycleStored w r)) := if_pos h

theorem recovered_frame (v : State) : NoticeFrame v (rejudge (removeCause .measLost v)) :=
  (removeCause_frame .measLost v).trans (rejudge_frame _)

theorem cycleTaken_frame (s : State) (w : SampleSet) (r : Run) : NoticeFrame (s.cycleStored w r) (s.cycleTaken w r) := by
  cases h : s.port.lost with
  | false => rw [cycleTaken_valid h]; exact .refl _
  | true => rw [cycleTaken_recovered h]; exact recovered_frame _

theorem cycleTaken_keeps (s : State) (w : SampleSet) (r : Run) : (s.cycleTaken w r).ix = s.ix ∧ (s.cycleTaken w r).ur = s.ur ∧
    (s.cycleTaken w r).oi = s.oi ∧
    (s.cycleTaken w r).vc.causes.measLost = (if s.port.lost then false else s.vc.causes.measLost) := by
  cases h : s.port.lost with
  | false => rw [cycleTaken_valid h]; exact ⟨rfl, rfl, rfl, rfl⟩
  | true =>
    obtain ⟨hoi, hur, hix, hcauses, -⟩ := removeCause_keeps .measLost (s.cycleStored w r)
    rw [cycleTaken_recovered h]
    exact ⟨hix, hur, hoi, congrArg CauseSet.measLost hcauses⟩

/-- R76, R80, R182: a recovery that takes the last cause away lets a suspended controller into QUIET. -/
theorem cycleTaken_control {s : State} (h : s.port.lost = true) (w : SampleSet) (r : Run) :
    if s.vc.causes = ⟨false, false, false, true, false, false, false⟩ ∧ s.vc.state = .suspended
    then (s.cycleTaken w r).vc.state = .quiet ∧ (s.cycleTaken w r).vc.low = 0 ∧ (s.cycleTaken w r).vc.high = 0 ∧
      (s.cycleTaken w r).vc.stationSettle = some (1000 * s.settings.stationSettle) ∧
      Triggered (s.cycleStored w r) (s.cycleTaken w r)
    else (s.cycleTaken w r).vc = { s.vc with causes := { s.vc.causes with measLost := false } } := by
  rw [cycleTaken_recovered h]
  split
  next hlast => exact removeCause_quiet (c := .measLost) (s := s.cycleStored w r) hlast.1 hlast.2
  next hlast =>
    rw [removeCause_kept (c := .measLost) (s := s.cycleStored w r) hlast]
    rfl

/-- R10, R201: the causes and the outputs after a recovery. -/
theorem cycleTaken_judged {s : State} (h : s.port.lost = true) (w : SampleSet) (r : Run) :
    (s.cycleTaken w r).vc.causes = { s.vc.causes with measLost := false } ∧
    (s.cycleTaken w r).alarm = (s.cycleTaken w r).alarmDue ∧ (s.cycleTaken w r).healthy = (s.cycleTaken w r).healthyDue := by
  rw [cycleTaken_recovered h]
  exact ⟨(removeCause_keeps .measLost (s.cycleStored w r)).2.2.2.1, rfl, rfl⟩

theorem cycleStored_frame (s : State) (w : SampleSet) (r : Run) : CycleFrame s (s.cycleStored w r) :=
  cycleFrame_of s _ _ s.vc s.hm s.ix.own s.ix.nextNumber rfl rfl rfl rfl rfl

/-- The orders in which the three turns come are all there are. -/
theorem perm_blocks (l : List CycleBlock) : l.Perm [.voltage, .harmonic, .unbalance] ↔ ∃ o : CycleOrder, o.blocks = l := by
  refine ⟨fun h => ?_, ?_⟩
  · have hmem : l ∈ [CycleBlock.voltage, .harmonic, .unbalance].permutations' := List.mem_permutations'.mpr h
    have hlist : [CycleBlock.voltage, .harmonic, .unbalance].permutations' =
        [CycleOrder.vhu, .hvu, .huv, .vuh, .uvh, .uhv].map CycleOrder.blocks := by decide
    obtain ⟨o, -, ho⟩ := List.mem_map.mp (hlist ▸ hmem)
    exact ⟨o, ho⟩
  · rintro ⟨o, rfl⟩
    cases o <;> decide

end Sys2Proof.Machine
end

section
namespace Sys2Proof.Proofs
open Machine

/-- Settles O13: the state that the blocks take the cycle on, their turns, and what the whole leaves. -/
theorem acceptedCycleIsEvaluated : Obligations.AcceptedCycleIsEvaluated := by
  have hexec (w : SampleSet) (o : CycleOrder) (s : State) (r : Run) (hw : s.port.working = true) (hrun : s.port.run = some r)
      (hcount : r.count = 32) (hlost : s.port.lost = true → 9 ≤ s.port.recovery) :
      exec (.cycleCompletion w o) s = .next (settleDue (evaluate o (s.cycleTaken w r))) := by
    rw [exec_cycleCompletion w o hw, markedSet_evaluates w o hrun hcount hlost]
  refine ⟨fun w o s r hw hrun hcount hlost => ?_, fun w o s r hw hrun hcount hlost => ?_, perm_blocks,
    fun x s => ⟨rfl, rfl, rfl⟩, fun s => ⟨rfl, mem_live s, fun k => Four.get_ofFn ..⟩, fun x s => ⟨fun h => if_pos h, fun h => if_neg h⟩,
    fun s h => settleDue_of_not_due h⟩
  · have hkept := evaluated_measureKept (snapshot (s.cycleTaken w r)) o (s.cycleTaken w r)
    have htaken := cycleTaken_frame s w r
    refine ⟨_, hexec w o s r hw hrun hcount hlost, hkept.store.trans htaken.store, hkept.port.trans htaken.port,
      hkept.cause.trans (cycleTaken_keeps s w r).2.2.2, ?_⟩
    exact (((cycleStored_frame s w r).trans htaken.cycle).trans (evaluate_frame ..)).trans (settleDue_frame _).cycle
  · have htaken := cycleTaken_frame s w r
    obtain ⟨hix, hur, hoi, -⟩ := cycleTaken_keeps s w r
    refine ⟨hexec w o s r hw hrun hcount hlost, htaken.store, htaken.port, htaken, hix, hur, hoi, fun hl => ?_⟩
    obtain ⟨hcauses, halarm, hhealthy⟩ := cycleTaken_judged hl w r
    exact ⟨hcauses, halarm, hhealthy, cycleTaken_control hl w r⟩

end Sys2Proof.Proofs
end

/-! ### The figures of a cycle (R14 to R23) -/

section
namespace Sys2Proof.Machine

/-- R14: the correlation as a sum over the samples' numbers. -/
theorem correlate_sum (table : List Int) (h : Nat) (xs : List Int) (k : Nat) : correlate table h k xs =
    ((List.range xs.length).map fun i => xs.getD i 0 * table.getD (h * (k + i) % 32) 0).sum := by
  induction xs generalizing k with
  | nil => rfl
  | cons x xs ih =>
    rw [correlate, ih, List.length_cons, List.range_succ_eq_map, List.map_cons, List.sum_cons, List.map_map]
    congr 2
    refine List.map_congr_left fun i _ => ?_
    simp only [Function.comp, List.getD_cons_succ, Nat.succ_eq_add_one]
    rw [show k + (i + 1) = k + 1 + i by omega]

theorem natAbs_clampInt (x : Int) : (clampInt (-65535) 65535 x).natAbs ≤ 65535 := by
  unfold clampInt
  omega

/-- R21: a phase as it is stored. -/
def storedPhase (weak : Bool) (f : PhaseFigures) : PhaseFigures := if weak then f else distortPhase f

theorem storedPhase_keeps (weak : Bool) (f : PhaseFigures) : (storedPhase weak f).phasor = f.phasor ∧
    (storedPhase weak f).magnitude = f.magnitude ∧ (storedPhase weak f).v = f.v := by
  cases weak <;> exact ⟨rfl, rfl, rfl⟩

/-- R19, R21: a slot of a phase as it is stored. -/
def storedSlot (weak : Bool) (magnitude nominal : Nat) (xs : List Int) (slot : Slot) : SlotFigures :=
  let g := slotFigures xs nominal slot
  if weak then g else { g with d := distortion g.magnitude magnitude }

theorem storedPhase_slots (weak : Bool) (slots : Six Slot) (xs : List Int) (nominal : Nat) :
    (storedPhase weak (phaseFigures slots xs nominal)).slots =
      slots.map (storedSlot weak (phaseFigures slots xs nominal).magnitude nominal xs) := by
  cases weak <;> rfl

theorem storedPhase_thd (weak : Bool) (slots : Six Slot) (xs : List Int) (nominal : Nat) :
    (storedPhase weak (phaseFigures slots xs nominal)).thd = if weak then 0
      else min 1000 (Nat.sqrt ((storedPhase weak (phaseFigures slots xs nominal)).slots.toList.map fun g => g.d ^ 2).sum) := by
  cases weak with
  | true => rfl
  | false =>
    have hroot : (storedPhase false (phaseFigures slots xs nominal)).thd =
      thdOf ((storedPhase false (phaseFigures slots xs nominal)).slots.toList.map SlotFigures.d) := rfl
    rw [hroot, thdOf, clamped_isqrt (by norm_num), List.map_map]
    simp only [Nat.pow_two]
    rfl

/-- R19: an unused slot is not computed. -/
theorem storedSlot_unused (weak : Bool) (magnitude nominal : Nat) (xs : List Int) {slot : Slot} (h : slot.order = none) :
    storedSlot weak magnitude nominal xs slot = ⟨⟨0, 0⟩, 0, 0, 0⟩ := by
  have hzero : slotFigures xs nominal slot = .zero := by rw [slotFigures, h]
  unfold storedSlot
  rw [hzero]
  cases weak with
  | true => rfl
  | false => simp [SlotFigures.zero, distortion]

/-- R16, R19, R21: a used slot. -/
theorem storedSlot_used (weak : Bool) (magnitude nominal : Nat) (xs : List Int) {slot : Slot} {h : Nat} (ho : slot.order = some h) :
    (storedSlot weak magnitude nominal xs slot).phasor = phasorOf h xs ∧
    (storedSlot weak magnitude nominal xs slot).magnitude = magnitudeOf (phasorOf h xs) ∧
    (storedSlot weak magnitude nominal xs slot).h = harmonicMagnitude (magnitudeOf (phasorOf h xs)) nominal ∧
    (storedSlot weak magnitude nominal xs slot).d =
      if weak then 0 else min 1000 (1000 * magnitudeOf (phasorOf h xs) / magnitude) := by
  have hused : slotFigures xs nominal slot = ⟨phasorOf h xs, magnitudeOf (phasorOf h xs),
      harmonicMagnitude (magnitudeOf (phasorOf h xs)) nominal, 0⟩ := by rw [slotFigures, ho]
  unfold storedSlot
  rw [hused]
  cases weak <;> exact ⟨rfl, rfl, rfl, rfl⟩

theorem storedSlot_h_le (weak : Bool) (magnitude nominal : Nat) (xs : List Int) (slot : Slot) :
    (storedSlot weak magnitude nominal xs slot).h ≤ 1000 := by
  cases ho : slot.order with
  | none => rw [storedSlot_unused weak magnitude nominal xs ho]; exact Nat.zero_le _
  | some h => rw [(storedSlot_used weak magnitude nominal xs ho).2.2.1]; exact Nat.min_le_left ..

theorem sixMap_toList {α β : Type} (f : α → β) (x : Six α) : (x.map f).toList = x.toList.map f := rfl

/-- R17, R20 and so on: every figure of one phase of a computed store, by its formula. -/
structure PhaseByFormula (weak : Bool) (slots : Six Slot) (nominal : Nat) (xs : List Int) (ph : PhaseFigures) : Prop where
  phasor : ph.phasor = phasorOf 1 xs
  re : ph.phasor.re.natAbs ≤ 65535
  im : ph.phasor.im.natAbs ≤ 65535
  magnitude : ph.magnitude = min 65535 (Nat.sqrt (ph.phasor.re.natAbs ^ 2 + ph.phasor.im.natAbs ^ 2))
  v : ph.v = min 2000 ((2000 * ph.magnitude + nominal) / (2 * nominal))
  slots : ∀ (i : Nat) (slot : Slot) (g : SlotFigures), slots.toList[i]? = some slot → ph.slots.toList[i]? = some g →
    (slot.order = none → g = ⟨⟨0, 0⟩, 0, 0, 0⟩) ∧
    ∀ h, slot.order = some h → g.phasor = phasorOf h xs ∧
      g.magnitude = min 65535 (Nat.sqrt (g.phasor.re.natAbs ^ 2 + g.phasor.im.natAbs ^ 2)) ∧
      g.h = min 1000 ((2000 * g.magnitude + nominal) / (2 * nominal)) ∧
      g.d = if weak then 0 else min 1000 (1000 * g.magnitude / ph.magnitude)
  thd : ph.thd = if weak then 0 else min 1000 (Nat.sqrt (ph.slots.toList.map fun g => g.d ^ 2).sum)

theorem storedPhase_formula (weak : Bool) (slots : Six Slot) (nominal : Nat) (xs : List Int) :
    PhaseByFormula weak slots nominal xs (storedPhase weak (phaseFigures slots xs nominal)) := by
  obtain ⟨hphasor, hmagnitude, hv⟩ := storedPhase_keeps weak (phaseFigures slots xs nominal)
  refine ⟨hphasor, ?_, ?_, ?_, ?_, fun i slot g hslot hg => ?_, storedPhase_thd weak slots xs nominal⟩
  · rw [hphasor]
    exact natAbs_clampInt _
  · rw [hphasor]
    exact natAbs_clampInt _
  · rw [hmagnitude, hphasor]
    exact magnitudeOf_eq _
  · rw [hv, hmagnitude]
    rfl
  · rw [storedPhase_slots, sixMap_toList, List.getElem?_map, hslot] at hg
    obtain rfl := Option.some.inj hg
    refine ⟨fun ho => storedSlot_unused weak _ nominal xs ho, fun h ho => ?_⟩
    obtain ⟨gphasor, gmagnitude, gh, gd⟩ := storedSlot_used weak (phaseFigures slots xs nominal).magnitude nominal xs ho
    rw [gphasor, gmagnitude, gh, gd, hmagnitude]
    exact ⟨rfl, magnitudeOf_eq _, rfl, rfl⟩

end Sys2Proof.Machine
end

section
namespace Sys2Proof.Machine

variable (c : Settings) (sets : List (Signals Int)) (flags : Signals Bool)

/-- R21: the phases of a computed store are those of the samples, with the ratios where the flag is clear. -/
theorem computeStore_phases : (computeStore c sets flags).phases =
    ⟨storedPhase (computeStore c sets flags).weak (phaseFigures c.slots (sets.map Signals.va) c.nominal.a),
     storedPhase (computeStore c sets flags).weak (phaseFigures c.slots (sets.map Signals.vb) c.nominal.b),
     storedPhase (computeStore c sets flags).weak (phaseFigures c.slots (sets.map Signals.vc) c.nominal.c)⟩ := by
  have hweak : (computeStore c sets flags).phases = if (computeStore c sets flags).weak then _ else Three.map distortPhase _ := rfl
  rw [hweak]
  cases (computeStore c sets flags).weak <;> rfl

/-- R20. -/
theorem computeStore_weak : (computeStore c sets flags).weak = true ↔
    (computeStore c sets flags).phases.a.magnitude < c.nominal.a / 10 ∨
    (computeStore c sets flags).phases.b.magnitude < c.nominal.b / 10 ∨
    (computeStore c sets flags).phases.c.magnitude < c.nominal.c / 10 := by
  have hflag : (computeStore c sets flags).weak =
    (weakPhase (phaseFigures c.slots (sets.map Signals.va) c.nominal.a) c.nominal.a ||
     weakPhase (phaseFigures c.slots (sets.map Signals.vb) c.nominal.b) c.nominal.b ||
     weakPhase (phaseFigures c.slots (sets.map Signals.vc) c.nominal.c) c.nominal.c) := rfl
  rw [computeStore_phases]
  simp only [(storedPhase_keeps _ _).2.1]
  rw [hflag]
  simp [weakPhase, or_assoc]

/-- R19: the station figure of a slot. -/
theorem stationH_slot {ph : Three PhaseFigures} {i : Nat} {a b d : SlotFigures} (ha : ph.a.slots.toList[i]? = some a)
    (hb : ph.b.slots.toList[i]? = some b) (hd : ph.c.slots.toList[i]? = some d) :
    (stationH ph).toList[i]? = some (max a.h (max b.h d.h)) := by
  simp only [stationH, sixZip_toList, sixMap_toList, List.getElem?_zipWith, List.getElem?_map, ha, hb, hd, Option.map_some]

theorem computeStore_formula : let st := computeStore c sets flags
    PhaseByFormula st.weak c.slots c.nominal.a (sets.map Signals.va) st.phases.a ∧
    PhaseByFormula st.weak c.slots c.nominal.b (sets.map Signals.vb) st.phases.b ∧
    PhaseByFormula st.weak c.slots c.nominal.c (sets.map Signals.vc) st.phases.c := by
  have hphases := computeStore_phases c sets flags
  intro st
  rw [show st.phases = _ from hphases]
  exact ⟨storedPhase_formula .., storedPhase_formula .., storedPhase_formula ..⟩

variable {c sets flags}

theorem PhaseByFormula.v_le {weak : Bool} {slots : Six Slot} {nominal : Nat} {xs : List Int} {ph : PhaseFigures}
    (h : PhaseByFormula weak slots nominal xs ph) : ph.v ≤ 2000 := by
  rw [h.v]
  exact Nat.min_le_left ..

theorem PhaseByFormula.thd_le {weak : Bool} {slots : Six Slot} {nominal : Nat} {xs : List Int} {ph : PhaseFigures}
    (h : PhaseByFormula weak slots nominal xs ph) : ph.thd ≤ 1000 := by
  rw [h.thd]
  split
  · exact Nat.zero_le _
  · exact Nat.min_le_left ..

theorem storedPhase_h_le (weak : Bool) (slots : Six Slot) (xs : List Int) (nominal : Nat) :
    ∀ g ∈ (storedPhase weak (phaseFigures slots xs nominal)).slots.toList, g.h ≤ 1000 := by
  rw [storedPhase_slots, sixMap_toList]
  intro g hg
  obtain ⟨slot, -, rfl⟩ := List.mem_map.mp hg
  exact storedSlot_h_le ..

theorem stationH_le {ph : Three PhaseFigures} (ha : ∀ g ∈ ph.a.slots.toList, g.h ≤ 1000)
    (hb : ∀ g ∈ ph.b.slots.toList, g.h ≤ 1000) (hc : ∀ g ∈ ph.c.slots.toList, g.h ≤ 1000) : ∀ h ∈ (stationH ph).toList, h ≤ 1000 := by
  intro h hmem
  obtain ⟨i, hi⟩ := List.mem_iff_getElem?.mp hmem
  simp only [stationH, sixZip_toList, sixMap_toList, List.getElem?_zipWith_eq_some, List.getElem?_map, Option.map_eq_some_iff] at hi
  obtain ⟨_, _, ⟨a, hia, rfl⟩, ⟨_, _, ⟨b, hib, rfl⟩, ⟨d, hid, rfl⟩, rfl⟩, rfl⟩ := hi
  exact max_le (ha a (List.mem_of_getElem? hia)) (max_le (hb b (List.mem_of_getElem? hib)) (hc d (List.mem_of_getElem? hid)))

end Sys2Proof.Machine
end

section
namespace Sys2Proof.Proofs
open Machine

/-- Settles O15: the correlation, the three phases, the station. -/
theorem storeFigures : Obligations.StoreFigures := by
  refine ⟨fun h xs => ?_, fun c sets flags _ _ _ => ?_⟩
  · simp only [phasorOf, correlate_sum, Nat.zero_add]
    rfl
  · have hweak := computeStore_weak c sets flags
    have hphases := computeStore_phases c sets flags
    obtain ⟨ha, hb, hc⟩ := computeStore_formula c sets flags
    intro st p
    have hthd : st.thd = max p.a.thd (max p.b.thd p.c.thd) := rfl
    have hvctl : st.vctl = (p.a.v + p.b.v + p.c.v) / 3 := rfl
    refine ⟨hvctl, rfl, ?_, fun i a b d ha hb hd => stationH_slot ha hb hd, fun k => Four.get_ofFn .., hweak, fun hw => ?_, hthd,
      ?_, max_le ha.v_le (max_le hb.v_le hc.v_le), hthd ▸ max_le ha.thd_le (max_le hb.thd_le hc.thd_le), ?_, rfl⟩
    · simp only [List.forall_mem_cons, List.not_mem_nil, false_implies, implies_true, and_true]
      exact ⟨⟨ha.phasor, ha.re, ha.im, ha.magnitude, ha.v, ha.slots, ha.thd⟩,
        ⟨hb.phasor, hb.re, hb.im, hb.magnitude, hb.v, hb.slots, hb.thd⟩,
        hc.phasor, hc.re, hc.im, hc.magnitude, hc.v, hc.slots, hc.thd⟩
    · rw [hthd, ha.thd, hb.thd, hc.thd, if_pos hw, if_pos hw, if_pos hw]
      rfl
    · have hva : p.a.v ≤ 2000 := ha.v_le
      have hvb : p.b.v ≤ 2000 := hb.v_le
      have hvc : p.c.v ≤ 2000 := hc.v_le
      rw [hvctl]
      omega
    · refine stationH_le (ph := p) ?_ ?_ ?_
      all_goals
        rw [show p = _ from hphases]
        exact storedPhase_h_le _ _ _ _

end Sys2Proof.Proofs
end
